-- ==== Sys2Proof/Word.lean ====
section
/-! DEFINITION. The word types of the Noroon W7 (spec/00_scope.md R3, spec/04_registers.md R67). -/

namespace Sys2Proof

/-- A byte of memory. -/
abbrev Byte := BitVec 8

/-- A scalar register, a doubleword, a virtual or local address (R67, R108). -/
abbrev Word := BitVec 64

/-- One row of a tile or of an accumulator: 256 bytes, byte `k` in bits `8k+7` to `8k` (R67, R71). -/
abbrev Row := BitVec 2048

/-- The 16 sidecar bytes of one tile row (R73). -/
abbrev ScaleRow := BitVec 128

end Sys2Proof
end

