-- ==== Sys2Proof/Syntax.lean ====
section
/-! DEFINITION. The instructions and the steps of the Noroon W7 as syntax: one constructor of `Instr` for
every row of spec/opcode_table.json. Operand files and qualifiers follow R173 to R175. -/

namespace Sys2Proof

/-- A g register number (R173). -/
abbrev GReg := Fin 32
/-- An f register number. -/
abbrev FReg := Fin 16
/-- A mask register number. -/
abbrev MReg := Fin 8
/-- A tile register number, before rotation (R63). -/
abbrev TReg := Fin 16
/-- An accumulator number. -/
abbrev AReg := Fin 8
/-- A physical core number (R15). -/
abbrev CoreId := Fin 256
/-- A hardware queue number (R22). -/
abbrev QueueId := Fin 32

/-- The w field (R175): 64 bits, or 32 bits with a sign-extended result. -/
inductive Width where
  | x | w
  deriving DecidableEq, Repr

/-- The sz field: 1, 2, 4 or 8 bytes. -/
inductive Size where
  | b | h | w | d
  deriving DecidableEq, Repr

/-- The sz3 field of atomics, with 16 bytes added. -/
inductive Size3 where
  | b | h | w | d | q
  deriving DecidableEq, Repr

/-- Scopes (R80, R124), narrowest first. -/
inductive Scope where
  | core | quire | die | device | span | system
  deriving DecidableEq, Repr

/-- The ord and sc fields together: sc is 0 when ord is none (R175). -/
inductive MemOrd where
  | none
  | acq (s : Scope)
  | rel (s : Scope)
  | acqrel (s : Scope)
  deriving DecidableEq, Repr

/-- The full/empty qualifier (R112). -/
inductive Fe where
  | nf | fe | fec | ef
  deriving DecidableEq, Repr

/-- The rounding modes (R85). -/
inductive Round where
  | rne | rtz | rdn | rup
  deriving DecidableEq, Repr

/-- The element types (R83), in the order of their codes. -/
inductive Ty where
  | fp32 | bf16 | fp16 | e4m3 | e5m2 | mxe4m3 | mxe5m2 | e2m3 | e3m2 | e2m1 | i8 | i32
  deriving DecidableEq, Repr

/-- Branch conditions (R175). -/
inductive Cond where
  | eq | ne | lt | ge | ltu | geu
  deriving DecidableEq, Repr

/-- Fence kinds (R129). -/
inductive FenceKind where
  | r | w | rw
  deriving DecidableEq, Repr

/-- The operations of the atomics (R212). -/
inductive AOp where
  | swap | cas | add | and | or | xor | min | max | minu | maxu | fadd
  deriving DecidableEq, Repr

/-- A gang: the launch (numbered as the device takes records) and the gang index in it (R22). -/
structure GangKey where
  launch : Nat
  gang : Nat
  deriving DecidableEq, Repr

/-- What a kill names (R49, R324). -/
inductive KillTarget where
  | task (k : GangKey) (peer : Nat)
  | gang (k : GangKey)
  | launch (l : Nat)
  | queue (q : QueueId)
  | context (ctx : BitVec 12)
  deriving DecidableEq, Repr

/-- A cache that may hold F lines (R153): an L2 slice, the L1 caches of a core, the peer device. -/
inductive CacheId where
  | slice (n : Fin 64)
  | core (c : CoreId)
  | peer
  deriving DecidableEq, Repr

/-- What a barrier arrival sent over the link comes to (R225, R226, R366). -/
inductive PhaseAnswer where
  | phase (p : BitVec 8)
  | absent
  | uninitialised
  deriving DecidableEq, Repr

/-- The master that an access carries (R290). -/
structure Master where
  part : BitVec 3
  ctx : BitVec 12
  deriving DecidableEq, Repr

/-- Where a transaction of the link comes from (R363): its master, the core and the engine of that core; `fenced` where a
fence places it after the engine's earlier ones (R362). -/
structure Origin where
  master : Master
  core : CoreId
  engine : Nat
  fenced : Bool
  deriving DecidableEq, Repr

/-- What every transaction of the link carries, with the tag by which its answer is known (R363). -/
structure LinkId where
  origin : Origin
  tag : Nat
  deriving DecidableEq, Repr

/-- A freeze event (R152, R363): one core applies event `n`, or an event of the peer device over some of its frames,
numbered in the peer-device range, arrives over the link. -/
inductive FreezeMsg where
  | core (c : CoreId) (n : Nat)
  | peer (m : Origin) (tag : Nat) (frames : List Nat)
  deriving DecidableEq, Repr

/-- A thaw sweep or its acknowledgement (R156, R363): of this device at one of its caches, or of the peer device, which
arrives over the link. -/
inductive SweepMsg where
  | own (cache : CacheId)
  | peer (m : Origin) (tag : Nat)
  deriving DecidableEq, Repr

/-- Who acknowledges a freeze event (R152, R363): a core, or the peer device over the link. -/
inductive FreezeAck where
  | core (c : CoreId)
  | peer (m : Origin)
  deriving DecidableEq, Repr

/-- The address whose bytes a response of the peer device brings, and the request that it answers (R363). -/
structure ResponseFor where
  id : LinkId
  pa : Nat
  deriving DecidableEq, Repr

/-- The gang that an arrival from the peer device names (R366): the sender, with its context, the PAIR of its launch, the
gang index. -/
structure PairedGang where
  origin : Origin
  tag : Nat
  pair : BitVec 32
  gang : Nat
  deriving DecidableEq, Repr

/-- Where an error that is found lies (R324): in a dirty or a clean L2 line, or in HBM data. -/
inductive LineError where
  | dirty | clean | hbm
  deriving DecidableEq, Repr

/-- Where a transaction of the link is performed (R363). -/
inductive LinkTarget where
  | home (pa : Nat)
  | store (k : GangKey) (peer : Nat) (off : Nat)
  deriving DecidableEq, Repr

/-- A transaction of the peer device (R363), as the steps that perform them have it. -/
inductive LinkTransaction where
  | read (m : Origin) (pa len tag : Nat)
  | write (m : Origin) (pa : Nat) (bytes : List (Option Byte)) (rel : Option Scope) (tag : Nat)
  | atomic (m : Origin) (op : AOp) (n : Size3) (pa : Nat) (src cmp : BitVec 128) (rel : Option Scope) (tag : Nat)
  | copyWrite (m : Origin) (t : LinkTarget) (bytes : List Byte) (tag : Nat)
  | reduceWrite (m : Origin) (t : LinkTarget) (bf16 lossy : Bool) (elems : List (BitVec 32)) (tag : Nat)
  | freeze (m : Origin) (tag : Nat) (frames : List Nat)
  | sweep (m : Origin) (tag : Nat) (frames : List Nat)
  | arrival (k : PairedGang) (cell : Fin 96)
  deriving DecidableEq, Repr

/-- A transaction whose bytes lay in a voided slot, by its sender and tag, and what it touches (R362). -/
structure LostTransaction where
  origin : Origin
  tag : Nat
  /-- A freeze event, a sweep or an arrival touches no bytes. -/
  target : Option LinkTarget
  len : Nat
  deriving DecidableEq, Repr

/-- A VOID flit: its header, and the transactions that its slot has lost, which the receiver must expect again, with the
bytes at the end of the payload before and at the start of the one after that belong to split ones (R362). -/
structure VoidFlit where
  header : BitVec 96
  lost : List LostTransaction
  before : Nat
  after : Nat
  deriving DecidableEq, Repr

/-- The lifecycle fuses (R374). -/
inductive Fuse where
  | deploy | return_
  deriving DecidableEq, Repr

/-- One constructor per row of spec/opcode_table.json: first the 197 encoded instructions in the table's
order (R176, R177), then the 74 steps of the device's other agents
(spec/95_what_each_step_holds.md), with what the outside supplies as operands. -/
inductive Instr where
  -- classes 0x00 and 0x01
  | fend
  | nop
  -- class 0x02, R182
  | add (gd ga gb : GReg) (wd : Width)
  | sub (gd ga gb : GReg) (wd : Width)
  | and (gd ga gb : GReg) (wd : Width)
  | or (gd ga gb : GReg) (wd : Width)
  | xor (gd ga gb : GReg) (wd : Width)
  | andn (gd ga gb : GReg) (wd : Width)
  | shl (gd ga gb : GReg) (wd : Width)
  | shr (gd ga gb : GReg) (wd : Width)
  | sra (gd ga gb : GReg) (wd : Width)
  | rol (gd ga gb : GReg) (wd : Width)
  | ror (gd ga gb : GReg) (wd : Width)
  | mul (gd ga gb : GReg) (wd : Width)
  | mulhs (gd ga gb : GReg) (wd : Width)
  | mulhu (gd ga gb : GReg) (wd : Width)
  | divs (gd ga gb : GReg) (wd : Width)
  | divu (gd ga gb : GReg) (wd : Width)
  | rems (gd ga gb : GReg) (wd : Width)
  | remu (gd ga gb : GReg) (wd : Width)
  | min (gd ga gb : GReg) (wd : Width)
  | max (gd ga gb : GReg) (wd : Width)
  | minu (gd ga gb : GReg) (wd : Width)
  | maxu (gd ga gb : GReg) (wd : Width)
  | slt (gd ga gb : GReg) (wd : Width)
  | sltu (gd ga gb : GReg) (wd : Width)
  | seq (gd ga gb : GReg) (wd : Width)
  | sne (gd ga gb : GReg) (wd : Width)
  | clz (gd ga : GReg) (wd : Width)
  | ctz (gd ga : GReg) (wd : Width)
  | popc (gd ga : GReg) (wd : Width)
  | bswap (gd ga : GReg) (wd : Width)
  -- class 0x03, R184
  | addi (gd ga : GReg) (imm : BitVec 22) (wd : Width)
  | andi (gd ga : GReg) (imm : BitVec 22) (wd : Width)
  | ori (gd ga : GReg) (imm : BitVec 22) (wd : Width)
  | xori (gd ga : GReg) (imm : BitVec 22) (wd : Width)
  | shli (gd ga : GReg) (imm : BitVec 22) (wd : Width)
  | shri (gd ga : GReg) (imm : BitVec 22) (wd : Width)
  | srai (gd ga : GReg) (imm : BitVec 22) (wd : Width)
  | rori (gd ga : GReg) (imm : BitVec 22) (wd : Width)
  | muli (gd ga : GReg) (imm : BitVec 22) (wd : Width)
  | slti (gd ga : GReg) (imm : BitVec 22) (wd : Width)
  | sltui (gd ga : GReg) (imm : BitVec 22) (wd : Width)
  | seqi (gd ga : GReg) (imm : BitVec 22) (wd : Width)
  | mini (gd ga : GReg) (imm : BitVec 22) (wd : Width)
  | maxi (gd ga : GReg) (imm : BitVec 22) (wd : Width)
  -- classes 0x04 and 0x05, R185
  | li (gd : GReg) (imm : BitVec 64)
  | adr (gd : GReg) (imm : BitVec 32)
  | lea (gd ga gb : GReg) (shift : Fin 8) (imm : BitVec 19)
  -- class 0x08, R186; d is true for FP64
  | fadd (fd fa fb : FReg) (rm : Round) (d : Bool)
  | fsub (fd fa fb : FReg) (rm : Round) (d : Bool)
  | fmul (fd fa fb : FReg) (rm : Round) (d : Bool)
  | fdiv (fd fa fb : FReg) (rm : Round) (d : Bool)
  | fsqrt (fd fa : FReg) (rm : Round) (d : Bool)
  | fma (fd fa fb fc : FReg) (rm : Round) (d : Bool)
  | fmin (fd fa fb : FReg) (d : Bool)
  | fmax (fd fa fb : FReg) (d : Bool)
  | fabs (fd fa : FReg) (d : Bool)
  | fneg (fd fa : FReg) (d : Bool)
  -- class 0x09, R188
  | fmvfg (fd : FReg) (gs : GReg) (d : Bool)
  | fmvgf (gd : GReg) (fs : FReg) (d : Bool)
  | fcvtfi (fd : FReg) (gs : GReg) (rm : Round) (d : Bool)
  | fcvtif (gd : GReg) (fs : FReg) (rm : Round) (d : Bool)
  | fcvtsd (fd fs : FReg) (rm : Round)
  | fcvtds (fd fs : FReg)
  | fcmpeq (gd : GReg) (fs : FReg) (d : Bool)
  | fcmplt (gd : GReg) (fs : FReg) (d : Bool)
  | fcmple (gd : GReg) (fs : FReg) (d : Bool)
  | fclass (gd : GReg) (fs : FReg) (d : Bool)
  -- classes 0x0C to 0x12, R190 to R197
  | b (cond : Cond) (ga gb : GReg) (off : BitVec 27)
  | brc (gc : GReg) (off : BitVec 32)
  | j (off : BitVec 32)
  | call (off : BitVec 32)
  | jr (ga : GReg) (label : BitVec 16)
  | callr (ga : GReg) (label : BitVec 16)
  | ret
  | jt (gi : GReg) (bound label : BitVec 16) (off : BitVec 32)
  | lpad (label : BitVec 16)
  | exit
  | edone
  -- classes 0x14 to 0x19, R209; sp is true for a local address
  | ld (gd : GReg) (sz : Size) (sx : Bool) (gb : GReg) (ord : MemOrd) (off : BitVec 20)
  | st (gs : GReg) (sz : Size) (gb : GReg) (ord : MemOrd) (off : BitVec 20)
  | ldl (gd : GReg) (sz : Size) (sx : Bool) (gb : GReg) (ord : MemOrd) (q : Fe) (off : BitVec 20)
  | stl (gs : GReg) (sz : Size) (gb : GReg) (ord : MemOrd) (q : Fe) (off : BitVec 20)
  | fld (fd : FReg) (d sp : Bool) (gb : GReg) (ord : MemOrd) (q : Fe) (off : BitVec 20)
  | fst (fs : FReg) (d sp : Bool) (gb : GReg) (ord : MemOrd) (q : Fe) (off : BitVec 20)
  -- class 0x1A, R212
  | aswap (gd : GReg) (sz : Size3) (gb gs : GReg) (ord : MemOrd) (sp : Bool) (off : BitVec 32)
  | acas (gd : GReg) (sz : Size3) (gb gs gc : GReg) (ord : MemOrd) (sp : Bool) (off : BitVec 32)
  | aadd (gd : GReg) (sz : Size3) (gb gs : GReg) (ord : MemOrd) (sp : Bool) (off : BitVec 32)
  | aand (gd : GReg) (sz : Size3) (gb gs : GReg) (ord : MemOrd) (sp : Bool) (off : BitVec 32)
  | aor (gd : GReg) (sz : Size3) (gb gs : GReg) (ord : MemOrd) (sp : Bool) (off : BitVec 32)
  | axor (gd : GReg) (sz : Size3) (gb gs : GReg) (ord : MemOrd) (sp : Bool) (off : BitVec 32)
  | amin (gd : GReg) (sz : Size3) (gb gs : GReg) (ord : MemOrd) (sp : Bool) (off : BitVec 32)
  | amax (gd : GReg) (sz : Size3) (gb gs : GReg) (ord : MemOrd) (sp : Bool) (off : BitVec 32)
  | aminu (gd : GReg) (sz : Size3) (gb gs : GReg) (ord : MemOrd) (sp : Bool) (off : BitVec 32)
  | amaxu (gd : GReg) (sz : Size3) (gb gs : GReg) (ord : MemOrd) (sp : Bool) (off : BitVec 32)
  | afadd (gd : GReg) (sz : Size3) (gb gs : GReg) (ord : MemOrd) (sp : Bool) (off : BitVec 32)
  -- classes 0x1C to 0x1F, R231, R238, R241
  | tld (td : TReg) (ty : Ty) (gb gs gx : GReg) (m : MReg) (q : Fe) (sp : Bool) (off : BitVec 32)
  | tldt (td : TReg) (ty : Ty) (gb gs : GReg) (m : MReg) (sp : Bool) (off : BitVec 32)
  | tldx (td : TReg) (ty : Ty) (gb gs : GReg) (m : MReg) (q : Fe) (sp : Bool) (off : BitVec 32)
  | tst (ts : TReg) (ty : Ty) (gb gs gx : GReg) (m : MReg) (q : Fe) (sp : Bool) (off : BitVec 32)
  | tstt (ts : TReg) (ty : Ty) (gb gs : GReg) (m : MReg) (sp : Bool) (off : BitVec 32)
  | tstx (ts : TReg) (ty : Ty) (gb gs : GReg) (m : MReg) (q : Fe) (sp : Bool) (off : BitVec 32)
  | tgather (td : TReg) (ty : Ty) (ti : TReg) (row : Fin 64) (gb : GReg) (m : MReg) (sp : Bool)
      (off : BitVec 32)
  | tzmask (gd : GReg) (ts : TReg)
  | tmov (td ts : TReg)
  | tzero (td : TReg)
  -- classes 0x20 and 0x21, R242, R244
  | tmma (ad : AReg) (ta tb : TReg) (tya tyb : Ty) (mr mc : MReg)
  | azero (ad : AReg) (mr mc : MReg)
  | amov (ad as : AReg) (mr mc : MReg)
  | ald (ad : AReg) (gb : GReg) (mr mc : MReg) (sp : Bool) (off : BitVec 32)
  | ast (as : AReg) (gb : GReg) (mr mc : MReg) (sp : Bool) (off : BitVec 32)
  | acvt (td : TReg) (as : AReg) (ty : Ty) (rm : Round) (sat : Bool) (h : Fin 8) (mr mc : MReg)
  | afrom (ad : AReg) (ts : TReg) (ty : Ty) (h : Fin 8) (mr mc : MReg)
  | aaddAccumulator (ad as : AReg) (ty : Ty) (mr mc : MReg)
  -- class 0x24, R253
  | tadd (td ta tb : TReg) (ty : Ty) (m : MReg) (rm : Round) (sat : Bool)
  | tsub (td ta tb : TReg) (ty : Ty) (m : MReg) (rm : Round) (sat : Bool)
  | tmul (td ta tb : TReg) (ty : Ty) (m : MReg) (rm : Round) (sat : Bool)
  | tfma (td ta tb tc : TReg) (ty : Ty) (m : MReg) (rm : Round) (sat : Bool)
  | tmin (td ta tb : TReg) (ty : Ty) (m : MReg)
  | tmax (td ta tb : TReg) (ty : Ty) (m : MReg)
  | tabs (td ta : TReg) (ty : Ty) (m : MReg) (sat : Bool)
  | tneg (td ta : TReg) (ty : Ty) (m : MReg) (sat : Bool)
  | tand (td ta tb : TReg) (ty : Ty) (m : MReg)
  | tor (td ta tb : TReg) (ty : Ty) (m : MReg)
  | txor (td ta tb : TReg) (ty : Ty) (m : MReg)
  | tshl (td ta tb : TReg) (ty : Ty) (m : MReg)
  | tshr (td ta tb : TReg) (ty : Ty) (m : MReg)
  | tsra (td ta tb : TReg) (ty : Ty) (m : MReg)
  | tcmpeq (td ta tb : TReg) (ty : Ty) (m : MReg)
  | tcmplt (td ta tb : TReg) (ty : Ty) (m : MReg)
  | tcmple (td ta tb : TReg) (ty : Ty) (m : MReg)
  | tcmpun (td ta tb : TReg) (ty : Ty) (m : MReg)
  | tsel (td ta tb tc : TReg) (ty : Ty) (m : MReg)
  | texp2 (td ta : TReg) (ty : Ty) (m : MReg)
  | trcp (td ta : TReg) (ty : Ty) (m : MReg)
  | trsq (td ta : TReg) (ty : Ty) (m : MReg)
  -- class 0x25, R257
  | tadds (td ta : TReg) (gs : GReg) (ty : Ty) (m : MReg) (rm : Round) (sat : Bool)
  | tsubs (td ta : TReg) (gs : GReg) (ty : Ty) (m : MReg) (rm : Round) (sat : Bool)
  | tmuls (td ta : TReg) (gs : GReg) (ty : Ty) (m : MReg) (rm : Round) (sat : Bool)
  | tmins (td ta : TReg) (gs : GReg) (ty : Ty) (m : MReg)
  | tmaxs (td ta : TReg) (gs : GReg) (ty : Ty) (m : MReg)
  | tfill (td : TReg) (gs : GReg) (ty : Ty) (m : MReg)
  | tscale (td ta : TReg) (gs : GReg) (ty : Ty) (m : MReg) (rm : Round) (sat : Bool)
  -- class 0x26, R258
  | trsum (td ta : TReg) (ty : Ty) (m : MReg) (rm : Round)
  | tcsum (td ta : TReg) (ty : Ty) (m : MReg) (rm : Round)
  | trmax (td ta : TReg) (ty : Ty) (m : MReg)
  | tcmax (td ta : TReg) (ty : Ty) (m : MReg)
  | trmin (td ta : TReg) (ty : Ty) (m : MReg)
  | tcmin (td ta : TReg) (ty : Ty) (m : MReg)
  -- class 0x27, R261
  | ttr (td ta : TReg) (ty : Ty) (m : MReg)
  | trowb (td ta : TReg) (ty : Ty) (r : BitVec 8) (m : MReg)
  | tcolb (td ta : TReg) (ty : Ty) (c : BitVec 8) (m : MReg)
  | trot (td ta : TReg) (ty : Ty) (c : BitVec 8) (m : MReg)
  | tshuf (td ta tb : TReg) (ty : Ty) (r : BitVec 8) (m : MReg)
  -- class 0x28, R262
  | tcvt (td ta : TReg) (ty tys : Ty) (h : Fin 16) (m : MReg) (rm : Round) (sat : Bool)
  | tcvtChoose (td ta : TReg) (ty tys : Ty) (h : Fin 16) (m : MReg) (rm : Round) (sat : Bool)
  | tcvtGiven (td ta : TReg) (ty tys : Ty) (tx : TReg) (m : MReg) (rm : Round) (sat : Bool)
  -- class 0x29, R264
  | mand (md ma mb : MReg)
  | mor (md ma mb : MReg)
  | mxor (md ma mb : MReg)
  | mnot (md ma : MReg)
  | mset (md : MReg) (gs : GReg)
  | mget (gd : GReg) (ma : MReg)
  | mpopc (gd : GReg) (ma : MReg)
  -- classes 0x2C and 0x2D, R214, R220
  | copy (gd gs gq : GReg) (dsp ssp : Bool)
  | copyr (gd gs gq : GReg) (bf16 lossy dsp ssp : Bool)
  | discard (gd gs : GReg)
  | bseal (gd : GReg)
  | bwait (gd : GReg) (n : BitVec 16)
  -- classes 0x30 to 0x34, R223, R224, R227, R198
  | fence (sc : Scope) (kind : FenceKind)
  | barinit (gc gs : GReg)
  | bararr (gd gc : GReg) (sc : Scope)
  | barwait (gd gc gs : GReg) (sc : Scope)
  | barsync (gd gc : GReg) (sc : Scope)
  | freeze (gd ga gl : GReg) (sc : Scope)
  | thaw (gd ga gl : GReg)
  | thawwait (ga : GReg)
  | publish (ga gl : GReg) (sc : Scope)
  | callat (ga gp : GReg) (slot : Fin 16)
  | reply (gs : GReg)
  | waitrp (gd ga : GReg) (slot : Fin 16)
  -- class 0x38, R203
  | trap (g : GReg) (imm : BitVec 16)
  | mfcr (gd : GReg) (crn : BitVec 12)
  | mtcr (crn : BitVec 12) (gs : GReg)
  | pause
  -- class 0x3C, R295
  | csave (gd ga : GReg)
  | cload (gd ga : GReg)
  | tlbinv (ga gb : GReg) (n : BitVec 17)
  | tlbinvc (gb : GReg)
  | wcinv (ga gb : GReg) (n : BitVec 17)
  | frameset (ga gb : GReg) (n : BitVec 17)
  | mboxset (gd ga : GReg)
  | polset (gd ga gb : GReg)
  | sret (k : BitVec 17)
  | halt (gd ga : GReg)
  | resume (gd ga : GReg)
  -- steps of the cores' other agents
  | fetch (c : CoreId) (errand : Bool)
  | drain (c : CoreId) (n : Nat)
  | copyPiece (c : CoreId) (n : Nat)
  | waitSatisfied (c : CoreId) (errand : Bool)
  | fullEmptyUnit (c : CoreId) (off len : Nat) (q : Fe) (data : List Byte)
  | localStoreAccess (c : CoreId) (off : Nat) (data : List Byte)
  | tgatherRequest (c : CoreId) (owner : Nat)
  | callatArrival (n : Nat)
  | replyDelivery (n : Nat)
  | errandBudget (c : CoreId)
  | barrierArrival (k : PairedGang) (cell : Fin 96)
  | freezeEvent (m : FreezeMsg)
  | freezeAcknowledgement (c : FreezeAck) (n : Nat)
  | thawSweep (cache : SweepMsg) (frames : List Nat)
  | sweepAcknowledgement (cache : SweepMsg) (frames : List Nat)
  -- halting, resuming, killing, containment
  | preemptionRequest (k : GangKey) (save : Nat)
  | haltDeclared (c : CoreId)
  | gangResume (k : GangKey)
  | migration (k : GangKey) (peer : Nat) (target : CoreId) (save : Nat)
  | kill (t : KillTarget)
  | backOff (c : CoreId) (errand : Bool)
  | retryExhausted (c : CoreId) (errand : Bool)
  | deferredFault (c : CoreId)
  -- the scheduler
  | tailRead (q : QueueId)
  | acceptance (q : QueueId)
  | arbitrate (part : Fin 8)
  | minresElapsed (k : GangKey)
  | taskStart (k : GangKey)
  | queueEnable (q : QueueId) (dw0 : Word)
  | queueDisable (q : QueueId) (dw0 : Word)
  -- registers and the host's windows
  | registerWrite (off : BitVec 24) (wide : Bool) (val : Word)
  | crCgdev (val : Word)
  | crScopemiss (c : CoreId) (val : Word)
  | crFcause (c : CoreId) (val : Word)
  | crRspill (c : CoreId) (val : Word)
  | bar2Read (addr len : Nat)
  | bar2Write (addr : Nat) (data : List Byte)
  -- sleep, sensors, errors
  | retentionSleep (c : CoreId)
  | wake (c : CoreId)
  | thermalTableUpdate (temps : List (BitVec 16))
  | scrubbing (line : Nat) (e : LineError)
  | generationHold (k : GangKey)
  -- the Oncel link
  | linkDown
  | linkUp
  | data (h : BitVec 96) (payload : List Byte) (crcOk : Bool)
  | void (h : VoidFlit) (crcOk : Bool)
  | nak (h : BitVec 96) (crcOk : Bool)
  | idle (h : BitVec 96) (crcOk : Bool)
  | read (m : Origin) (pa len tag : Nat)
  | write (m : Origin) (pa : Nat) (bytes : List (Option Byte)) (rel : Option Scope) (tag : Nat)
  | atomic (m : Origin) (op : AOp) (n : Size3) (pa : Nat) (s c : BitVec 128) (rel : Option Scope) (tag : Nat)
  | copyWrite (m : Origin) (t : LinkTarget) (bytes : List Byte) (tag : Nat)
  | reduceWrite (m : Origin) (t : LinkTarget) (bf16 lossy : Bool) (elems : List (BitVec 32)) (tag : Nat)
  | readResponse (r : ResponseFor) (bytes : List Byte)
  | atomicResponse (r : ResponseFor) (n : Size3) (old : BitVec 128)
  | phaseResponse (id : LinkId) (answer : PhaseAnswer)
  -- the management processor
  | reset
  | loadChunk
  | boot
  | getNonce
  | debugUnlock
  | readLog
  | readThermal
  | setPowercap
  | config
  | getVersion
  | getCapabilities
  | negotiateAlgorithms
  | getDigests
  | getCertificate
  | challenge (nonce : BitVec 256)
  | getMeasurements
  | writeAcknowledgement (id : LinkId)
  | transitionFuseBlown (f : Fuse)
  deriving DecidableEq, Repr

end Sys2Proof
end

