-- ==== Sys2Proof/WellFormed.lean ====
section
/-! DEFINITION. Which terms of `Instr` are instructions of the machine: the limits that R170 step 3 puts on
the fields of a form. A term that breaks one has no encoding that decodes to it: its head raises
ILLEGAL_INSTRUCTION. -/

namespace Sys2Proof

/-- The element types that carry block scales (R83). -/
def Ty.scaled : Ty → Bool
  | .mxe4m3 | .mxe5m2 | .e2m3 | .e3m2 | .e2m1 => true
  | _ => false

/-- K, the elements of one tile row (R71). INT32 is held in accumulators only; a row of 64. -/
def Ty.elems : Ty → Nat
  | .fp32 | .i32 => 64
  | .bf16 | .fp16 => 128
  | .e2m1 => 512
  | _ => 256

/-- Types with a sign, exponent and significand and no block scale. -/
def Ty.plainFloat : Ty → Bool
  | .fp32 | .bf16 | .fp16 | .e4m3 | .e5m2 => true
  | _ => false

/-- .fp32, .bf16 and .fp16 (R253, R257, R258). -/
def Ty.wideFloat : Ty → Bool
  | .fp32 | .bf16 | .fp16 => true
  | _ => false

/-- The types of TLDT, TGATHER and most vector forms: .fp32 .bf16 .fp16 .e4m3 .e5m2 .i8. -/
def Ty.plain (t : Ty) : Bool := t.plainFloat || t == .i8

/-- .fp32, .bf16, .fp16 and .i8 (R253). -/
def Ty.arith (t : Ty) : Bool := t.wideFloat || t == .i8

/-- Why a term is no instruction (R170 step 3). -/
inductive Violation where
  | shiftRange | signExtend | ordering | fullEmpty | atomicSize | oddRegister | tileType | sidecarBase
  | matrixPair | segment | rounding | saturation | columnMask | immediate | scaleMode | descriptor
  | lossy | domain | sameRegister | zeroLabel | zeroCount | resumeKind
  deriving DecidableEq, Repr

/-- The first of the listed checks that fails. -/
def firstViolation : List (Bool × Violation) → Option Violation
  | [] => none
  | (ok, v) :: rest => if ok then firstViolation rest else some v

/-- A load takes no ordering or .acq (R175). -/
def MemOrd.forLoad : MemOrd → Bool
  | .none | .acq _ => true
  | _ => false

/-- A store takes no ordering or .rel (R175). -/
def MemOrd.forStore : MemOrd → Bool
  | .none | .rel _ => true
  | _ => false

/-- .fe and .fec stand on loads (R112). -/
def Fe.forLoad : Fe → Bool
  | .ef => false
  | _ => true

/-- .ef stands on stores (R112). -/
def Fe.forStore : Fe → Bool
  | .nf | .ef => true
  | _ => false

/-- The operand pairs of TMMA (R101). -/
def matrixPair (a b : Ty) : Bool :=
  match a with
  | .bf16 | .fp16 | .e2m1 | .i8 => b == a
  | .e4m3 | .e5m2 => b == .e4m3 || b == .e5m2
  | .mxe4m3 | .mxe5m2 | .e2m3 | .e3m2 => b == .mxe4m3 || b == .mxe5m2 || b == .e2m3 || b == .e3m2
  | .fp32 | .i32 => false

def shiftChecks (wd : Width) (imm : BitVec 22) : List (Bool × Violation) :=
  [(decide (imm.toNat < if wd = .x then 64 else 32), .shiftRange)]

/-- R212: the sizes, and even registers in the pair fields of .q. -/
def swapChecks (gd gs gc : GReg) (sz : Size3) : List (Bool × Violation) :=
  [(decide (sz ≠ .q ∨ (gd.val % 2 = 0 ∧ gs.val % 2 = 0 ∧ gc.val % 2 = 0)), .oddRegister)]

def noPair (sz : Size3) : List (Bool × Violation) := [(decide (sz ≠ .q), .atomicSize)]

/-- R232 for TLD and TST; `q` is the full/empty code and `ok` whether the form takes it. -/
def rowChecks (ty : Ty) (gx : GReg) (q : Fe) (ok sp : Bool) : List (Bool × Violation) :=
  [(decide (ty ≠ .i32), .tileType), (decide (ty.scaled = true ↔ gx.val ≠ 0), .sidecarBase),
   (ok && (sp || q == .nf), .fullEmpty)]

def mergedChecks (ty : Ty) (q : Fe) (ok sp : Bool) : List (Bool × Violation) :=
  [(ty.scaled, .tileType), (ok && (sp || q == .nf), .fullEmpty)]

/-- R253: TADD, TSUB, TMUL, TFMA and their scalar forms. -/
def arithChecks (ty : Ty) (rm : Round) : List (Bool × Violation) :=
  [(ty.arith, .tileType), (ty.wideFloat || rm == .rne, .rounding)]

/-- R258: sums round only to .bf16 and .fp16. -/
def sumChecks (ty : Ty) (rm : Round) : List (Bool × Violation) :=
  [(ty.wideFloat, .tileType), (decide (ty ≠ .fp32) || rm == .rne, .rounding)]

/-- R262. -/
def convertChecks (ty tys : Ty) (h : Nat) (scales : Bool) : List (Bool × Violation) :=
  [(decide (ty ≠ .i32 ∧ tys ≠ .i32), .tileType),
   (!(ty.scaled && tys.scaled) && (!scales || ty.scaled), .scaleMode),
   (decide (h < max ty.elems tys.elems / min ty.elems tys.elems), .segment)]

/-- R214: the descriptor takes three registers, gq from 1 to 29. -/
def copyChecks (gq : GReg) : List (Bool × Violation) :=
  [(decide (1 ≤ gq.val ∧ gq.val ≤ 29), .descriptor)]

/-- The checks of each form, in the order in which they are made. -/
def Instr.checks : Instr → List (Bool × Violation)
  | .shli _ _ imm wd | .shri _ _ imm wd | .srai _ _ imm wd | .rori _ _ imm wd => shiftChecks wd imm
  | .fcmpeq _ fs _ | .fcmplt _ fs _ | .fcmple _ fs _ => [(decide (fs.val % 2 = 0), .oddRegister)]
  | .lpad label => [(decide (label ≠ 0), .zeroLabel)]
  | .ld _ sz sx _ ord _ => [(!(sx && sz == .d), .signExtend), (ord.forLoad, .ordering)]
  | .st _ _ _ ord _ => [(ord.forStore, .ordering)]
  | .ldl _ sz sx _ ord q _ =>
    [(!(sx && sz == .d), .signExtend), (ord.forLoad, .ordering), (q.forLoad, .fullEmpty)]
  | .stl _ _ _ ord q _ => [(ord.forStore, .ordering), (q.forStore, .fullEmpty)]
  | .fld _ _ sp _ ord q _ => [(ord.forLoad, .ordering), (q.forLoad && (sp || q == .nf), .fullEmpty)]
  | .fst _ _ sp _ ord q _ => [(ord.forStore, .ordering), (q.forStore && (sp || q == .nf), .fullEmpty)]
  | .aswap gd sz _ gs _ _ _ => swapChecks gd gs 0 sz
  | .acas gd sz _ gs gc _ _ _ => swapChecks gd gs gc sz
  | .aadd _ sz _ _ _ _ _ | .aand _ sz _ _ _ _ _ | .aor _ sz _ _ _ _ _ | .axor _ sz _ _ _ _ _
  | .amin _ sz _ _ _ _ _ | .amax _ sz _ _ _ _ _ | .aminu _ sz _ _ _ _ _ | .amaxu _ sz _ _ _ _ _ => noPair sz
  | .afadd _ sz _ _ _ _ _ => [(sz == .w, .atomicSize)]
  | .tld _ ty _ _ gx _ q sp _ => rowChecks ty gx q q.forLoad sp
  | .tst _ ty _ _ gx _ q sp _ => rowChecks ty gx q q.forStore sp
  | .tldt _ ty _ _ _ _ _ | .tstt _ ty _ _ _ _ _ | .tgather _ ty _ _ _ _ _ _ => [(ty.plain, .tileType)]
  | .tldx _ ty _ _ _ q sp _ => mergedChecks ty q q.forLoad sp
  | .tstx _ ty _ _ _ q sp _ => mergedChecks ty q q.forStore sp
  | .tmma _ _ _ tya tyb _ _ => [(matrixPair tya tyb, .matrixPair)]
  | .acvt _ _ ty rm sat h _ mc =>
    [(decide (h.val < (if ty = .i8 then 4 else ty.elems / 64)), .segment),
     ((ty != .i8 && ty != .i32) || rm == .rne, .rounding),
     ((ty != .i8 && ty != .i32) || !sat, .saturation), (!ty.scaled || mc == 0, .columnMask)]
  | .afrom _ _ ty h _ _ =>
    [(ty.wideFloat || ty == .i32, .tileType), (decide (h.val < ty.elems / 64), .segment)]
  | .aaddAccumulator _ _ ty _ _ => [(ty == .fp32 || ty == .i32, .tileType)]
  | .tadd _ _ _ ty _ rm _ | .tsub _ _ _ ty _ rm _ | .tmul _ _ _ ty _ rm _ | .tfma _ _ _ _ ty _ rm _
  | .tadds _ _ _ ty _ rm _ | .tsubs _ _ _ ty _ rm _ | .tmuls _ _ _ ty _ rm _ => arithChecks ty rm
  | .tmin _ _ _ ty _ | .tmax _ _ _ ty _ | .tand _ _ _ ty _ | .tor _ _ _ ty _ | .txor _ _ _ ty _
  | .tshl _ _ _ ty _ | .tshr _ _ _ ty _ | .tsra _ _ _ ty _ | .tcmpeq _ _ _ ty _ | .tcmplt _ _ _ ty _
  | .tcmple _ _ _ ty _ | .tsel _ _ _ _ ty _ | .tmins _ _ _ ty _ | .tmaxs _ _ _ ty _ | .tfill _ _ ty _
  | .trmax _ _ ty _ | .tcmax _ _ ty _ | .trmin _ _ ty _ | .tcmin _ _ ty _ | .ttr _ _ ty _ =>
    [(ty.plain, .tileType)]
  | .tabs _ _ ty _ sat | .tneg _ _ ty _ sat => [(ty.plain, .tileType), (ty == .i8 || !sat, .saturation)]
  | .tcmpun _ _ _ ty _ => [(ty.plainFloat, .tileType)]
  | .texp2 _ _ ty _ | .trcp _ _ ty _ | .trsq _ _ ty _ => [(ty == .fp32, .tileType)]
  | .tscale _ _ _ ty _ _ _ => [(ty.wideFloat, .tileType)]
  | .trsum _ _ ty _ rm | .tcsum _ _ ty _ rm => sumChecks ty rm
  | .trowb _ _ ty r _ => [(decide (ty ≠ .i32), .tileType), (decide (r.toNat < 64), .immediate)]
  | .tcolb _ _ ty c _ | .trot _ _ ty c _ =>
    [(ty.plain, .tileType), (decide (c.toNat < ty.elems), .immediate)]
  | .tshuf _ _ _ ty r _ => [(ty.plain, .tileType), (decide (r.toNat < 64), .immediate)]
  | .tcvt _ _ ty tys h _ _ _ => convertChecks ty tys h.val false
  | .tcvtChoose _ _ ty tys h _ _ _ => convertChecks ty tys h.val true
  | .tcvtGiven _ _ ty tys _ _ _ _ => convertChecks ty tys 0 true
  | .copy _ _ gq _ _ => copyChecks gq
  | .copyr _ _ gq bf16 lossy _ _ => copyChecks gq ++ [(!(lossy && bf16), .lossy)]
  | .freeze _ _ _ sc => [(sc == .die || sc == .device || sc == .span, .domain)]
  | .waitrp gd ga _ => [(decide (gd ≠ ga ∨ gd = 0), .sameRegister)]
  | .tlbinv _ _ n | .wcinv _ _ n | .frameset _ _ n => [(decide (n ≠ 0), .zeroCount)]
  | .sret k => [(decide (k.toNat ≤ 1), .resumeKind)]
  | _ => []

/-- Which check of R170 step 3 a term fails first, if any. -/
def Instr.violation (i : Instr) : Option Violation := firstViolation i.checks

/-- The term is an instruction of the machine. -/
def WellFormed (i : Instr) : Prop := i.violation = none

end Sys2Proof
end

