-- ==== Sys2Proof/Decode.lean ====
section
/-! DEFINITION. Folios, the decoder and the encoder (R165 to R177). Fields are taken from heads and tails
with division and remainder on natural numbers. -/

namespace Sys2Proof

/-- Why a head raises ILLEGAL_INSTRUCTION. The first two are step 1 of R170, the others step 3. -/
inductive Reject where
  /-- A reserved class (R176). -/
  | reservedClass
  /-- TLEN differs from the tail length of the class, or head and tail overlap. -/
  | tailLength
  /-- The offset is not a head (R167). -/
  | notAHead
  /-- A minor code, field code or register number that is not listed. -/
  | reservedCode
  /-- A reserved bit or an unused operand field is not zero. -/
  | reservedBits
  /-- A limit of the form is broken. -/
  | form (v : Violation)
  deriving DecidableEq, Repr

/-- A head and its tail, as unsigned integers (R166). -/
structure Enc where
  head : Nat
  tail : Nat
  deriving DecidableEq, Repr

def field (x lo n : Nat) : Nat := x / 2 ^ lo % 2 ^ n
def bitAt (x lo : Nat) : Bool := decide (x / 2 ^ lo % 2 = 1)
def gAt (x lo : Nat) : GReg := Fin.ofNat 32 (x / 2 ^ lo)
def fAt (x lo : Nat) : FReg := Fin.ofNat 16 (x / 2 ^ lo)
def tAt (x lo : Nat) : TReg := Fin.ofNat 16 (x / 2 ^ lo)
def mAt (x lo : Nat) : MReg := Fin.ofNat 8 (x / 2 ^ lo)
def aAt (x lo : Nat) : AReg := Fin.ofNat 8 (x / 2 ^ lo)

def Width.code : Width → Nat
  | .x => 0 | .w => 1
def Width.ofCode : Nat → Option Width
  | 0 => some .x | 1 => some .w | _ => none

def Size.code : Size → Nat
  | .b => 0 | .h => 1 | .w => 2 | .d => 3
def Size.ofCode : Nat → Size
  | 0 => .b | 1 => .h | 2 => .w | _ => .d

def Size3.code : Size3 → Nat
  | .b => 0 | .h => 1 | .w => 2 | .d => 3 | .q => 4
def Size3.ofCode : Nat → Option Size3
  | 0 => some .b | 1 => some .h | 2 => some .w | 3 => some .d | 4 => some .q | _ => none

/-- Scope codes (R80). -/
def Scope.code : Scope → Nat
  | .core => 0 | .quire => 1 | .die => 2 | .device => 3 | .span => 4 | .system => 5
def Scope.ofCode : Nat → Option Scope
  | 0 => some .core | 1 => some .quire | 2 => some .die | 3 => some .device | 4 => some .span
  | 5 => some .system | _ => none

/-- The ord and sc fields as one number, ord above the three bits of sc. -/
def MemOrd.code : MemOrd → Nat
  | .none => 0 | .acq s => 8 + s.code | .rel s => 16 + s.code | .acqrel s => 24 + s.code
def MemOrd.ofCode (n : Nat) : Option MemOrd :=
  match n / 8 with
  | 0 => if n % 8 = 0 then some .none else none
  | 1 => (Scope.ofCode (n % 8)).map .acq
  | 2 => (Scope.ofCode (n % 8)).map .rel
  | 3 => (Scope.ofCode (n % 8)).map .acqrel
  | _ => none

def Fe.code : Fe → Nat
  | .nf => 0 | .fe => 1 | .fec => 2 | .ef => 3
def Fe.ofCode : Nat → Fe
  | 0 => .nf | 1 => .fe | 2 => .fec | _ => .ef

def Round.code : Round → Nat
  | .rne => 0 | .rtz => 1 | .rdn => 2 | .rup => 3
def Round.ofCode : Nat → Round
  | 0 => .rne | 1 => .rtz | 2 => .rdn | _ => .rup

/-- Element type codes (R83). -/
def Ty.code : Ty → Nat
  | .fp32 => 0 | .bf16 => 1 | .fp16 => 2 | .e4m3 => 3 | .e5m2 => 4 | .mxe4m3 => 5 | .mxe5m2 => 6
  | .e2m3 => 7 | .e3m2 => 8 | .e2m1 => 9 | .i8 => 10 | .i32 => 11
def Ty.ofCode : Nat → Option Ty
  | 0 => some .fp32 | 1 => some .bf16 | 2 => some .fp16 | 3 => some .e4m3 | 4 => some .e5m2
  | 5 => some .mxe4m3 | 6 => some .mxe5m2 | 7 => some .e2m3 | 8 => some .e3m2 | 9 => some .e2m1
  | 10 => some .i8 | 11 => some .i32 | _ => none

def Cond.code : Cond → Nat
  | .eq => 0 | .ne => 1 | .lt => 2 | .ge => 3 | .ltu => 4 | .geu => 5
def Cond.ofCode : Nat → Option Cond
  | 0 => some .eq | 1 => some .ne | 2 => some .lt | 3 => some .ge | 4 => some .ltu | 5 => some .geu
  | _ => none

def FenceKind.code : FenceKind → Nat
  | .r => 1 | .w => 2 | .rw => 3
def FenceKind.ofCode : Nat → Option FenceKind
  | 1 => some .r | 2 => some .w | 3 => some .rw | _ => none

/-- Tail bytes by class (R176); none for a reserved class. -/
def classTail : Nat → Option Nat
  | 0x00 | 0x01 | 0x12 | 0x30 => some 0
  | 0x02 | 0x08 | 0x09 | 0x0F | 0x11 | 0x1F | 0x29 | 0x2D | 0x31 | 0x34 | 0x38 => some 2
  | 0x03 | 0x05 | 0x0C | 0x0D | 0x0E | 0x14 | 0x15 | 0x16 | 0x17 | 0x18 | 0x19 | 0x20 | 0x24 | 0x25 | 0x26
  | 0x27 | 0x28 | 0x2C | 0x32 | 0x3C => some 4
  | 0x04 | 0x10 | 0x1A | 0x1C | 0x1D | 0x1E | 0x21 => some 8
  | _ => none

/-- Tail bytes by TLEN code (R166). -/
def tlenBytes : Nat → Nat
  | 0 => 0 | 1 => 2 | 2 => 4 | _ => 8

def decodeInt (f t : Nat) : Option Instr := do
  let gd := gAt f 3
  let wd ← Width.ofCode (f % 8)
  let ga := gAt t 11
  let gb := gAt t 6
  match t % 64 with
  | 0 => some (.add gd ga gb wd)
  | 1 => some (.sub gd ga gb wd)
  | 2 => some (.and gd ga gb wd)
  | 3 => some (.or gd ga gb wd)
  | 4 => some (.xor gd ga gb wd)
  | 5 => some (.andn gd ga gb wd)
  | 6 => some (.shl gd ga gb wd)
  | 7 => some (.shr gd ga gb wd)
  | 8 => some (.sra gd ga gb wd)
  | 9 => some (.rol gd ga gb wd)
  | 10 => some (.ror gd ga gb wd)
  | 11 => some (.mul gd ga gb wd)
  | 12 => some (.mulhs gd ga gb wd)
  | 13 => some (.mulhu gd ga gb wd)
  | 14 => some (.divs gd ga gb wd)
  | 15 => some (.divu gd ga gb wd)
  | 16 => some (.rems gd ga gb wd)
  | 17 => some (.remu gd ga gb wd)
  | 18 => some (.min gd ga gb wd)
  | 19 => some (.max gd ga gb wd)
  | 20 => some (.minu gd ga gb wd)
  | 21 => some (.maxu gd ga gb wd)
  | 22 => some (.slt gd ga gb wd)
  | 23 => some (.sltu gd ga gb wd)
  | 24 => some (.seq gd ga gb wd)
  | 25 => some (.sne gd ga gb wd)
  | 26 => some (.clz gd ga wd)
  | 27 => some (.ctz gd ga wd)
  | 28 => some (.popc gd ga wd)
  | 29 => some (.bswap gd ga wd)
  | _ => none

def decodeImm (f t : Nat) : Option Instr := do
  let gd := gAt f 3
  let wd ← Width.ofCode (f % 8)
  let ga := gAt t 27
  let imm := BitVec.ofNat 22 t
  match field t 22 5 with
  | 0 => some (.addi gd ga imm wd)
  | 1 => some (.andi gd ga imm wd)
  | 2 => some (.ori gd ga imm wd)
  | 3 => some (.xori gd ga imm wd)
  | 4 => some (.shli gd ga imm wd)
  | 5 => some (.shri gd ga imm wd)
  | 6 => some (.srai gd ga imm wd)
  | 7 => some (.rori gd ga imm wd)
  | 8 => some (.muli gd ga imm wd)
  | 9 => some (.slti gd ga imm wd)
  | 10 => some (.sltui gd ga imm wd)
  | 11 => some (.seqi gd ga imm wd)
  | 12 => some (.mini gd ga imm wd)
  | 13 => some (.maxi gd ga imm wd)
  | _ => none

def decodeAddr (f t : Nat) : Option Instr :=
  match f % 8 with
  | 0 => some (.adr (gAt f 3) (BitVec.ofNat 32 t))
  | 1 => some (.lea (gAt f 3) (gAt t 27) (gAt t 22) (Fin.ofNat 8 (t / 2 ^ 19)) (BitVec.ofNat 19 t))
  | _ => none

def decodeFloat (f t : Nat) : Option Instr :=
  let fd := fAt f 4
  let rm := Round.ofCode (field f 2 2)
  let d := bitAt f 1
  let fa := fAt t 12
  let fb := fAt t 8
  match t % 16 with
  | 0 => some (.fadd fd fa fb rm d)
  | 1 => some (.fsub fd fa fb rm d)
  | 2 => some (.fmul fd fa fb rm d)
  | 3 => some (.fdiv fd fa fb rm d)
  | 4 => some (.fsqrt fd fa rm d)
  | 5 => some (.fma fd fa fb (fAt t 4) rm d)
  | 6 => some (.fmin fd fa fb d)
  | 7 => some (.fmax fd fa fb d)
  | 8 => some (.fabs fd fa d)
  | 9 => some (.fneg fd fa d)
  | _ => none

/-- A dst or src field that names an f register holds at most 15 (R173): a larger number leaves a bit that
the encoding of the decoded form does not have. -/
def decodeFloatMove (f t : Nat) : Option Instr :=
  let gd := gAt f 3
  let fd := fAt f 3
  let rm := Round.ofCode (field f 1 2)
  let d := bitAt f 0
  let gs := gAt t 11
  let fs := fAt t 11
  match field t 7 4 with
  | 0 => some (.fmvfg fd gs d)
  | 1 => some (.fmvgf gd fs d)
  | 2 => some (.fcvtfi fd gs rm d)
  | 3 => some (.fcvtif gd fs rm d)
  | 4 => some (.fcvtsd fd fs rm)
  | 5 => some (.fcvtds fd fs)
  | 6 => some (.fcmpeq gd fs d)
  | 7 => some (.fcmplt gd fs d)
  | 8 => some (.fcmple gd fs d)
  | 9 => some (.fclass gd fs d)
  | _ => none

def decodeCall (f t : Nat) : Option Instr :=
  match f with
  | 0 => some (.j (BitVec.ofNat 32 t))
  | 1 => some (.call (BitVec.ofNat 32 t))
  | _ => none

def decodeIndirect (f t : Nat) : Option Instr :=
  match f % 8 with
  | 0 => some (.jr (gAt f 3) (BitVec.ofNat 16 t))
  | 1 => some (.callr (gAt f 3) (BitVec.ofNat 16 t))
  | 2 => some .ret
  | _ => none

def decodeEnd (f : Nat) : Option Instr :=
  match f with
  | 0 => some .exit
  | 1 => some .edone
  | _ => none

def decodeLoadStore (c f t : Nat) : Option Instr := do
  let g := gAt f 3
  let sz := Size.ofCode (field f 1 2)
  let gb := gAt t 27
  let ord ← MemOrd.ofCode (field t 22 5)
  let q := Fe.ofCode (field t 20 2)
  let off := BitVec.ofNat 20 t
  match c with
  | 0x14 => some (.ld g sz (bitAt f 0) gb ord off)
  | 0x15 => some (.st g sz gb ord off)
  | 0x16 => some (.ldl g sz (bitAt f 0) gb ord q off)
  | 0x17 => some (.stl g sz gb ord q off)
  | 0x18 => some (.fld (fAt f 4) (bitAt f 3) (bitAt f 2) gb ord q off)
  | _ => some (.fst (fAt f 4) (bitAt f 3) (bitAt f 2) gb ord q off)

def decodeAtomic (f t : Nat) : Option Instr := do
  let gd := gAt f 3
  let sz ← Size3.ofCode (f % 8)
  let gb := gAt t 59
  let gs := gAt t 54
  let ord ← MemOrd.ofCode (field t 40 5)
  let sp := bitAt t 39
  let off := BitVec.ofNat 32 t
  match field t 45 4 with
  | 0 => some (.aswap gd sz gb gs ord sp off)
  | 1 => some (.acas gd sz gb gs (gAt t 49) ord sp off)
  | 2 => some (.aadd gd sz gb gs ord sp off)
  | 3 => some (.aand gd sz gb gs ord sp off)
  | 4 => some (.aor gd sz gb gs ord sp off)
  | 5 => some (.axor gd sz gb gs ord sp off)
  | 6 => some (.amin gd sz gb gs ord sp off)
  | 7 => some (.amax gd sz gb gs ord sp off)
  | 8 => some (.aminu gd sz gb gs ord sp off)
  | 9 => some (.amaxu gd sz gb gs ord sp off)
  | 10 => some (.afadd gd sz gb gs ord sp off)
  | _ => none

def decodeTileMove (store : Bool) (f t : Nat) : Option Instr := do
  let td := tAt f 4
  let ty ← Ty.ofCode (f % 16)
  let gb := gAt t 59
  let gs := gAt t 54
  let gx := gAt t 49
  let m := mAt t 46
  let q := Fe.ofCode (field t 44 2)
  let sp := bitAt t 41
  let off := BitVec.ofNat 32 t
  match store, field t 42 2 with
  | false, 0 => some (.tld td ty gb gs gx m q sp off)
  | false, 1 => some (.tldt td ty gb gs m sp off)
  | false, 2 => some (.tldx td ty gb gs m q sp off)
  | true, 0 => some (.tst td ty gb gs gx m q sp off)
  | true, 1 => some (.tstt td ty gb gs m sp off)
  | true, 2 => some (.tstx td ty gb gs m q sp off)
  | _, _ => none

def decodeGather (f t : Nat) : Option Instr := do
  let ty ← Ty.ofCode (f % 16)
  some (.tgather (tAt f 4) ty (tAt t 60) (Fin.ofNat 64 (t / 2 ^ 54)) (gAt t 49) (mAt t 46) (bitAt t 45)
    (BitVec.ofNat 32 t))

def decodeTileReg (f t : Nat) : Option Instr :=
  match f % 8 with
  | 0 => some (.tzmask (gAt f 3) (tAt t 12))
  | 1 => some (.tmov (tAt f 3) (tAt t 12))
  | 2 => some (.tzero (tAt f 3))
  | _ => none

def decodeMatrix (f t : Nat) : Option Instr := do
  let tya ← Ty.ofCode (field t 20 4)
  let tyb ← Ty.ofCode (field t 16 4)
  some (.tmma (aAt f 5) (tAt t 28) (tAt t 24) tya tyb (mAt t 13) (mAt t 10))

def decodeAcc (f t : Nat) : Option Instr := do
  let ad := aAt t 60
  let as := aAt t 56
  let ty ← Ty.ofCode (field t 44 4)
  let mr := mAt t 41
  let mc := mAt t 38
  match f / 16 with
  | 0 => some (.azero ad mr mc)
  | 1 => some (.amov ad as mr mc)
  | 2 => some (.ald ad (gAt t 51) mr mc (bitAt t 37) (BitVec.ofNat 32 t))
  | 3 => some (.ast as (gAt t 51) mr mc (bitAt t 37) (BitVec.ofNat 32 t))
  | 4 => some (.acvt (tAt t 60) as ty (Round.ofCode (field t 49 2)) (bitAt t 48) (Fin.ofNat 8 t) mr mc)
  | 5 => some (.afrom ad (tAt t 56) ty (Fin.ofNat 8 t) mr mc)
  | 6 => some (.aaddAccumulator ad as ty mr mc)
  | _ => none

def decodeElementwise (f t : Nat) : Option Instr := do
  let td := tAt f 4
  let ty ← Ty.ofCode (f % 16)
  let ta := tAt t 28
  let tb := tAt t 24
  let tc := tAt t 20
  let m := mAt t 17
  let rm := Round.ofCode (field t 15 2)
  let sat := bitAt t 14
  match field t 8 6 with
  | 0 => some (.tadd td ta tb ty m rm sat)
  | 1 => some (.tsub td ta tb ty m rm sat)
  | 2 => some (.tmul td ta tb ty m rm sat)
  | 3 => some (.tfma td ta tb tc ty m rm sat)
  | 4 => some (.tmin td ta tb ty m)
  | 5 => some (.tmax td ta tb ty m)
  | 6 => some (.tabs td ta ty m sat)
  | 7 => some (.tneg td ta ty m sat)
  | 8 => some (.tand td ta tb ty m)
  | 9 => some (.tor td ta tb ty m)
  | 10 => some (.txor td ta tb ty m)
  | 11 => some (.tshl td ta tb ty m)
  | 12 => some (.tshr td ta tb ty m)
  | 13 => some (.tsra td ta tb ty m)
  | 14 => some (.tcmpeq td ta tb ty m)
  | 15 => some (.tcmplt td ta tb ty m)
  | 16 => some (.tcmple td ta tb ty m)
  | 17 => some (.tcmpun td ta tb ty m)
  | 18 => some (.tsel td ta tb tc ty m)
  | 19 => some (.texp2 td ta ty m)
  | 20 => some (.trcp td ta ty m)
  | 21 => some (.trsq td ta ty m)
  | _ => none

def decodeScalarOp (f t : Nat) : Option Instr := do
  let td := tAt f 4
  let ty ← Ty.ofCode (f % 16)
  let ta := tAt t 28
  let gs := gAt t 23
  let m := mAt t 20
  let rm := Round.ofCode (field t 18 2)
  let sat := bitAt t 17
  match field t 11 6 with
  | 0 => some (.tadds td ta gs ty m rm sat)
  | 1 => some (.tsubs td ta gs ty m rm sat)
  | 2 => some (.tmuls td ta gs ty m rm sat)
  | 3 => some (.tmins td ta gs ty m)
  | 4 => some (.tmaxs td ta gs ty m)
  | 5 => some (.tfill td gs ty m)
  | 6 => some (.tscale td ta gs ty m rm sat)
  | _ => none

def decodeReduce (f t : Nat) : Option Instr := do
  let td := tAt f 4
  let ty ← Ty.ofCode (f % 16)
  let ta := tAt t 28
  let m := mAt t 25
  let rm := Round.ofCode (field t 23 2)
  match field t 17 6 with
  | 0 => some (.trsum td ta ty m rm)
  | 1 => some (.tcsum td ta ty m rm)
  | 2 => some (.trmax td ta ty m)
  | 3 => some (.tcmax td ta ty m)
  | 4 => some (.trmin td ta ty m)
  | 5 => some (.tcmin td ta ty m)
  | _ => none

def decodeShuffle (f t : Nat) : Option Instr := do
  let td := tAt f 4
  let ty ← Ty.ofCode (f % 16)
  let ta := tAt t 28
  let m := mAt t 7
  let n := BitVec.ofNat 8 (t / 2 ^ 10)
  match field t 18 6 with
  | 0 => some (.ttr td ta ty m)
  | 1 => some (.trowb td ta ty n m)
  | 2 => some (.tcolb td ta ty n m)
  | 3 => some (.trot td ta ty n m)
  | 4 => some (.tshuf td ta (tAt t 24) ty n m)
  | _ => none

def decodeConvert (f t : Nat) : Option Instr := do
  let td := tAt f 4
  let ty ← Ty.ofCode (f % 16)
  let ta := tAt t 28
  let tys ← Ty.ofCode (field t 24 4)
  let m := mAt t 17
  let rm := Round.ofCode (field t 15 2)
  let sat := bitAt t 14
  match field t 12 2 with
  | 0 => some (.tcvt td ta ty tys (Fin.ofNat 16 (t / 2 ^ 20)) m rm sat)
  | 1 => some (.tcvtChoose td ta ty tys (Fin.ofNat 16 (t / 2 ^ 20)) m rm sat)
  | 2 => some (.tcvtGiven td ta ty tys (tAt t 20) m rm sat)
  | _ => none

def decodeMask (f t : Nat) : Option Instr :=
  let md := mAt f 5
  let ma := mAt t 13
  let mb := mAt t 10
  let g := gAt t 5
  match f % 32 with
  | 0 => some (.mand md ma mb)
  | 1 => some (.mor md ma mb)
  | 2 => some (.mxor md ma mb)
  | 3 => some (.mnot md ma)
  | 4 => some (.mset md g)
  | 5 => some (.mget g ma)
  | 6 => some (.mpopc g ma)
  | _ => none

def decodeCopy (f t : Nat) : Option Instr :=
  let gd := gAt t 27
  let gs := gAt t 22
  let gq := gAt t 17
  let dsp := bitAt t 16
  let ssp := bitAt t 15
  match f / 32, field f 3 2 with
  | 0, _ => some (.copy gd gs gq dsp ssp)
  | 1, 0 => some (.copyr gd gs gq false (bitAt f 2) dsp ssp)
  | 1, 1 => some (.copyr gd gs gq true (bitAt f 2) dsp ssp)
  | 2, _ => some (.discard gd gs)
  | _, _ => none

def decodeBatch (f t : Nat) : Option Instr :=
  match f % 8 with
  | 0 => some (.bseal (gAt f 3))
  | 1 => some (.bwait (gAt f 3) (BitVec.ofNat 16 t))
  | _ => none

def decodeFence (f : Nat) : Option Instr := do
  let sc ← Scope.ofCode (field f 5 3)
  let kind ← FenceKind.ofCode (field f 3 2)
  some (.fence sc kind)

def decodeBarrier (f t : Nat) : Option Instr := do
  let gd := gAt f 3
  let gc := gAt t 11
  let gs := gAt t 6
  let sc ← Scope.ofCode (field t 3 3)
  match f % 8 with
  | 0 => some (.barinit gc gs)
  | 1 => some (.bararr gd gc sc)
  | 2 => some (.barwait gd gc gs sc)
  | 3 => some (.barsync gd gc sc)
  | _ => none

def decodeFreeze (f t : Nat) : Option Instr := do
  let gd := gAt f 3
  let ga := gAt t 27
  let gl := gAt t 22
  let sc ← Scope.ofCode (field t 19 3)
  match f % 8 with
  | 0 => some (.freeze gd ga gl sc)
  | 1 => some (.thaw gd ga gl)
  | 2 => some (.thawwait ga)
  | 3 => some (.publish ga gl sc)
  | _ => none

def decodeErrand (f t : Nat) : Option Instr :=
  match f / 32 with
  | 0 => some (.callat (gAt t 11) (gAt t 6) (Fin.ofNat 16 (t / 4)))
  | 1 => some (.reply (gAt f 0))
  | 2 => some (.waitrp (gAt f 0) (gAt t 11) (Fin.ofNat 16 (t / 4)))
  | _ => none

def decodeSystem (f t : Nat) : Option Instr :=
  match f % 8 with
  | 0 => some (.trap (gAt f 3) (BitVec.ofNat 16 t))
  | 1 => some (.mfcr (gAt f 3) (BitVec.ofNat 12 (t / 16)))
  | 2 => some (.mtcr (BitVec.ofNat 12 (t / 16)) (gAt f 3))
  | 3 => some .pause
  | _ => none

def decodePrivileged (f t : Nat) : Option Instr :=
  let gd := gAt f 3
  let ga := gAt t 22
  let gb := gAt t 17
  let n := BitVec.ofNat 17 t
  match field t 27 5 with
  | 0 => some (.csave gd ga)
  | 1 => some (.cload gd ga)
  | 2 => some (.tlbinv ga gb n)
  | 3 => some (.tlbinvc gb)
  | 4 => some (.wcinv ga gb n)
  | 5 => some (.frameset ga gb n)
  | 6 => some (.mboxset gd ga)
  | 7 => some (.polset gd ga gb)
  | 8 => some (.sret n)
  | 9 => some (.halt gd ga)
  | 10 => some (.resume gd ga)
  | _ => none

/-- The form that a head and a tail name, before reserved bits and limits are looked at (R176, R177). -/
def decodeForm (h t : Nat) : Option Instr :=
  let f := h % 256
  match h / 1024 with
  | 0x00 => some .fend
  | 0x01 => some .nop
  | 0x02 => decodeInt f t
  | 0x03 => decodeImm f t
  | 0x04 => some (.li (gAt f 3) (BitVec.ofNat 64 t))
  | 0x05 => decodeAddr f t
  | 0x08 => decodeFloat f t
  | 0x09 => decodeFloatMove f t
  | 0x0C => do
    let c ← Cond.ofCode (f % 8)
    some (.b c (gAt f 3) (gAt t 27) (BitVec.ofNat 27 t))
  | 0x0D => some (.brc (gAt f 3) (BitVec.ofNat 32 t))
  | 0x0E => decodeCall f t
  | 0x0F => decodeIndirect f t
  | 0x10 => some (.jt (gAt f 3) (BitVec.ofNat 16 (t / 2 ^ 48)) (BitVec.ofNat 16 (t / 2 ^ 32)) (BitVec.ofNat 32 t))
  | 0x11 => some (.lpad (BitVec.ofNat 16 t))
  | 0x12 => decodeEnd f
  | 0x14 => decodeLoadStore 0x14 f t
  | 0x15 => decodeLoadStore 0x15 f t
  | 0x16 => decodeLoadStore 0x16 f t
  | 0x17 => decodeLoadStore 0x17 f t
  | 0x18 => decodeLoadStore 0x18 f t
  | 0x19 => decodeLoadStore 0x19 f t
  | 0x1A => decodeAtomic f t
  | 0x1C => decodeTileMove false f t
  | 0x1D => decodeTileMove true f t
  | 0x1E => decodeGather f t
  | 0x1F => decodeTileReg f t
  | 0x20 => decodeMatrix f t
  | 0x21 => decodeAcc f t
  | 0x24 => decodeElementwise f t
  | 0x25 => decodeScalarOp f t
  | 0x26 => decodeReduce f t
  | 0x27 => decodeShuffle f t
  | 0x28 => decodeConvert f t
  | 0x29 => decodeMask f t
  | 0x2C => decodeCopy f t
  | 0x2D => decodeBatch f t
  | 0x30 => decodeFence f
  | 0x31 => decodeBarrier f t
  | 0x32 => decodeFreeze f t
  | 0x34 => decodeErrand f t
  | 0x38 => decodeSystem f t
  | 0x3C => decodePrivileged f t
  | _ => none

/-! The encoder: each form's head and tail from its entry (R182 to R303). -/

def encInt (minor : Nat) (gd ga gb : GReg) (wd : Width) : Enc :=
  ⟨0x0900 + gd.val * 8 + wd.code, ga.val * 2 ^ 11 + gb.val * 2 ^ 6 + minor⟩

def encImm (minor : Nat) (gd ga : GReg) (imm : BitVec 22) (wd : Width) : Enc :=
  ⟨0x0E00 + gd.val * 8 + wd.code, ga.val * 2 ^ 27 + minor * 2 ^ 22 + imm.toNat⟩

def encFloat (minor : Nat) (fd fa fb fc : FReg) (rm : Round) (d : Bool) : Enc :=
  ⟨0x2100 + fd.val * 16 + rm.code * 4 + d.toNat * 2, fa.val * 2 ^ 12 + fb.val * 2 ^ 8 + fc.val * 2 ^ 4 + minor⟩

def encFloatMove (minor dst src : Nat) (rm : Round) (d : Bool) : Enc :=
  ⟨0x2500 + dst * 8 + rm.code * 2 + d.toNat, src * 2 ^ 11 + minor * 2 ^ 7⟩

def encLoadStore (base : Nat) (gb : GReg) (ord : MemOrd) (q : Fe) (off : BitVec 20) : Enc :=
  ⟨base, gb.val * 2 ^ 27 + ord.code * 2 ^ 22 + q.code * 2 ^ 20 + off.toNat⟩

def encAtomic (op : Nat) (gd : GReg) (sz : Size3) (gb gs gc : GReg) (ord : MemOrd) (sp : Bool)
    (off : BitVec 32) : Enc :=
  ⟨0x6B00 + gd.val * 8 + sz.code, gb.val * 2 ^ 59 + gs.val * 2 ^ 54 + gc.val * 2 ^ 49 + op * 2 ^ 45
    + ord.code * 2 ^ 40 + sp.toNat * 2 ^ 39 + off.toNat⟩

def encTileMove (base lay : Nat) (td : TReg) (ty : Ty) (gb gs gx : GReg) (m : MReg) (q : Fe) (sp : Bool)
    (off : BitVec 32) : Enc :=
  ⟨base + td.val * 16 + ty.code, gb.val * 2 ^ 59 + gs.val * 2 ^ 54 + gx.val * 2 ^ 49 + m.val * 2 ^ 46
    + q.code * 2 ^ 44 + lay * 2 ^ 42 + sp.toNat * 2 ^ 41 + off.toNat⟩

def encAcc (minor d s : Nat) (gb : GReg) (rm : Round) (sat : Bool) (ty : Ty) (mr mc : MReg) (sp : Bool)
    (imm : Nat) : Enc :=
  ⟨0x8700 + minor * 16, d * 2 ^ 60 + s * 2 ^ 56 + gb.val * 2 ^ 51 + rm.code * 2 ^ 49 + sat.toNat * 2 ^ 48
    + ty.code * 2 ^ 44 + mr.val * 2 ^ 41 + mc.val * 2 ^ 38 + sp.toNat * 2 ^ 37 + imm⟩

def encElementwise (minor : Nat) (td ta tb tc : TReg) (ty : Ty) (m : MReg) (rm : Round) (sat : Bool) : Enc :=
  ⟨0x9200 + td.val * 16 + ty.code, ta.val * 2 ^ 28 + tb.val * 2 ^ 24 + tc.val * 2 ^ 20 + m.val * 2 ^ 17
    + rm.code * 2 ^ 15 + sat.toNat * 2 ^ 14 + minor * 2 ^ 8⟩

def encScalarOp (minor : Nat) (td ta : TReg) (gs : GReg) (ty : Ty) (m : MReg) (rm : Round) (sat : Bool) : Enc :=
  ⟨0x9600 + td.val * 16 + ty.code, ta.val * 2 ^ 28 + gs.val * 2 ^ 23 + m.val * 2 ^ 20 + rm.code * 2 ^ 18
    + sat.toNat * 2 ^ 17 + minor * 2 ^ 11⟩

def encReduce (minor : Nat) (td ta : TReg) (ty : Ty) (m : MReg) (rm : Round) : Enc :=
  ⟨0x9A00 + td.val * 16 + ty.code, ta.val * 2 ^ 28 + m.val * 2 ^ 25 + rm.code * 2 ^ 23 + minor * 2 ^ 17⟩

def encShuffle (minor : Nat) (td ta tb : TReg) (ty : Ty) (n : BitVec 8) (m : MReg) : Enc :=
  ⟨0x9E00 + td.val * 16 + ty.code, ta.val * 2 ^ 28 + tb.val * 2 ^ 24 + minor * 2 ^ 18 + n.toNat * 2 ^ 10
    + m.val * 2 ^ 7⟩

def encConvert (smode : Nat) (td ta : TReg) (ty tys : Ty) (x : Nat) (m : MReg) (rm : Round) (sat : Bool) : Enc :=
  ⟨0xA200 + td.val * 16 + ty.code, ta.val * 2 ^ 28 + tys.code * 2 ^ 24 + x * 2 ^ 20 + m.val * 2 ^ 17
    + rm.code * 2 ^ 15 + sat.toNat * 2 ^ 14 + smode * 2 ^ 12⟩

def encMask (minor : Nat) (md ma mb : MReg) (g : GReg) : Enc :=
  ⟨0xA500 + md.val * 32 + minor, ma.val * 2 ^ 13 + mb.val * 2 ^ 10 + g.val * 2 ^ 5⟩

def encCopy (base : Nat) (gd gs gq : GReg) (dsp ssp : Bool) : Enc :=
  ⟨base, gd.val * 2 ^ 27 + gs.val * 2 ^ 22 + gq.val * 2 ^ 17 + dsp.toNat * 2 ^ 16 + ssp.toNat * 2 ^ 15⟩

def encBarrier (minor : Nat) (gd gc gs : GReg) (sc : Nat) : Enc :=
  ⟨0xC500 + gd.val * 8 + minor, gc.val * 2 ^ 11 + gs.val * 2 ^ 6 + sc * 2 ^ 3⟩

def encFreeze (minor : Nat) (gd ga gl : GReg) (sc : Nat) : Enc :=
  ⟨0xCA00 + gd.val * 8 + minor, ga.val * 2 ^ 27 + gl.val * 2 ^ 22 + sc * 2 ^ 19⟩

def encPrivileged (minor : Nat) (gd ga gb : GReg) (n : BitVec 17) : Enc :=
  ⟨0xF200 + gd.val * 8, minor * 2 ^ 27 + ga.val * 2 ^ 22 + gb.val * 2 ^ 17 + n.toNat⟩

/-- The head and tail of an instruction; none for the steps of the other agents, which have no words. -/
def encode : Instr → Option Enc
  | .fend => some ⟨0x0000, 0⟩
  | .nop => some ⟨0x0400, 0⟩
  | .add gd ga gb wd => some (encInt 0 gd ga gb wd)
  | .sub gd ga gb wd => some (encInt 1 gd ga gb wd)
  | .and gd ga gb wd => some (encInt 2 gd ga gb wd)
  | .or gd ga gb wd => some (encInt 3 gd ga gb wd)
  | .xor gd ga gb wd => some (encInt 4 gd ga gb wd)
  | .andn gd ga gb wd => some (encInt 5 gd ga gb wd)
  | .shl gd ga gb wd => some (encInt 6 gd ga gb wd)
  | .shr gd ga gb wd => some (encInt 7 gd ga gb wd)
  | .sra gd ga gb wd => some (encInt 8 gd ga gb wd)
  | .rol gd ga gb wd => some (encInt 9 gd ga gb wd)
  | .ror gd ga gb wd => some (encInt 10 gd ga gb wd)
  | .mul gd ga gb wd => some (encInt 11 gd ga gb wd)
  | .mulhs gd ga gb wd => some (encInt 12 gd ga gb wd)
  | .mulhu gd ga gb wd => some (encInt 13 gd ga gb wd)
  | .divs gd ga gb wd => some (encInt 14 gd ga gb wd)
  | .divu gd ga gb wd => some (encInt 15 gd ga gb wd)
  | .rems gd ga gb wd => some (encInt 16 gd ga gb wd)
  | .remu gd ga gb wd => some (encInt 17 gd ga gb wd)
  | .min gd ga gb wd => some (encInt 18 gd ga gb wd)
  | .max gd ga gb wd => some (encInt 19 gd ga gb wd)
  | .minu gd ga gb wd => some (encInt 20 gd ga gb wd)
  | .maxu gd ga gb wd => some (encInt 21 gd ga gb wd)
  | .slt gd ga gb wd => some (encInt 22 gd ga gb wd)
  | .sltu gd ga gb wd => some (encInt 23 gd ga gb wd)
  | .seq gd ga gb wd => some (encInt 24 gd ga gb wd)
  | .sne gd ga gb wd => some (encInt 25 gd ga gb wd)
  | .clz gd ga wd => some (encInt 26 gd ga 0 wd)
  | .ctz gd ga wd => some (encInt 27 gd ga 0 wd)
  | .popc gd ga wd => some (encInt 28 gd ga 0 wd)
  | .bswap gd ga wd => some (encInt 29 gd ga 0 wd)
  | .addi gd ga imm wd => some (encImm 0 gd ga imm wd)
  | .andi gd ga imm wd => some (encImm 1 gd ga imm wd)
  | .ori gd ga imm wd => some (encImm 2 gd ga imm wd)
  | .xori gd ga imm wd => some (encImm 3 gd ga imm wd)
  | .shli gd ga imm wd => some (encImm 4 gd ga imm wd)
  | .shri gd ga imm wd => some (encImm 5 gd ga imm wd)
  | .srai gd ga imm wd => some (encImm 6 gd ga imm wd)
  | .rori gd ga imm wd => some (encImm 7 gd ga imm wd)
  | .muli gd ga imm wd => some (encImm 8 gd ga imm wd)
  | .slti gd ga imm wd => some (encImm 9 gd ga imm wd)
  | .sltui gd ga imm wd => some (encImm 10 gd ga imm wd)
  | .seqi gd ga imm wd => some (encImm 11 gd ga imm wd)
  | .mini gd ga imm wd => some (encImm 12 gd ga imm wd)
  | .maxi gd ga imm wd => some (encImm 13 gd ga imm wd)
  | .li gd imm => some ⟨0x1300 + gd.val * 8, imm.toNat⟩
  | .adr gd imm => some ⟨0x1600 + gd.val * 8, imm.toNat⟩
  | .lea gd ga gb sh imm =>
    some ⟨0x1601 + gd.val * 8, ga.val * 2 ^ 27 + gb.val * 2 ^ 22 + sh.val * 2 ^ 19 + imm.toNat⟩
  | .fadd fd fa fb rm d => some (encFloat 0 fd fa fb 0 rm d)
  | .fsub fd fa fb rm d => some (encFloat 1 fd fa fb 0 rm d)
  | .fmul fd fa fb rm d => some (encFloat 2 fd fa fb 0 rm d)
  | .fdiv fd fa fb rm d => some (encFloat 3 fd fa fb 0 rm d)
  | .fsqrt fd fa rm d => some (encFloat 4 fd fa 0 0 rm d)
  | .fma fd fa fb fc rm d => some (encFloat 5 fd fa fb fc rm d)
  | .fmin fd fa fb d => some (encFloat 6 fd fa fb 0 .rne d)
  | .fmax fd fa fb d => some (encFloat 7 fd fa fb 0 .rne d)
  | .fabs fd fa d => some (encFloat 8 fd fa 0 0 .rne d)
  | .fneg fd fa d => some (encFloat 9 fd fa 0 0 .rne d)
  | .fmvfg fd gs d => some (encFloatMove 0 fd.val gs.val .rne d)
  | .fmvgf gd fs d => some (encFloatMove 1 gd.val fs.val .rne d)
  | .fcvtfi fd gs rm d => some (encFloatMove 2 fd.val gs.val rm d)
  | .fcvtif gd fs rm d => some (encFloatMove 3 gd.val fs.val rm d)
  | .fcvtsd fd fs rm => some (encFloatMove 4 fd.val fs.val rm false)
  | .fcvtds fd fs => some (encFloatMove 5 fd.val fs.val .rne false)
  | .fcmpeq gd fs d => some (encFloatMove 6 gd.val fs.val .rne d)
  | .fcmplt gd fs d => some (encFloatMove 7 gd.val fs.val .rne d)
  | .fcmple gd fs d => some (encFloatMove 8 gd.val fs.val .rne d)
  | .fclass gd fs d => some (encFloatMove 9 gd.val fs.val .rne d)
  | .b c ga gb off => some ⟨0x3200 + ga.val * 8 + c.code, gb.val * 2 ^ 27 + off.toNat⟩
  | .brc gc off => some ⟨0x3600 + gc.val * 8, off.toNat⟩
  | .j off => some ⟨0x3A00, off.toNat⟩
  | .call off => some ⟨0x3A01, off.toNat⟩
  | .jr ga label => some ⟨0x3D00 + ga.val * 8, label.toNat⟩
  | .callr ga label => some ⟨0x3D01 + ga.val * 8, label.toNat⟩
  | .ret => some ⟨0x3D02, 0⟩
  | .jt gi bound label off =>
    some ⟨0x4300 + gi.val * 8, bound.toNat * 2 ^ 48 + label.toNat * 2 ^ 32 + off.toNat⟩
  | .lpad label => some ⟨0x4500, label.toNat⟩
  | .exit => some ⟨0x4800, 0⟩
  | .edone => some ⟨0x4801, 0⟩
  | .ld gd sz sx gb ord off => some (encLoadStore (0x5200 + gd.val * 8 + sz.code * 2 + sx.toNat) gb ord .nf off)
  | .st gs sz gb ord off => some (encLoadStore (0x5600 + gs.val * 8 + sz.code * 2) gb ord .nf off)
  | .ldl gd sz sx gb ord q off => some (encLoadStore (0x5A00 + gd.val * 8 + sz.code * 2 + sx.toNat) gb ord q off)
  | .stl gs sz gb ord q off => some (encLoadStore (0x5E00 + gs.val * 8 + sz.code * 2) gb ord q off)
  | .fld fd d sp gb ord q off => some (encLoadStore (0x6200 + fd.val * 16 + d.toNat * 8 + sp.toNat * 4) gb ord q off)
  | .fst fs d sp gb ord q off => some (encLoadStore (0x6600 + fs.val * 16 + d.toNat * 8 + sp.toNat * 4) gb ord q off)
  | .aswap gd sz gb gs ord sp off => some (encAtomic 0 gd sz gb gs 0 ord sp off)
  | .acas gd sz gb gs gc ord sp off => some (encAtomic 1 gd sz gb gs gc ord sp off)
  | .aadd gd sz gb gs ord sp off => some (encAtomic 2 gd sz gb gs 0 ord sp off)
  | .aand gd sz gb gs ord sp off => some (encAtomic 3 gd sz gb gs 0 ord sp off)
  | .aor gd sz gb gs ord sp off => some (encAtomic 4 gd sz gb gs 0 ord sp off)
  | .axor gd sz gb gs ord sp off => some (encAtomic 5 gd sz gb gs 0 ord sp off)
  | .amin gd sz gb gs ord sp off => some (encAtomic 6 gd sz gb gs 0 ord sp off)
  | .amax gd sz gb gs ord sp off => some (encAtomic 7 gd sz gb gs 0 ord sp off)
  | .aminu gd sz gb gs ord sp off => some (encAtomic 8 gd sz gb gs 0 ord sp off)
  | .amaxu gd sz gb gs ord sp off => some (encAtomic 9 gd sz gb gs 0 ord sp off)
  | .afadd gd sz gb gs ord sp off => some (encAtomic 10 gd sz gb gs 0 ord sp off)
  | .tld td ty gb gs gx m q sp off => some (encTileMove 0x7300 0 td ty gb gs gx m q sp off)
  | .tldt td ty gb gs m sp off => some (encTileMove 0x7300 1 td ty gb gs 0 m .nf sp off)
  | .tldx td ty gb gs m q sp off => some (encTileMove 0x7300 2 td ty gb gs 0 m q sp off)
  | .tst ts ty gb gs gx m q sp off => some (encTileMove 0x7700 0 ts ty gb gs gx m q sp off)
  | .tstt ts ty gb gs m sp off => some (encTileMove 0x7700 1 ts ty gb gs 0 m .nf sp off)
  | .tstx ts ty gb gs m q sp off => some (encTileMove 0x7700 2 ts ty gb gs 0 m q sp off)
  | .tgather td ty ti row gb m sp off =>
    some ⟨0x7B00 + td.val * 16 + ty.code, ti.val * 2 ^ 60 + row.val * 2 ^ 54 + gb.val * 2 ^ 49 + m.val * 2 ^ 46
      + sp.toNat * 2 ^ 45 + off.toNat⟩
  | .tzmask gd ts => some ⟨0x7D00 + gd.val * 8, ts.val * 2 ^ 12⟩
  | .tmov td ts => some ⟨0x7D01 + td.val * 8, ts.val * 2 ^ 12⟩
  | .tzero td => some ⟨0x7D02 + td.val * 8, 0⟩
  | .tmma ad ta tb tya tyb mr mc =>
    some ⟨0x8200 + ad.val * 32, ta.val * 2 ^ 28 + tb.val * 2 ^ 24 + tya.code * 2 ^ 20 + tyb.code * 2 ^ 16
      + mr.val * 2 ^ 13 + mc.val * 2 ^ 10⟩
  | .azero ad mr mc => some (encAcc 0 ad.val 0 0 .rne false .fp32 mr mc false 0)
  | .amov ad as mr mc => some (encAcc 1 ad.val as.val 0 .rne false .fp32 mr mc false 0)
  | .ald ad gb mr mc sp off => some (encAcc 2 ad.val 0 gb .rne false .fp32 mr mc sp off.toNat)
  | .ast as gb mr mc sp off => some (encAcc 3 0 as.val gb .rne false .fp32 mr mc sp off.toNat)
  | .acvt td as ty rm sat h mr mc => some (encAcc 4 td.val as.val 0 rm sat ty mr mc false h.val)
  | .afrom ad ts ty h mr mc => some (encAcc 5 ad.val ts.val 0 .rne false ty mr mc false h.val)
  | .aaddAccumulator ad as ty mr mc => some (encAcc 6 ad.val as.val 0 .rne false ty mr mc false 0)
  | .tadd td ta tb ty m rm sat => some (encElementwise 0 td ta tb 0 ty m rm sat)
  | .tsub td ta tb ty m rm sat => some (encElementwise 1 td ta tb 0 ty m rm sat)
  | .tmul td ta tb ty m rm sat => some (encElementwise 2 td ta tb 0 ty m rm sat)
  | .tfma td ta tb tc ty m rm sat => some (encElementwise 3 td ta tb tc ty m rm sat)
  | .tmin td ta tb ty m => some (encElementwise 4 td ta tb 0 ty m .rne false)
  | .tmax td ta tb ty m => some (encElementwise 5 td ta tb 0 ty m .rne false)
  | .tabs td ta ty m sat => some (encElementwise 6 td ta 0 0 ty m .rne sat)
  | .tneg td ta ty m sat => some (encElementwise 7 td ta 0 0 ty m .rne sat)
  | .tand td ta tb ty m => some (encElementwise 8 td ta tb 0 ty m .rne false)
  | .tor td ta tb ty m => some (encElementwise 9 td ta tb 0 ty m .rne false)
  | .txor td ta tb ty m => some (encElementwise 10 td ta tb 0 ty m .rne false)
  | .tshl td ta tb ty m => some (encElementwise 11 td ta tb 0 ty m .rne false)
  | .tshr td ta tb ty m => some (encElementwise 12 td ta tb 0 ty m .rne false)
  | .tsra td ta tb ty m => some (encElementwise 13 td ta tb 0 ty m .rne false)
  | .tcmpeq td ta tb ty m => some (encElementwise 14 td ta tb 0 ty m .rne false)
  | .tcmplt td ta tb ty m => some (encElementwise 15 td ta tb 0 ty m .rne false)
  | .tcmple td ta tb ty m => some (encElementwise 16 td ta tb 0 ty m .rne false)
  | .tcmpun td ta tb ty m => some (encElementwise 17 td ta tb 0 ty m .rne false)
  | .tsel td ta tb tc ty m => some (encElementwise 18 td ta tb tc ty m .rne false)
  | .texp2 td ta ty m => some (encElementwise 19 td ta 0 0 ty m .rne false)
  | .trcp td ta ty m => some (encElementwise 20 td ta 0 0 ty m .rne false)
  | .trsq td ta ty m => some (encElementwise 21 td ta 0 0 ty m .rne false)
  | .tadds td ta gs ty m rm sat => some (encScalarOp 0 td ta gs ty m rm sat)
  | .tsubs td ta gs ty m rm sat => some (encScalarOp 1 td ta gs ty m rm sat)
  | .tmuls td ta gs ty m rm sat => some (encScalarOp 2 td ta gs ty m rm sat)
  | .tmins td ta gs ty m => some (encScalarOp 3 td ta gs ty m .rne false)
  | .tmaxs td ta gs ty m => some (encScalarOp 4 td ta gs ty m .rne false)
  | .tfill td gs ty m => some (encScalarOp 5 td 0 gs ty m .rne false)
  | .tscale td ta gs ty m rm sat => some (encScalarOp 6 td ta gs ty m rm sat)
  | .trsum td ta ty m rm => some (encReduce 0 td ta ty m rm)
  | .tcsum td ta ty m rm => some (encReduce 1 td ta ty m rm)
  | .trmax td ta ty m => some (encReduce 2 td ta ty m .rne)
  | .tcmax td ta ty m => some (encReduce 3 td ta ty m .rne)
  | .trmin td ta ty m => some (encReduce 4 td ta ty m .rne)
  | .tcmin td ta ty m => some (encReduce 5 td ta ty m .rne)
  | .ttr td ta ty m => some (encShuffle 0 td ta 0 ty 0 m)
  | .trowb td ta ty r m => some (encShuffle 1 td ta 0 ty r m)
  | .tcolb td ta ty c m => some (encShuffle 2 td ta 0 ty c m)
  | .trot td ta ty c m => some (encShuffle 3 td ta 0 ty c m)
  | .tshuf td ta tb ty r m => some (encShuffle 4 td ta tb ty r m)
  | .tcvt td ta ty tys h m rm sat => some (encConvert 0 td ta ty tys h.val m rm sat)
  | .tcvtChoose td ta ty tys h m rm sat => some (encConvert 1 td ta ty tys h.val m rm sat)
  | .tcvtGiven td ta ty tys tx m rm sat => some (encConvert 2 td ta ty tys tx.val m rm sat)
  | .mand md ma mb => some (encMask 0 md ma mb 0)
  | .mor md ma mb => some (encMask 1 md ma mb 0)
  | .mxor md ma mb => some (encMask 2 md ma mb 0)
  | .mnot md ma => some (encMask 3 md ma 0 0)
  | .mset md gs => some (encMask 4 md 0 0 gs)
  | .mget gd ma => some (encMask 5 0 ma 0 gd)
  | .mpopc gd ma => some (encMask 6 0 ma 0 gd)
  | .copy gd gs gq dsp ssp => some (encCopy 0xB200 gd gs gq dsp ssp)
  | .copyr gd gs gq bf16 lossy dsp ssp =>
    some (encCopy (0xB220 + bf16.toNat * 8 + lossy.toNat * 4) gd gs gq dsp ssp)
  | .discard gd gs => some (encCopy 0xB240 gd gs 0 false false)
  | .bseal gd => some ⟨0xB500 + gd.val * 8, 0⟩
  | .bwait gd n => some ⟨0xB501 + gd.val * 8, n.toNat⟩
  | .fence sc kind => some ⟨0xC000 + sc.code * 32 + kind.code * 8, 0⟩
  | .barinit gc gs => some (encBarrier 0 0 gc gs 0)
  | .bararr gd gc sc => some (encBarrier 1 gd gc 0 sc.code)
  | .barwait gd gc gs sc => some (encBarrier 2 gd gc gs sc.code)
  | .barsync gd gc sc => some (encBarrier 3 gd gc 0 sc.code)
  | .freeze gd ga gl sc => some (encFreeze 0 gd ga gl sc.code)
  | .thaw gd ga gl => some (encFreeze 1 gd ga gl 0)
  | .thawwait ga => some (encFreeze 2 0 ga 0 0)
  | .publish ga gl sc => some (encFreeze 3 0 ga gl sc.code)
  | .callat ga gp slot => some ⟨0xD100, ga.val * 2 ^ 11 + gp.val * 2 ^ 6 + slot.val * 2 ^ 2⟩
  | .reply gs => some ⟨0xD120 + gs.val, 0⟩
  | .waitrp gd ga slot => some ⟨0xD140 + gd.val, ga.val * 2 ^ 11 + slot.val * 2 ^ 2⟩
  | .trap g imm => some ⟨0xE100 + g.val * 8, imm.toNat⟩
  | .mfcr gd crn => some ⟨0xE101 + gd.val * 8, crn.toNat * 16⟩
  | .mtcr crn gs => some ⟨0xE102 + gs.val * 8, crn.toNat * 16⟩
  | .pause => some ⟨0xE103, 0⟩
  | .csave gd ga => some (encPrivileged 0 gd ga 0 0)
  | .cload gd ga => some (encPrivileged 1 gd ga 0 0)
  | .tlbinv ga gb n => some (encPrivileged 2 0 ga gb n)
  | .tlbinvc gb => some (encPrivileged 3 0 0 gb 0)
  | .wcinv ga gb n => some (encPrivileged 4 0 ga gb n)
  | .frameset ga gb n => some (encPrivileged 5 0 ga gb n)
  | .mboxset gd ga => some (encPrivileged 6 gd ga 0 0)
  | .polset gd ga gb => some (encPrivileged 7 gd ga gb 0)
  | .sret k => some (encPrivileged 8 0 0 0 k)
  | .halt gd ga => some (encPrivileged 9 gd ga 0 0)
  | .resume gd ga => some (encPrivileged 10 gd ga 0 0)
  | .fetch .. | .drain .. | .copyPiece .. | .waitSatisfied .. | .fullEmptyUnit .. | .localStoreAccess ..
  | .tgatherRequest .. | .callatArrival .. | .replyDelivery .. | .errandBudget .. | .barrierArrival ..
  | .freezeEvent .. | .freezeAcknowledgement .. | .thawSweep .. | .sweepAcknowledgement ..
  | .preemptionRequest .. | .haltDeclared .. | .gangResume .. | .migration .. | .kill .. | .backOff ..
  | .retryExhausted .. | .deferredFault .. | .tailRead .. | .acceptance .. | .arbitrate ..
  | .minresElapsed .. | .taskStart .. | .queueEnable .. | .queueDisable .. | .registerWrite ..
  | .crCgdev .. | .crScopemiss .. | .crFcause .. | .crRspill .. | .bar2Read .. | .bar2Write ..
  | .retentionSleep .. | .wake .. | .thermalTableUpdate .. | .scrubbing .. | .generationHold ..
  | .linkDown .. | .linkUp .. | .data .. | .void .. | .nak .. | .idle .. | .read .. | .write ..
  | .atomic .. | .copyWrite .. | .reduceWrite .. | .readResponse .. | .atomicResponse ..
  | .phaseResponse .. | .reset .. | .loadChunk .. | .boot .. | .getNonce .. | .debugUnlock .. | .readLog ..
  | .readThermal .. | .setPowercap .. | .config .. | .getVersion .. | .getCapabilities ..
  | .negotiateAlgorithms .. | .getDigests .. | .getCertificate .. | .challenge .. | .getMeasurements ..
  | .writeAcknowledgement .. | .transitionFuseBlown .. => none

/-- What the head `h` with tail `t` is (R170 steps 1 and 3; step 2, the privilege of class 0x3C, and step 4
belong to the strand that reaches the head). An unused or reserved bit that is set makes the word differ from
the one encoding of the form that it names. -/
def decode (h t : Nat) : Except Reject Instr :=
  match classTail (h / 1024) with
  | none => .error .reservedClass
  | some n =>
    if tlenBytes (h / 256 % 4) ≠ n then .error .tailLength
    else
      match decodeForm h t with
      | none => .error .reservedCode
      | some i =>
        if encode i ≠ some ⟨h, t⟩ then .error .reservedBits
        else
          match i.violation with
          | some v => .error (.form v)
          | none => .ok i

/-! Folios. -/

/-- Little-endian bytes as an unsigned integer (R3). -/
def leNat : List Byte → Nat
  | [] => 0
  | b :: bs => b.toNat + 256 * leNat bs

/-- The `n` low bytes of an unsigned integer, lowest first. -/
def natLe : Nat → Nat → List Byte
  | 0, _ => []
  | n + 1, v => BitVec.ofNat 8 v :: natLe n (v / 256)

/-- `n` bytes of a folio from offset `o` as an unsigned integer. -/
def folioAt (folio : List Byte) (o n : Nat) : Nat := leNat ((folio.drop o).take n)

/-- What head_at of R167 answers. -/
inductive HeadAt where
  | notAHead
  | overlap
  | head (e : Enc)
  deriving DecidableEq, Repr

/-- The summed tail lengths of the heads below head `i`; none when a FEND ends the heads first. -/
def tailsBefore (folio : List Byte) : Nat → Option Nat
  | 0 => some 0
  | i + 1 =>
    match tailsBefore folio i with
    | none => none
    | some s =>
      let h := folioAt folio (2 * i) 2
      if h / 1024 = 0 then none else some (s + tlenBytes (h / 256 % 4))

/-- head_at of R167. -/
def headAt (folio : List Byte) (i : Nat) : HeadAt :=
  match tailsBefore folio i with
  | none => .notAHead
  | some s =>
    if 2 * i + 2 + s > 64 then .notAHead
    else
      let h := folioAt folio (2 * i) 2
      let n := tlenBytes (h / 256 % 4)
      if h / 1024 ≠ 0 ∧ 2 * i + 2 + s + n > 64 then .overlap
      else .head ⟨h, folioAt folio (64 - s - n) n⟩

/-- The instruction at head `i` of a folio. -/
def decodeAt (folio : List Byte) (i : Nat) : Except Reject Instr :=
  match headAt folio i with
  | .notAHead => .error .notAHead
  | .overlap => .error .tailLength
  | .head e => decode e.head e.tail

/-- The address that follows head `i` of the folio at `base` (R168). -/
def successor (folio : List Byte) (base : Word) (i : Nat) : Word :=
  match headAt folio (i + 1) with
  | .notAHead => base + 64
  | _ => base + BitVec.ofNat 64 (2 * i + 2)

/-- A folio with one instruction: its head at offset 0, its tail of `n` bytes at the end, zeros (a FEND head)
between. -/
def folioOf (e : Enc) (n : Nat) : List Byte :=
  natLe 2 e.head ++ List.replicate (62 - n) 0 ++ natLe n e.tail

/-- The word of a row of spec/opcode_table.json as head and tail bytes: the table writes the head above the
tail. -/
def tableEnc (nbits w : Nat) : Enc := ⟨w / 2 ^ (nbits - 16) % 2 ^ 16, w % 2 ^ (nbits - 16)⟩

/-- The instruction that the decoder reads from a table word. -/
def decodeTableWord (nbits w : Nat) : Option Instr :=
  match nbits with
  | 16 | 32 | 48 | 80 =>
    match decodeAt (folioOf (tableEnc nbits w) ((nbits - 16) / 8)) 0 with
    | .ok i => some i
    | .error _ => none
  | _ => none

end Sys2Proof
end

