-- ==== Sys2Proof/Config.lean ====
section
/-! DEFINITION. What an implementation fixes and what the manual leaves open. Every constant here is a
free value: it has no body, so nothing can be proved about which value it takes. Each is named in the
assumption log. -/

namespace Sys2Proof

/-- Nanoseconds that pass during one step (R5, R11, R14: durations are not promised). -/
opaque Config.elapsed : Nat → Nat

/-- Engine cycles that a step takes, as CR.EVCYCLES counts them (R294, R249). -/
opaque Config.cycles : Nat → Word

/-- Cycles in which renaming stalled during a step (R52, R294). -/
opaque Config.stalls : Nat → Word

/-- How many of the row pairs that a TMMA may omit it does omit (R65: "may omit"). -/
opaque Config.rowsSkipped : Nat → Nat

/-- Which earlier value of a 32-byte block DISCARD leaves there (R140); applied to the step counter
and to the block. -/
opaque Config.discardChoice : Nat → Nat → Nat

/-- Whether a TLB or walk cache still holds an entry when an access looks it up (R311: sizes and
replacement carry no promise); applied to the step counter and to the address (R312). -/
opaque Config.cacheHolds : Nat → Nat → Bool

/-- Where one copy or one tile store writes a byte more than once, whether the later of two positions
wins (R216, R235: "which one is not defined"). -/
opaque Config.laterWins : Nat → Bool

/-- Where a copy's destination overlaps its own source, whether a source read returns the byte written
by this copy (R216). -/
opaque Config.copyReadsNew : Nat → Bool

/-- POLICY of the fault record of a kill that no policy decided (R321). -/
opaque Config.killPolicy : BitVec 2

/-- The payloads of the flits that a transaction completes: R359 packs transactions end to end across flits and gives no
format, so that one may complete none, one or several. -/
opaque Config.flitPayloads : Nat → List (List Byte)

/-- The payloads of the new flits in which the transactions of a voided slot come again, by the number of the next transaction
and the slot's bytes: R362 reissues each whole, and R359 gives no format. -/
opaque Config.reissuedPayloads : Nat → List Byte → List (List Byte)

/-- Whether the peer device's own access tables grant an access that this device sends (R366), by step, partition, context,
frame and kind. -/
opaque Config.peerGrants : Nat → BitVec 3 → BitVec 12 → Nat → Nat → Bool

/-- Which value of a 32-byte block of a launch record, its kernel header or its hamper table the scheduler reads where nothing
puts a store to the block before the read (R341); applied to the step counter and to the block. -/
opaque Config.oldRecord : Nat → Nat → Nat

/-- Which part of a retired write is performed next (R115: parts in different blocks have no order). -/
opaque Config.nextPart : Nat → Nat

/-- Which line a full L1I gives up for a new one (R12: no replacement is given); applied to the step counter and to the new
line. -/
opaque Config.l1iVictim : Nat → Nat → Nat

/-- Which set of its L2 slice a line belongs to (R16: 16 ways, no index is given). -/
opaque Config.l2Set : Nat → Nat

/-- Which dirty line of a full set its slice writes back for a new one (R16: no replacement is given); applied to the step
counter and to the new line. -/
opaque Config.l2Victim : Nat → Nat → Nat

/-- Where the runtime places the save areas of a gang that is pre-empted (R31, R328: no place is given). -/
opaque Config.saveBase : Nat → Nat

/-- Whether a core's fetch logic still holds bytes of an older published version of a line (R147). -/
opaque Config.keepsPrefetch : Nat → Nat → Bool

/-- Whether the peer device holds a part of a context (R120): what it binds is its own. -/
opaque Config.peerHolds : Nat → BitVec 12 → Bool

/-- Whether a replay entry's ECC is uncorrectable when it is read for sending (R362). -/
opaque Config.replayBad : Nat → Nat → Bool

/-- A core's sensor reading in sixteenths of a degree (R377). -/
opaque Config.sensor : Nat → Nat → BitVec 16

/-- Whether a line of device or host memory is held by an L2 when every L2 line is zeroed (R374). -/
opaque Config.inL2 : Nat → Nat → Bool

/-- The bytes that extend MEAS2 for a lifecycle code and for a debug-unlock record (R372: their form is not
given). -/
opaque Config.codeBytes : BitVec 4 → List Byte
opaque Config.unlockBytes : Word → Word → List Byte

/-- Where a debug token in the window holds its fields: the bytes of the identifier, lifecycle code, nonce, signing key and
signature (R374 gives no layout). Their numbers are little-endian (R3). -/
opaque Config.tokenFields : List Byte → List Byte × BitVec 4 × List Byte × List Byte × List Byte

/-- The bytes that a debug token's signature covers, of its identifier, lifecycle code and nonce (R374: their form is not
given). -/
opaque Config.tokenMessage : Word → BitVec 4 → Word → List Byte

/-- A fresh debug nonce (R368). -/
opaque Config.freshNonce : Nat → Word

/-- The Device Serial Number (R374). -/
opaque Config.deviceId : Word

/-- SHA-512 of the boot ROM (R372). -/
opaque Config.bootRomDigest : BitVec 512

/-- The physical code address that BOOT writes to each core's CR.SVEC (R371: the runtime's entry). -/
opaque Config.runtimeEntry : Word

/-- The certificate chain in slot 0 (R373). -/
opaque Config.certChain : List Byte

/-- The signature that the identity key makes (R373). -/
opaque Config.identitySign : List Byte → List Byte

end Sys2Proof
end

