-- ==== Sys2Proof/Machine/State.lean ====
section
/-! DEFINITION. Everything the machine holds, as plain data, and its state right after reset. A docstring
names the rule of spec/ that gives a field. Values at reset for which the manual gives none are in log entry
2 of the assumption log. -/

namespace Sys2Proof.Machine

/-- Bytes by address, addresses rising, no zero byte listed (log entry 3). -/
abbrev Memory := List Host.Cell

/-- One strand of one core (R34). -/
structure Who where
  core : CoreId
  errand : Bool
  deriving DecidableEq, Repr

/-- R285. -/
inductive Mode where
  | user | supervisor
  deriving DecidableEq, Repr

/-- Fault causes (R319). -/
inductive Cause where
  | illegalInstruction | privilegedInstruction | translation | permRead | permWrite | permExec | writeFrozen
  | freezeOverflow | thawUnderflow | discardFrozen | fetchUnpublished | misaligned | jtBound | lpadMismatch
  | returnUnderflow | errandTile | errandBudget | peerAbsent | barrierCell | featureLevel | dataUncorrectable
  deriving DecidableEq, Repr

/-- What a fault reports: cause, CR.SFADDR, CR.SFINFO[15:0] (R292, R319), and the KIND of its record (R321). -/
structure FaultInfo where
  cause : Cause
  addr : Word
  info : BitVec 16
  kind : BitVec 4
  /-- The target and physical address of an access that an access table denied (R317). -/
  denied : Option (Nat × Nat) := none
  deriving DecidableEq, Repr

/-- What a waiting instruction waits for (R30, R151, R199, R217, R293, R296). -/
inductive WaitOn where
  | fullEmpty | barrier | batches | slot | thawTicket | sweep | migration | taskEnd | freezePoint | freezeAcks
  | gatherRows | copySlot | generation | otherStrand | linkAcks | copies | landing
  deriving DecidableEq, Repr

/-- The containment levels (R48, R321). -/
inductive Level where
  | task | gang | launch | queue | context
  deriving DecidableEq, Repr

/-- A containment policy (R47). -/
inductive Policy where
  | ignore | retry | killSelf | killParent
  deriving DecidableEq, Repr

/-- One strand (R27, R34, R67, R78, R287, R292, R326). -/
structure Strand where
  pc : Word
  /-- The successor address of the head at `pc`, latched at fetch (R168). -/
  npc : Word
  mode : Mode
  g : Vector Word 32
  /-- The supervisor bank of g1 to g15 (R287). -/
  sg : Vector Word 16
  f : Vector Word 16
  /-- The return store, oldest first (R79, R34). -/
  ret : List Word
  /-- The supervisor return store (R287). -/
  sret : List Word
  rspill : Word
  spilled : BitVec 32
  sstatus : Word
  sepc : Word
  svec : Word
  scause : Word
  sfaddr : Word
  sfinfo : Word
  sarg : Word
  sscratch : Word
  sdeleg : Word
  /-- Consecutive faults of one instruction, and the current back-off in microseconds (R48, R326). -/
  retries : Nat
  backoff : Nat
  inBackoff : Bool
  /-- The fault that SRET with k = 1 and RETRY_EXHAUSTED contain (R302, R48). -/
  lastFault : Option FaultInfo
  wait : Option WaitOn
  /-- The floor that the last fence of kind .w set for later writes (R129). -/
  wfloor : Nat
  /-- The place in the core's order of the last fence of kind .r or .rw: a later read sees no older bytes than a copy
  numbered below it does (R126). -/
  rfloor : Nat
  deriving DecidableEq, Repr

/-- A tile's data and sidecar (R67, R71, R73). -/
structure Tile where
  rows : Vector Row 64
  side : Vector ScaleRow 64
  deriving DecidableEq, Repr

/-- An accumulator: element (i, j) is bits 32j+31 to 32j of row i (R70, R246). -/
abbrev Acc := Vector Row 64

/-- A barrier cell (R41). -/
structure BarCell where
  expect : BitVec 12
  arrived : BitVec 12
  phase : BitVec 8
  deriving DecidableEq, Repr

/-- Reply slot status (R38). -/
inductive SlotStatus where
  | empty | pending | value | refused | ended | faulted | absent
  deriving DecidableEq, Repr

structure Slot where
  status : SlotStatus
  value : Word
  deriving DecidableEq, Repr

/-- Who posted an errand, and the slot that its outcome goes to (R37, R38). -/
structure Caller where
  key : GangKey
  peer : Nat
  slot : Fin 16
  deriving DecidableEq, Repr

/-- A mailbox entry (R37, R199). -/
structure ErrandMsg where
  caller : Caller
  entry : Word
  args : Vector Word 4
  deriving DecidableEq, Repr

/-- The errand in progress (R36, R40, R331). -/
structure ErrandRun where
  caller : Caller
  replied : Bool
  /-- Instructions retired by this errand (R36). -/
  count : Nat
  /-- No instruction of the errand has been reached yet: a checked landing is due (R199). -/
  landing : Bool
  deriving DecidableEq, Repr

/-- The task on a core: its place and its launch values (R22 to R28, R76, R292). -/
structure Resident where
  key : GangKey
  peer : Nat
  peers : Nat
  part : BitVec 3
  ctx : BitVec 12
  ptroot : Word
  spanned : Bool
  depth : Nat
  policy : BitVec 8
  lpad : Bool
  callat : Bool
  ended : Bool
  deriving DecidableEq, Repr

/-- Where a write goes once it drains. -/
inductive Dest where
  | phys (pa : Nat)
  | store (k : GangKey) (peer : Nat) (off : Nat)
  deriving DecidableEq, Repr

structure Seg where
  dst : Dest
  bytes : List Byte
  deriving DecidableEq, Repr

/-- The range spaces of R55, with one for supervisor physical accesses. -/
inductive Space where
  | virt
  | store (peer : Nat)
  | phys
  deriving DecidableEq, Repr

/-- A retired, undrained write (R56 to R59). -/
structure PendingWrite where
  errand : Bool
  space : Space
  lo : Nat
  hi : Nat
  segs : List Seg
  rel : Option Scope
  discard : Bool
  master : Master
  /-- Place in the order in which the core's writes and copies retired. -/
  seq : Nat
  /-- Every older write of the strand numbered below this one drains first (R128, R129). -/
  floor : Nat
  /-- A fence puts every older write of the strand numbered below this one before this write (R129). -/
  fence : Nat
  deriving DecidableEq, Repr

/-- COPY, or COPYR with its element type and rounding of addends (R214, R218). -/
inductive CopyForm where
  | copy | fp32 | fp32Lossy | bf16
  deriving DecidableEq, Repr

/-- A retired copy (R215, R216, R329, R333). -/
structure CopyOp where
  dst : Word
  src : Word
  dsc : Vector Word 3
  form : CopyForm
  dsp : Bool
  ssp : Bool
  /-- none while the copy is in the open batch (R221). -/
  batch : Option (BitVec 32)
  pieces : Nat
  /-- A unit has failed; the copy still completes (R217). -/
  failed : Bool
  /-- The source and destination ranges of R55: space, lowest and one past the highest address. -/
  srange : Space × Nat × Nat
  drange : Space × Nat × Nat
  /-- Its physical source and destination bytes, as ranges (R59, R126). -/
  sphys : List (Space × Nat × Nat)
  dphys : List (Space × Nat × Nat)
  seq : Nat
  floor : Nat
  /-- Every older copy of the strand numbered below this one reads the bytes that both read first (R126). -/
  rfloor : Nat
  deriving DecidableEq, Repr

/-- A failed batch and its first failure, kept until it is raised (R217); none is the open batch. `failed` are its failed
copies that have completed: they take places of the 64 of R329 and have records of their own in a save area (R333). -/
structure Batch where
  num : Option (BitVec 32)
  fault : FaultInfo
  failed : List CopyOp
  deriving DecidableEq, Repr

/-- A granule of a local store whose last action was the unit of a row of a qualified tile move, with the gang and the peer
of the task that executes the move (R113, R236). It matters while that move waits. -/
structure Claim where
  granule : Nat
  key : GangKey
  peer : Nat
  deriving DecidableEq, Repr

/-- A row of a waiting qualified tile move whose unit has been performed: where it is, and the bytes there before and after
(R113, R236). -/
structure RowUnit where
  row : Fin 64
  key : GangKey
  peer : Nat
  off : Nat
  q : Fe
  before : List Byte
  after : List Byte
  deriving DecidableEq, Repr

/-- One row that a waiting TGATHER asked an owner for (R240): its data once read, and the offset of its lowest byte that was
uncorrectable then. -/
structure GatherRow where
  row : Fin 64
  key : GangKey
  owner : Nat
  off : Nat
  data : Option Row
  bad : Option Nat
  deriving DecidableEq, Repr

/-- R311: what a TLB holds. `bits` is the logarithm of the leaf or merged size. -/
structure TlbEntry where
  ctx : BitVec 12
  bits : Nat
  va : Nat
  pa : Nat
  r : Bool
  w : Bool
  x : Bool
  s : Bool
  deriving DecidableEq, Repr

/-- R311: a table pointer of a level; `tag` is the virtual address without the bits below that level's. -/
structure WalkEntry where
  ctx : BitVec 12
  level : Nat
  tag : Nat
  next : Nat
  deriving DecidableEq, Repr

/-- A 128-byte line held by an L1I (R145). -/
structure CodeLine where
  line : Nat
  bytes : List Byte
  deriving DecidableEq, Repr

/-- One core (R22, R34, R37 to R44, R67, R77, R80, R111, R294). -/
structure Core where
  task : Option Resident
  /-- Held by HALT (R303). -/
  held : Bool
  /-- A pre-emption, migration or kill request has reached the core (R289, R327). -/
  halting : Bool
  /-- The core has declared its halt (R327). -/
  halted : Bool
  /-- CLOAD has loaded a task that runs from the next SRET with k = 0 (R297). -/
  loading : Bool
  asleep : Bool
  /-- Advances of CG counted during retention sleep (R150). -/
  sleepAdvances : Nat
  main : Strand
  err : Strand
  run : Option ErrandRun
  mbox : List ErrandMsg
  m : Vector Word 8
  /-- Tiles by logical slot (R63). -/
  t : Vector Tile 16
  a : Vector Acc 8
  rot : Fin 8
  ls : Memory
  /-- 64-byte blocks of the local store whose data is uncorrectable (R60, R319, R323). -/
  bad : List Nat
  full : BitVec 40960
  /-- Granules that a row of a qualified tile move has taken or filled and nobody has acted on since (R60, R230). -/
  claims : List Claim
  cells : Vector BarCell 96
  slots : Vector Slot 16
  codegen : BitVec 16
  scopemiss : Word
  fcause : Word
  /-- CR.EVCYCLES, CR.EVRETIRED, CR.EVERRAND, CR.ZSKIP_ROWS, CR.ZSKIP_FULL, CR.EVTMMA, CR.EVRENSTALL. -/
  counters : Vector Word 7
  /-- The check epoch (R58). -/
  epoch : Nat
  writes : List PendingWrite
  copies : List CopyOp
  batches : List Batch
  batchCtr : BitVec 32
  /-- The number of the next write or copy to retire. -/
  order : Nat
  /-- The phase that a waiting BARSYNC arrived in (R226). -/
  barPhase : Option (BitVec 8)
  /-- The cell that a waiting BARWAIT or BARSYNC waits on, and whether it has become uninitialised since (R44, R226). -/
  barCell : Option (Fin 96)
  barLost : Bool
  /-- A waiting THAWWAIT waits for sweeps below this value of the sequence, assigned when it was performed (R160). -/
  thawBound : Option (BitVec 48)
  /-- Rows of the waiting qualified tile move whose unit has been performed (R236). -/
  rowUnits : List RowUnit
  gather : Option (List GatherRow)
  /-- Faults met after retirement (R322). -/
  deferred : List FaultInfo
  l1i : List CodeLine
  /-- Bytes of older published versions that the fetch logic has prefetched (R147). -/
  prefetched : List CodeLine
  tlb : List TlbEntry
  itlb : List TlbEntry
  walks : List WalkEntry
  deriving DecidableEq, Repr

/-- Frame attributes (R142, R315). -/
structure FrameAttr where
  code : Bool
  fcount : Nat
  sweep : Bool
  peer : Bool
  die1 : Bool
  die0 : Bool
  deriving DecidableEq, Repr

/-- A release tag and the position of its agent: none is an agent outside every core (R132, R341). -/
structure ScopeTag where
  scope : Scope
  core : Option CoreId
  /-- The writer is on the peer device. -/
  away : Bool
  deriving DecidableEq, Repr

/-- What is done at a home to the bytes that are there: replaced, added to by element (R136), or an atomic with its
source and compare operands (R127, R363). -/
inductive HomeOp where
  | copy (form : CopyForm)
  | atomic (op : AOp) (src cmp : Nat)
  deriving DecidableEq, Repr

/-- A write that has reached its home from the host, the scheduler or over the link (R157), or that the scheduler has still
to make; `ack` is the transaction whose acknowledgement it owes (R364), `notify` the vector that follows it (R353). -/
structure HomeWrite where
  pa : Nat
  bytes : List Byte
  form : HomeOp
  master : Option Master
  rel : Option ScopeTag
  ack : Option LinkId
  notify : Option Nat
  deriving DecidableEq, Repr

/-- A 32-byte block as it was before a part of a core's store, which nothing has put before what the scheduler reads: the
scheduler may still find that value there (R341; log entry 25). The bytes written are `lo` to `hi`. -/
structure Unseen where
  lo : Nat
  hi : Nat
  block : Nat
  old : List Byte
  who : Who
  /-- The store's place in its core's order. -/
  seq : Nat
  deriving DecidableEq, Repr

/-- Memory and what its homes keep about it. -/
structure MemSys where
  /-- Device, peer-device (as last seen over the link) and host memory by physical address (R306). -/
  cells : Memory
  /-- Earlier values of 32-byte blocks of device memory, newest first (R126, R140). -/
  past : List (Nat × List Byte)
  /-- What stores that nothing orders have just replaced, newest first (R126, R131, R341). -/
  unseen : List Unseen
  /-- Scope tags by block; an absent block has tag NONE (R132). -/
  tags : List (Nat × ScopeTag)
  frames : List (Nat × FrameAttr)
  /-- Lines whose U bit is 1 (R142). -/
  ubits : List Nat
  /-- The lines that an L2 holds dirty, last written first, each with the master of its last write, which is none for one
  that carried the runtime master or none (R16, R290, R324). -/
  masters : List (Nat × Option Master)
  /-- Lines whose data is uncorrectable in HBM (R324). -/
  ecc : List Nat
  /-- F lines: cache, line and the U bit at the freeze point (R153). -/
  fLines : List (CacheId × Nat × Bool)
  /-- Writes accepted at a home that wait for a sweep, oldest first (R157). -/
  waiting : List HomeWrite
  deriving DecidableEq, Repr

/-- A freeze event under way (R151, R152): one of this device, with the strand that waits for it and its ticket, or
one that came from the peer device with the transaction that is to be acknowledged (R363). -/
structure FreezeOp where
  id : Nat
  who : Option Who
  ticket : Word
  foreign : Option LinkId
  frames : List Nat
  toApply : List CoreId
  toAck : List CoreId
  /-- The peer device has not acknowledged. -/
  peerWait : Bool
  deriving DecidableEq, Repr

/-- An open thaw sweep of one frame (R155, R156). -/
structure Sweep where
  seq : BitVec 48
  frame : Nat
  toDrop : List CacheId
  toAck : List CacheId
  deriving DecidableEq, Repr

structure FreezeSys where
  /-- Frames of the peer device that its freeze events name and no thaw sweep of it has since (R161, R363). -/
  foreign : List Nat
  /-- The value that the next FREEZE or THAW is assigned (R159). -/
  seq : BitVec 48
  /-- The number of the next freeze event. -/
  nextId : Nat
  ops : List FreezeOp
  sweeps : List Sweep
  deriving DecidableEq, Repr

/-- A CALLAT on its way (R199). -/
structure Post where
  msg : ErrandMsg
  key : GangKey
  peer : Nat
  deriving DecidableEq, Repr

/-- An outcome on its way to a slot (R38, R200). -/
structure Reply where
  caller : Caller
  status : SlotStatus
  value : Word
  deriving DecidableEq, Repr

/-- A context's binding (R369). -/
structure Binding where
  ctx : BitVec 12
  part : BitVec 3
  root : Word
  spanned : Bool
  deriving DecidableEq, Repr

/-- What CONFIG sets (R290, R316, R320, R338, R356, R369). -/
structure Conf where
  quires : Vector (BitVec 32) 8
  /-- Partition, first and last frame. -/
  frames : List (BitVec 3 × Nat × Nat)
  /-- Access table entries that are not zero: target, index, doublewords (R316). -/
  access : List ((Nat × Nat) × Word × Word)
  hostMaster : Word
  contexts : List Binding
  keys : List (BitVec 12 × BitVec 256)
  /-- Context, base, length. -/
  demand : List (BitVec 12 × Nat × Nat)
  pools : List (BitVec 3 × Nat × Nat)
  /-- Frames given: context, frame. -/
  given : List (BitVec 12 × Nat)
  relief : Nat
  deriving DecidableEq, Repr

/-- A queue descriptor (R342), with its credit (R349) and the time at which its next unit became so. -/
structure Queue where
  enable : Bool
  err : Bool
  prio : BitVec 3
  weight : BitVec 8
  policy : BitVec 2
  log2n : BitVec 4
  ctx : BitVec 12
  part : BitVec 3
  minres : BitVec 10
  ring : BitVec 45
  tailAddr : BitVec 49
  headAddr : BitVec 49
  head : BitVec 32
  tailSeen : BitVec 32
  /-- The tail has been read since ENABLE last became 1. -/
  tailRead : Bool
  /-- The tail is ignored until ENABLE is written again (R344). -/
  tailIgnored : Bool
  /-- The launch of the last record that became the head launch (R348). -/
  last : Option Nat
  credit : Int
  /-- The next unit and the time at which it became so (R349). -/
  unit : Option GangKey
  since : Nat
  deriving DecidableEq, Repr

/-- A launch that has been taken as head launch and has not completed (R345, R348, R353). -/
structure Launch where
  id : Nat
  queue : QueueId
  ctx : BitVec 12
  part : BitVec 3
  gangs : Nat
  quires : Nat
  local_ : Bool
  lpol : BitVec 2
  gpol : BitVec 2
  tpol : BitVec 2
  mbox : Nat
  lpad : Bool
  callat : Bool
  entry : Word
  khdr : Word
  hamper : Word
  hcount : Nat
  param : Word
  rspill : Word
  rsstride : Nat
  pair : BitVec 32
  compl : Word
  user : Word
  notify : Bool
  overlap : Bool
  placed : Nat
  retired : Nat
  killed : Nat
  tstart : Word
  firstFault : Option (Word × Word × Word × Word)
  /-- STATUS with which it will complete (R348, R353). -/
  status : Nat
  deriving DecidableEq, Repr

/-- Where a peer's task is (R25, R335). -/
inductive Place where
  | core (c : CoreId)
  | saved (pa : Nat)
  deriving DecidableEq, Repr

/-- R24, R29, R31, R327, R351. -/
inductive GangState where
  | placed | running | halting | saved | retiring
  deriving DecidableEq, Repr

/-- Of a saved task, by peer: what a squashed waiting instruction had performed, the phase of a BARSYNC's arrival and the
cell it waits on (R226) and the rows of a qualified tile move (R236); the faults that its next instruction boundary
raises (R322); the claims on its local store; and the first failures of its failed batches, whose records hold the cause
alone (R319, R333). -/
structure Kept where
  peer : Nat
  barPhase : Option (BitVec 8)
  barCell : Option (Fin 96)
  barLost : Bool
  rowUnits : List RowUnit
  deferred : List FaultInfo
  claims : List Claim
  faults : List (Option (BitVec 32) × FaultInfo)
  deriving DecidableEq, Repr

/-- A placed, running or saved gang (R25, R26, R31, R349). -/
structure Gang where
  key : GangKey
  queue : QueueId
  state : GangState
  prio : BitVec 3
  quires : List (Fin 32)
  /-- Cores outside the quires that its migrated tasks hold or have held (R26). -/
  reserved : List CoreId
  /-- The table and the SPANNED flag of its context's binding at placement (R369). -/
  root : Word
  spanned : Bool
  peers : List Place
  /-- Peers whose task has been killed (R49). -/
  dead : List Nat
  /-- Base of the save areas: peer p at base + p × 0x12_0000. -/
  save : Nat
  placedAt : Nat
  minresOver : Bool
  /-- The task in mid-migration: peer, target core, save area. -/
  moving : Option (Nat × CoreId × Nat)
  /-- By peer, when it last migrated (R338). -/
  moved : List (Nat × Nat)
  /-- What the save areas have no place for. -/
  kept : List Kept
  deriving DecidableEq, Repr

structure Sched where
  queues : Vector Queue 32
  launches : List Launch
  gangs : List Gang
  counter : Nat
  /-- Quires held for a queue's next unit that victims make room for (R350). -/
  holds : List (QueueId × GangKey × List (Fin 32))
  /-- Gangs that the scheduler has chosen to pre-empt (R338, R350). -/
  chosen : List GangKey
  /-- The unit U of R350 of each partition that waits for victims to become eligible. -/
  wanting : List (BitVec 3 × QueueId × GangKey)
  /-- Cores that have reached 105 °C and not fallen below the threshold since (R338). -/
  hot : List CoreId
  /-- Writes that the scheduler has still to make, oldest first: over the link (R365), or a release that waits for the
  acknowledgements of what it sent before (R364). -/
  outbox : List HomeWrite
  deriving DecidableEq, Repr

/-- SPDM responses (R373), by content. -/
inductive Spdm where
  | version | capabilities
  | algorithms
  | digests (d : BitVec 512)
  | certificate (chain : List Byte)
  | challengeAuth (nonce : BitVec 256) (sig : List Byte)
  | measurements (meas : Vector (BitVec 512) 4) (code : BitVec 4)
  | error
  deriving DecidableEq, Repr

/-- MB.STATUS.STATE (R367). -/
inductive BootState where
  | awaitBundle | bootFail | running
  deriving DecidableEq, Repr

/-- The counters of R376. -/
structure MgmtCounters where
  arrivalsDropped : Word
  hostWrDenied : Word
  hostWrFrozen : Word
  correctedErrors : Word
  logOverflow : Word
  deriving DecidableEq, Repr

/-- The management processor (R367 to R378). -/
structure Mgmt where
  go : Bool
  op : BitVec 8
  /-- The command that GO started: the OP of that write. -/
  running : BitVec 8
  state : BootState
  result : BitVec 8
  arg0 : Word
  arg1 : Word
  window : Memory
  staging : Memory
  log : List (Word × Word × Word × Word)
  logNext : Nat
  counters : MgmtCounters
  thermal : Vector (BitVec 32) 256
  powerCap : Nat
  meas : Vector (BitVec 512) 4
  deployed : Bool
  returned : Bool
  unlocked : Bool
  debugDisable : Bool
  nonce : Option Word
  /-- A DEBUG_UNLOCK whose checks have passed and that waits for its kills: identifier and nonce (R374). -/
  unlocking : Option (Word × Word)
  revoked : BitVec 4
  minVersion : Nat
  keyHash : Vector (BitVec 512) 4
  debugKeyHash : BitVec 512
  spdm : Option Spdm
  deriving DecidableEq, Repr

/-- R359. -/
inductive LinkState where
  | down | training | up
  deriving DecidableEq, Repr

/-- KIND of a flit that is sent (R360). -/
inductive FlitKind where
  | data | void
  deriving DecidableEq, Repr

/-- A replay entry (R361, R362). -/
structure Flit where
  seq : BitVec 12
  kind : FlitKind
  payload : List Byte
  deriving DecidableEq, Repr

/-- A write that was sent to the peer device and is not answered (R364, R365); the scheduler's has no strand. -/
structure Sent where
  tag : Nat
  who : Option Who
  /-- The retired write that it is a part of, by its place in the core's order, and the address that it names. -/
  write : Nat
  va : Word
  pa : Nat
  bytes : List Byte
  /-- The vector that follows it (R353). -/
  notify : Option Nat
  deriving DecidableEq, Repr

/-- What this device sent back to the peer device, with the transaction that it answers (R363). -/
inductive LinkAnswer where
  | bytes (id : LinkId) (b : List Byte)
  | old (id : LinkId) (v : BitVec 128)
  | ack (id : LinkId)
  | denied (id : LinkId)
  | phase (id : LinkId) (p : PhaseAnswer)
  deriving DecidableEq, Repr

/-- An arrival of a BARARR with PDEV: the strand that waits for it, by gang and peer, and its answer. -/
structure Arrival where
  tag : Nat
  key : GangKey
  peer : Nat
  errand : Bool
  pair : BitVec 32
  gang : Nat
  cell : Nat
  answer : Option PhaseAnswer
  deriving DecidableEq, Repr

/-- A transaction of the peer device that a voided slot has lost, or that is kept behind one, and whether it has come again
(R362). -/
structure Awaited where
  lost : LostTransaction
  came : Bool
  deriving DecidableEq, Repr

/-- The Oncel port (R359 to R366). -/
structure Link where
  state : LinkState
  nextSeq : BitVec 12
  expect : BitVec 12
  replay : List Flit
  /-- Entries that a NAK asked to be sent again, from this SEQ on (R361). -/
  resendFrom : Option (BitVec 12)
  nakSent : Bool
  credit : Nat
  /-- Bytes received whose credit is not yet returned (R360). -/
  owed : Nat
  /-- Payloads that wait for a slot: new ones (R361) and those of voided slots (R362). -/
  unsent : List (List Byte)
  /-- Headers of the flits sent, oldest first (R360). -/
  wire : List (BitVec 96)
  received : List Byte
  /-- Bytes at the start of the next payload that belong to a transaction split over a voided slot (R362). -/
  skip : Nat
  /-- Writes sent and not acknowledged (R364). -/
  unacked : List Sent
  /-- Tags of the next write or request. -/
  nextTag : Nat
  answers : List LinkAnswer
  /-- Freeze events that must be acknowledged before the link carries other transactions (R365). -/
  refreeze : List Nat
  /-- Barrier arrivals sent to the peer device and what they came to (R225, R366). -/
  arrivals : List Arrival
  /-- Transactions of the peer device that others wait for, in order, until they are performed (R362). -/
  awaited : List Awaited
  /-- Transactions that wait at the receiver, oldest first (R33, R362). -/
  kept : List LinkTransaction
  deriving DecidableEq, Repr

/-- A completion that the host has received: of a BAR2 read, where none is a Completer Abort (R356), or of an access of BAR0,
where none is an Unsupported Request (R355). -/
structure HostRead where
  bar : Nat
  addr : Nat
  data : Option (List Byte)
  deriving DecidableEq, Repr

/-! The function of the host port (R354). -/

/-- D0 and D3hot (R354). -/
inductive PowerState where
  | d0 | d3hot
  deriving DecidableEq, Repr

/-- What software can set of the function's capability structures, and the errors that Advanced Error Reporting has recorded
(R354, R355, R356). -/
structure HostPort where
  power : PowerState
  /-- Lanes of the link that the host has trained, at most 16. -/
  width : Nat
  /-- Max Payload Size and Max Read Request Size in bytes. -/
  maxPayload : Nat
  maxReadRequest : Nat
  unsupportedRequest : Bool
  completerAbort : Bool
  deriving DecidableEq, Repr

/-- What the host sets of them. -/
inductive PortWrite where
  | power (p : PowerState)
  | width (n : Nat)
  | maxPayload (n : Nat)
  | maxReadRequest (n : Nat)
  /-- The recorded errors are cleared. -/
  | clearErrors
  deriving DecidableEq, Repr

/-- An agent's next move. -/
inductive Move where
  | strand (w : Who)
  | event (i : Instr)
  /-- A kill that waits for strands in supervisor mode or for retired writes, with the cause that callers receive and
  its record (R49, R289). -/
  | kill (t : KillTarget) (cause : Nat) (rec : Word × Word × Word × Word)
  /-- Every agent of the device has a turn, one after another. -/
  | owe
  /-- A host agent writes bytes of one 64-byte line of host memory (R119, R123, R357). -/
  | hostStore (pa : Nat) (bytes : List Byte)
  /-- The host reads BAR0, or writes it with a size that no register takes (R355). -/
  | registerRead (off len : Nat)
  | registerOther (off : Nat)
  /-- The host sets something of the function's capability structures (R354). -/
  | portWrite (w : PortWrite)
  /-- The link begins to train (R359). -/
  | linkTraining
  /-- A transaction that waits at the link's receiver is taken, where nothing holds it any more (R362). -/
  | linkKept
  /-- The data of a 64-byte block of a local store becomes uncorrectable (R319, R323). -/
  | storeError (c : CoreId) (block : Nat)
  deriving DecidableEq, Repr

/-- The whole machine. `agenda`, `cur` and `ticks` are the model's own (log entry 1). -/
structure State where
  cores : Vector Core 256
  mem : MemSys
  frz : FreezeSys
  posts : List Post
  replies : List Reply
  conf : Conf
  sched : Sched
  mgmt : Mgmt
  link : Link
  /-- Interrupt vectors raised, oldest first (R358). -/
  vectors : List Nat
  /-- The MSI-X table and its pending-bit array (R355, R358; log entry 54). -/
  msix : Memory
  pba : BitVec 128
  /-- Completions that the host has received, oldest first (R355, R356). -/
  hostReads : List HostRead
  /-- The function of the host port (R354). -/
  port : HostPort
  /-- The code generation (R148). -/
  cg : BitVec 16
  /-- An advance of CG is held, and CR.TIME when the hold began (R149, R334). -/
  cgHeld : Option Nat
  /-- CR.TIME (R11). -/
  clock : Word
  /-- Moves that agents make before the current strand goes on, first one first. -/
  agenda : List Move
  /-- The strand whose turn it is. -/
  cur : Who
  /-- Steps made; free values are applied to it. -/
  ticks : Nat
  deriving DecidableEq, Repr

/-- Why the machine stops: for no reason. The manual gives every instruction an effect, so there is no constructor and
nobody raises one. Safe. -/
inductive Fault
  deriving DecidableEq, Repr

/-- Why a step gives no meaning. -/
inductive Refusal where
  /-- The instruction has no meaning yet: raised by `exec`. Safe. -/
  | notModelled (mnemonic : String)
  deriving DecidableEq, Repr

/-- A strand at reset (R292; log entry 2). -/
def Strand.reset : Strand where
  pc := 0
  npc := 0
  mode := .user
  g := Vector.replicate 32 0
  sg := Vector.replicate 16 0
  f := Vector.replicate 16 0
  ret := []
  sret := []
  rspill := 0
  spilled := 0
  sstatus := 0
  sepc := 0
  svec := 0
  scause := 0
  sfaddr := 0
  sfinfo := 0xFFFC
  sarg := 0
  sscratch := 0
  sdeleg := 0
  retries := 0
  backoff := 0
  inBackoff := false
  lastFault := none
  wait := none
  wfloor := 0
  rfloor := 0

def Tile.zero : Tile := ⟨Vector.replicate 64 0, Vector.replicate 64 0⟩

def Acc.zero : Acc := Vector.replicate 64 0

/-- A core at reset, holding no task. -/
def Core.reset : Core where
  task := none
  held := false
  halting := false
  halted := false
  loading := false
  asleep := false
  sleepAdvances := 0
  main := Strand.reset
  err := Strand.reset
  run := none
  mbox := []
  m := Vector.replicate 8 0
  t := Vector.replicate 16 Tile.zero
  a := Vector.replicate 8 Acc.zero
  rot := 0
  ls := []
  bad := []
  full := 0
  claims := []
  cells := Vector.replicate 96 ⟨0, 0, 0⟩
  slots := Vector.replicate 16 ⟨.empty, 0⟩
  codegen := 0
  scopemiss := 0
  fcause := 0
  counters := Vector.replicate 7 0
  epoch := 0
  writes := []
  copies := []
  batches := []
  batchCtr := 0
  order := 0
  barPhase := none
  barCell := none
  barLost := false
  thawBound := none
  rowUnits := []
  gather := none
  deferred := []
  l1i := []
  prefetched := []
  tlb := []
  itlb := []
  walks := []

/-- A queue descriptor at reset (R342). -/
def Queue.reset : Queue where
  enable := false
  err := false
  prio := 0
  weight := 1
  policy := 0
  log2n := 4
  ctx := 0
  part := 0
  minres := 100
  ring := 0
  tailAddr := 0
  headAddr := 0
  head := 0
  tailSeen := 0
  tailRead := false
  tailIgnored := false
  last := none
  credit := 0
  unit := none
  since := 0

/-- The machine right after reset. -/
def State.reset : State where
  cores := Vector.replicate 256 Core.reset
  mem := ⟨[], [], [], [], [], [], [], [], [], []⟩
  frz := ⟨[], 0, 0, [], []⟩
  posts := []
  replies := []
  conf := ⟨Vector.replicate 8 0, [], [], 0, [], [], [], [], [], 95⟩
  sched := ⟨Vector.replicate 32 Queue.reset, [], [], 0, [], [], [], [], []⟩
  mgmt :=
    { go := false, op := 0, running := 0, state := .awaitBundle, result := 0, arg0 := 0, arg1 := 0, window := [],
      staging := [], log := [], logNext := 0, counters := ⟨0, 0, 0, 0, 0⟩,
      thermal := Vector.replicate 256 0, powerCap := 950, meas := Vector.replicate 4 0, deployed := false,
      returned := false, unlocked := false, debugDisable := false, nonce := none, unlocking := none, revoked := 0,
      minVersion := 0, keyHash := Vector.replicate 4 0, debugKeyHash := 0, spdm := none }
  link :=
    { state := .down, nextSeq := 0, expect := 0, replay := [], resendFrom := none, nakSent := false,
      credit := 0, owed := 0, unsent := [], wire := [], received := [], skip := 0, unacked := [], nextTag := 0, answers := [], refreeze := [],
      arrivals := [], awaited := [], kept := [] }
  vectors := []
  msix := (List.range 66).map (fun n => (16 * n + 12, 1))
  pba := 0
  hostReads := []
  port := ⟨.d0, 16, 512, 4096, false, false⟩
  cg := 0
  cgHeld := none
  clock := 0
  agenda := []
  cur := ⟨0, false⟩
  ticks := 0

end Sys2Proof.Machine
end

