-- ==== Sys2Proof/Machine/Basic.lean ====
section
/-! DEFINITION. Cores, strands and the register files (R63, R67 to R69, R287). -/

namespace Sys2Proof.Machine

/-! Cores and strands. -/

def State.core (s : State) (c : CoreId) : Core := s.cores[c]

def State.setCore (s : State) (c : CoreId) (k : Core) : State := { s with cores := s.cores.set c k }

def State.mapCore (s : State) (c : CoreId) (f : Core → Core) : State := s.setCore c (f (s.core c))

def Core.strand (k : Core) (errand : Bool) : Strand := if errand then k.err else k.main

def Core.setStrand (k : Core) (errand : Bool) (t : Strand) : Core :=
  if errand then { k with err := t } else { k with main := t }

def State.strand (s : State) (w : Who) : Strand := (s.core w.core).strand w.errand

def State.setStrand (s : State) (w : Who) (t : Strand) : State :=
  s.mapCore w.core (·.setStrand w.errand t)

def State.mapStrand (s : State) (w : Who) (f : Strand → Strand) : State := s.setStrand w (f (s.strand w))

/-- The core of the strand whose turn it is. -/
def State.here (s : State) : Core := s.core s.cur.core

def State.setHere (s : State) (k : Core) : State := s.setCore s.cur.core k

/-- The strand whose turn it is. -/
def State.me (s : State) : Strand := s.strand s.cur

def State.setMe (s : State) (t : Strand) : State := s.setStrand s.cur t

/-! Scalar registers: g0 reads 0 and discards writes (R67); g1 to g15 are banked by mode (R287). -/

def Strand.readG (t : Strand) (r : GReg) : Word :=
  if r.val = 0 then 0
  else if t.mode = .supervisor ∧ r.val < 16 then t.sg[Fin.ofNat 16 r.val] else t.g[r]

def Strand.writeG (t : Strand) (r : GReg) (v : Word) : Strand :=
  if r.val = 0 then t
  else if t.mode = .supervisor ∧ r.val < 16 then { t with sg := t.sg.set (Fin.ofNat 16 r.val) v }
  else { t with g := t.g.set r v }

/-- A register of the user bank whatever the mode (R286, R293, R302). -/
def Strand.writeUserG (t : Strand) (r : GReg) (v : Word) : Strand :=
  if r.val = 0 then t else { t with g := t.g.set r v }

def State.g (s : State) (r : GReg) : Word := s.me.readG r

def State.setG (s : State) (r : GReg) (v : Word) : State := s.setMe (s.me.writeG r v)

def State.f (s : State) (r : FReg) : Word := s.me.f[r]

def State.setF (s : State) (r : FReg) (v : Word) : State := s.setMe { s.me with f := s.me.f.set r v }

/-! Mask registers: m0 reads all ones and discards writes (R67). -/

def Core.mask (k : Core) (r : MReg) : Word := if r.val = 0 then BitVec.allOnes 64 else k.m[r]

def Core.setMask (k : Core) (r : MReg) (v : Word) : Core :=
  if r.val = 0 then k else { k with m := k.m.set r v }

def State.mask (s : State) (r : MReg) : Word := s.here.mask r

def State.setMask (s : State) (r : MReg) (v : Word) : State := s.setHere (s.here.setMask r v)

/-! Tiles: t8 to t15 rotate (R63). -/

def tileSlot (rot : Fin 8) (r : TReg) : Fin 16 :=
  if r.val < 8 then r else Fin.ofNat 16 (8 + (r.val - 8 + rot.val) % 8)

def State.tile (s : State) (r : TReg) : Tile := s.here.t[tileSlot s.here.rot r]

def State.setTile (s : State) (r : TReg) (v : Tile) : State :=
  s.setHere { s.here with t := s.here.t.set (tileSlot s.here.rot r) v }

def State.acc (s : State) (r : AReg) : Acc := s.here.a[r]

def State.setAcc (s : State) (r : AReg) (v : Acc) : State := s.setHere { s.here with a := s.here.a.set r v }

/-- The zero-row mask of a tile (R64). -/
def Tile.zeroRows (t : Tile) : Word :=
  BitVec.ofNat 64 (((List.finRange 64).map (fun i => if t.rows[i] = 0 then 2 ^ i.val else 0)).sum)

/-! Numbers and lists. -/

def sext (n : Nat) (v : BitVec n) : Word := v.signExtend 64

/-- A doubleword in memory order. -/
def le8 (v : Word) : List Byte := natLe 8 v.toNat

def wordOf (bs : List Byte) : Word := BitVec.ofNat 64 (leNat bs)

/-- A bit field of a word, bits `hi` to `lo`. -/
def bitsOf (v : Word) (hi lo : Nat) : Nat := v.toNat / 2 ^ lo % 2 ^ (hi + 1 - lo)

/-- Bits `hi` to `lo` of a value, in place. -/
def keepBits (v : Word) (hi lo : Nat) : Word := BitVec.ofNat 64 (bitsOf v hi lo * 2 ^ lo)

/-- A table by key, without its old entry. -/
def assocSet {α β : Type} [DecidableEq α] (l : List (α × β)) (k : α) (v : β) : List (α × β) :=
  (k, v) :: l.filter (fun p => decide (p.1 ≠ k))

def assocGet {α β : Type} [DecidableEq α] (l : List (α × β)) (k : α) : Option β :=
  (l.find? (fun p => decide (p.1 = k))).map (·.2)

/-- The cause codes of R319. -/
def Cause.code : Cause → Nat
  | .illegalInstruction => 0x01 | .privilegedInstruction => 0x02 | .translation => 0x03
  | .permRead => 0x04 | .permWrite => 0x05 | .permExec => 0x06 | .writeFrozen => 0x07
  | .freezeOverflow => 0x08 | .thawUnderflow => 0x09 | .discardFrozen => 0x0A
  | .fetchUnpublished => 0x0B | .misaligned => 0x0C | .jtBound => 0x0D | .lpadMismatch => 0x0E
  | .returnUnderflow => 0x0F | .errandTile => 0x10 | .errandBudget => 0x11 | .peerAbsent => 0x12
  | .barrierCell => 0x13 | .featureLevel => 0x14 | .dataUncorrectable => 0x15

/-- CR.SFINFO[15:0] (R292). -/
def faultInfo (row level reason : Nat) : BitVec 16 := BitVec.ofNat 16 (row * 256 + level * 32 + reason * 4)

/-- A fault of an instruction with no row and no walk. -/
def plainFault (c : Cause) (addr : Word) : FaultInfo := ⟨c, addr, 0xFFFC, 0, none⟩

/-- A translation fault at a walk level (R308). -/
def walkFault (va : Nat) (level reason : Nat) : FaultInfo :=
  ⟨.translation, BitVec.ofNat 64 va, faultInfo 0xFF level reason, 0, none⟩

/-- A local-address fault (R109). -/
def localFault (a : Word) : FaultInfo := ⟨.translation, a, faultInfo 0xFF 7 4, 0, none⟩

/-- The same fault, reported for a row (R60). -/
def FaultInfo.atRow (f : FaultInfo) (row : Nat) : FaultInfo :=
  { f with info := BitVec.ofNat 16 (row % 256 * 256) ||| (f.info &&& 0xFF) }

/-! Places in the machine (R15, R16, R18). -/

def quireOf (c : CoreId) : Nat := c.val / 8
def dieOf (c : CoreId) : Nat := c.val / 128

/-- The cores of a quire in row order. -/
def coreAt (quire row : Nat) : CoreId := Fin.ofNat 256 (8 * quire + row)

/-- The slice at which a device physical address is homed (R18). -/
def homeSlice (pa : Nat) : Nat := 32 * (pa / 2 ^ 38 % 2) + Nat.xor (pa / 2 ^ 7 % 32) (pa / 2 ^ 20 % 32)

/-- The HBM stack of a device physical address (R18). -/
def homeStack (pa : Nat) : Nat := 4 * (pa / 2 ^ 38 % 2) + Nat.xor (pa / 2 ^ 10 % 4) (pa / 2 ^ 18 % 4)

/-! The event log (R375) and vectors (R358). -/

/-- The byte at an address of a memory; one that is not listed reads as zero (log entry 3). -/
def Memory.byte : Memory → Nat → Byte
  | [], _ => 0
  | (k, b) :: m, a => if k = a then b else Memory.byte m a

/-- The mask bit of an entry of the MSI-X table (log entry 54). -/
def State.vectorMasked (s : State) (n : Nat) : Bool := (s.msix.byte (16 * n + 12)).getLsbD 0

/-- A vector is raised; one that is masked is pending too. -/
def State.raiseVector (s : State) (n : Nat) : State :=
  { s with vectors := s.vectors ++ [n], pba := if s.vectorMasked n then s.pba ||| BitVec.twoPow 128 n else s.pba }

def satInc (v : Word) : Word := if v = BitVec.allOnes 64 then v else v + 1

/-- EVENT_LOG_APPEND: the ring holds the newest 4,096 entries. -/
def State.appendLog (s : State) (e : Word × Word × Word × Word) : State :=
  let m := s.mgmt
  let full := decide (4096 ≤ m.log.length)
  let m := { m with
    log := (if full then m.log.drop 1 else m.log) ++ [e]
    logNext := m.logNext + 1
    counters := if full then { m.counters with logOverflow := satInc m.counters.logOverflow } else m.counters }
  ({ s with mgmt := m }).raiseVector 64

/-- An entry that is not a fault record: KIND 15 (R375). -/
def otherEntry (a b c : Word) : Word × Word × Word × Word := (BitVec.ofNat 64 (15 * 2 ^ 52), a, b, c)

end Sys2Proof.Machine
end

