-- ==== Sys2Proof/Machine/Num.lean ====
section
/-! DEFINITION. Number formats, rounding, conversions, approximations and exact accumulation
(spec/05_number_formats.md R81 to R99, spec/06_matrix_arithmetic.md R101 to R104). Codes are natural numbers;
values are exact rationals. -/

namespace Sys2Proof.Machine

/-- The formats of R81. -/
inductive Fmt where
  | fp64 | fp32 | bf16 | fp16 | e4m3 | e5m2 | e2m3 | e3m2 | e2m1 | e8m0 | i8 | i32
  deriving DecidableEq, Repr

/-- The format of an element of a type; MX types hold their element format (R83, R102). -/
def Ty.fmt : Ty → Fmt
  | .fp32 => .fp32 | .bf16 => .bf16 | .fp16 => .fp16 | .e4m3 | .mxe4m3 => .e4m3 | .e5m2 | .mxe5m2 => .e5m2
  | .e2m3 => .e2m3 | .e3m2 => .e3m2 | .e2m1 => .e2m1 | .i8 => .i8 | .i32 => .i32

/-- The significand bits w (R81). -/
def Fmt.sig : Fmt → Nat
  | .fp64 => 52 | .fp32 => 23 | .bf16 => 7 | .fp16 => 10 | .e4m3 => 3 | .e5m2 => 2 | .e2m3 => 3 | .e3m2 => 2
  | .e2m1 => 1 | .e8m0 | .i8 | .i32 => 0

/-- The exponent bits (R81). -/
def Fmt.exp : Fmt → Nat
  | .fp64 => 11 | .fp32 | .bf16 | .e8m0 => 8 | .fp16 | .e5m2 => 5 | .e4m3 => 4 | .e3m2 => 3 | .e2m3 | .e2m1 => 2
  | .i8 | .i32 => 0

/-- The bias b (R81). -/
def Fmt.bias : Fmt → Int
  | .fp64 => 1023 | .fp32 | .bf16 | .e8m0 => 127 | .fp16 | .e5m2 => 15 | .e4m3 => 7 | .e3m2 => 3
  | .e2m3 | .e2m1 => 1 | .i8 | .i32 => 0

/-- Bits of a code. -/
def Fmt.bits : Fmt → Nat
  | .fp64 => 64 | .fp32 | .i32 => 32 | .bf16 | .fp16 => 16 | .e4m3 | .e5m2 | .e8m0 | .i8 => 8
  | .e2m3 | .e3m2 => 6 | .e2m1 => 4

def Fmt.integer : Fmt → Bool
  | .i8 | .i32 => true
  | _ => false

/-- The format has infinities, at exponent all ones (R81). -/
def Fmt.hasInf : Fmt → Bool
  | .fp64 | .fp32 | .bf16 | .fp16 | .e5m2 => true
  | _ => false

/-- 2^n for an integer n. -/
def pow2 (n : Int) : Rat := if 0 ≤ n then ((2 ^ n.toNat : Nat) : Rat) else 1 / ((2 ^ (-n).toNat : Nat) : Rat)

/-- |v|. -/
def absQ (v : Rat) : Rat := if v < 0 then -v else v

/-- floor(log2 |v|) of a nonzero v. -/
def log2Q (v : Rat) : Int :=
  let k : Int := (v.num.natAbs.log2 : Int) - (v.den.log2 : Int)
  if pow2 k ≤ absQ v then k else k - 1

/-- What a code stands for (R82): a number with the sign of its code, an infinity, or a NaN as the FP32 pattern
with which it passes through conversions (R89). -/
inductive Val where
  | num (neg : Bool) (v : Rat)
  | inf (neg : Bool)
  | nan (n : Nat)
  deriving DecidableEq, Repr

def Fmt.signBit (f : Fmt) (c : Nat) : Bool := decide (c / 2 ^ (f.bits - 1) % 2 = 1)

def Fmt.expField (f : Fmt) (c : Nat) : Nat := c / 2 ^ f.sig % 2 ^ f.exp

def Fmt.sigField (f : Fmt) (c : Nat) : Nat := c % 2 ^ f.sig

/-- R81: the NaN codes. -/
def Fmt.isNan (f : Fmt) (c : Nat) : Bool :=
  match f with
  | .e4m3 => decide (c % 128 = 0x7F)
  | .e8m0 => decide (c = 0xFF)
  | _ => f.hasInf && decide (f.expField c = 2 ^ f.exp - 1 ∧ f.sigField c ≠ 0)

/-- R81: the infinity codes. -/
def Fmt.isInf (f : Fmt) (c : Nat) : Bool := f.hasInf && decide (f.expField c = 2 ^ f.exp - 1 ∧ f.sigField c = 0)

/-- nan_from of R89. -/
def nanFrom (f : Fmt) (c : Nat) : Nat :=
  match f with
  | .fp64 => c / 2 ^ 63 % 2 * 2 ^ 31 ||| 0x7FC0_0000 ||| c / 2 ^ 28 % 2 ^ 23
  | .fp32 => c
  | .bf16 => c * 2 ^ 16 ||| 0x0040_0000
  | .fp16 => c / 2 ^ 15 % 2 * 2 ^ 31 ||| 0x7FC0_0000 ||| c % 2 ^ 10 * 2 ^ 13
  | .e4m3 => c / 2 ^ 7 % 2 * 2 ^ 31 ||| 0x7FC0_0000
  | .e5m2 => c / 2 ^ 7 % 2 * 2 ^ 31 ||| 0x7F80_0000 ||| c % 4 * 2 ^ 21
  | _ => 0x7FC0_0000

/-- nan_to of R89. -/
def nanTo (f : Fmt) (n : Nat) : Nat :=
  let s := n / 2 ^ 31 % 2
  match f with
  | .fp64 => s * 2 ^ 63 ||| 0x7FF8_0000_0000_0000 ||| n % 2 ^ 22 * 2 ^ 29
  | .fp32 => n
  | .bf16 => n / 2 ^ 16 ||| 0x0040
  | .fp16 => s * 2 ^ 15 ||| 0x7E00 ||| n / 2 ^ 13 % 2 ^ 10
  | .e4m3 => s * 2 ^ 7 ||| 0x7F
  | .e5m2 => s * 2 ^ 7 ||| 0x7C ||| (if n / 2 ^ 21 % 4 = 0 then 2 else n / 2 ^ 21 % 4)
  | .e8m0 => 0xFF
  | _ => 0

/-- The two's complement value of an n-bit code. -/
def twos (n c : Nat) : Int := if c / 2 ^ (n - 1) % 2 = 1 then (c : Int) - 2 ^ n else c

/-- value(fmt, c) of R82. -/
def Fmt.value (f : Fmt) (c : Nat) : Val :=
  if f.integer then .num (f.signBit c) (twos f.bits c)
  else if f.isNan c then .nan (nanFrom f c)
  else if f = .e8m0 then .num false (pow2 ((c : Int) - 127))
  else if f.isInf c then .inf (f.signBit c)
  else
    let m : Nat := f.sigField c + (if f.expField c = 0 then 0 else 2 ^ f.sig)
    let e : Int := max (f.expField c : Int) 1 - f.bias - f.sig
    let v := (m : Rat) * pow2 e
    .num (f.signBit c) (if f.signBit c then -v else v)

/-- The largest exponent of a finite value. -/
def Fmt.topExp (f : Fmt) : Int :=
  (2 ^ f.exp : Nat) - 1 - f.bias - (if f.hasInf then 1 else 0)

/-- The largest finite value (R81). -/
def Fmt.largest (f : Fmt) : Rat :=
  match f with
  | .i8 => 127
  | .i32 => 2 ^ 31 - 1
  | .e4m3 => 448
  | .e8m0 => pow2 127
  | _ => ((2 ^ (f.sig + 1) - 1 : Nat) : Rat) * pow2 (f.topExp - f.sig)

/-- One of the two candidates of round_to (R85, R86). -/
def pick (rm : Round) (v q lo : Rat) : Rat :=
  let hi := lo + q
  match rm with
  | .rne => if v - lo < hi - v then lo else if hi - v < v - lo then hi else if (lo / q).floor % 2 = 0 then lo else hi
  | .rtz => if 0 < v then lo else hi
  | .rdn => lo
  | .rup => hi

/-- round_to of R86. -/
def roundTo (f : Fmt) (v : Rat) (rm : Round) : Rat :=
  let q := if f.integer then 1 else pow2 (max (log2Q v) (1 - f.bias) - f.sig)
  let lo := q * (v / q).floor
  if lo = v then v else pick rm v q lo

/-- The sign bit of a code. -/
def Fmt.signCode (f : Fmt) (neg : Bool) : Nat := if neg then 2 ^ (f.bits - 1) else 0

/-- The code of a value that the format holds; a zero takes the given sign. -/
def Fmt.codeOf (f : Fmt) (neg : Bool) (q : Rat) : Nat :=
  if f.integer then (q.floor % (2 ^ f.bits : Int)).toNat
  else
    f.signCode neg +
      (if q = 0 then 0
       else
        let e := max (log2Q q) (1 - f.bias)
        ((absQ q / pow2 (e - f.sig)).floor + (e + f.bias - 1) * 2 ^ f.sig).toNat)

/-- Whether an overflow goes to infinity (R87). -/
def toInfinity (rm : Round) (neg always : Bool) : Bool :=
  always || (match rm with
    | .rne => true
    | .rtz => false
    | .rdn => neg
    | .rup => !neg)

/-- overflow_code of R87 and R88. -/
def overflowCode (f : Fmt) (neg : Bool) (rm : Round) (sat always : Bool) : Nat :=
  if f.integer then (if neg then 2 ^ (f.bits - 1) else 2 ^ (f.bits - 1) - 1)
  else if toInfinity rm neg always && !sat then
    if f.hasInf then f.signCode neg + (2 ^ f.exp - 1) * 2 ^ f.sig
    else if f = .e4m3 then f.signCode neg + 0x7F
    else f.signCode neg + f.codeOf false f.largest
  else f.signCode neg + f.codeOf false f.largest

def clampI (v lo hi : Int) : Int := max lo (min v hi)

/-- Conversion to E8M0 (R90). -/
def toE8M0 : Val → Nat
  | .num _ v => if v = 0 then 0 else (clampI (log2Q v + 127) 0 254).toNat
  | _ => 0xFF

/-- convert of R88 from a value. -/
def encodeVal (f : Fmt) (v : Val) (rm : Round) (sat : Bool) : Nat :=
  if f = .e8m0 then toE8M0 v
  else
    match v with
    | .nan n => nanTo f n
    | .inf neg => overflowCode f neg rm sat true
    | .num neg v =>
      if v = 0 then f.codeOf (!f.integer && neg) 0
      else
        let q := roundTo f v rm
        if absQ q ≤ f.largest then f.codeOf neg q else overflowCode f neg rm sat false

/-- convert of R88. -/
def convert (s d : Fmt) (c : Nat) (rm : Round) (sat : Bool) : Nat := encodeVal d (s.value c) rm sat

/-- The canonical NaN (R89, R102). -/
def canonicalNan : Nat := 0x7FC0_0000

/-- A number with the sign of its value; a zero is +0. -/
def Val.ofRat (v : Rat) : Val := .num (decide (v < 0)) v

/-- round_fp32_rne of R93. -/
def roundFp32Rne (v : Rat) : Nat := encodeVal .fp32 (.ofRat v) .rne false

def Val.isNan : Val → Bool
  | .nan _ => true
  | _ => false

def Val.neg : Val → Bool
  | .num n _ | .inf n => n
  | .nan _ => false

/-- A value scaled by 2^k. -/
def Val.scale (v : Val) (k : Int) : Val :=
  match v with
  | .num n q => .num n (q * pow2 k)
  | v => v

/-- The value of an element of a type under its block scale (R84). -/
def elementValue (ty : Ty) (x c : Nat) : Val :=
  if Ty.scaled ty then
    if x = 0xFF then .nan canonicalNan else ((Ty.fmt ty).value c).scale ((x : Int) - 127)
  else (Ty.fmt ty).value c

/-! Block scales (R91). -/

/-- emax of R91. -/
def Ty.emax : Ty → Int
  | .mxe4m3 => 8 | .mxe5m2 => 15 | .e2m3 => 2 | .e3m2 => 4 | .e2m1 => 2 | _ => 0

def Val.mag : Val → Rat
  | .num _ v => absQ v
  | _ => 0

def Val.finite : Val → Bool
  | .num _ _ => true
  | _ => false

/-- The scale that a conversion of a block chooses. -/
def chooseScale (ty : Ty) (vs : List Val) : Nat :=
  if vs.any (fun v => !v.finite) then 0xFF
  else
    let amax := (vs.map Val.mag).foldl max 0
    if amax = 0 then 0 else (clampI (log2Q amax - Ty.emax ty + 127) 0 254).toNat

/-- An element code under a scale that the block has been given (R91). -/
def encodeScaled (ty : Ty) (x : Nat) (v : Val) (rm : Round) (sat : Bool) : Nat :=
  if x = 0xFF then 0 else encodeVal (Ty.fmt ty) (v.scale (127 - (x : Int))) rm sat

/-- Scale and element codes of a block whose scale is chosen. -/
def chooseBlock (ty : Ty) (vs : List Val) (rm : Round) : Nat × List Nat :=
  let x := chooseScale ty vs
  (x, vs.map (fun v => encodeScaled ty x v rm true))

/-! Approximations (R95 to R99). -/

def tblExp : List Nat :=
  [65536, 66971, 68438, 69936, 71468, 73032, 74632, 76266, 77936, 79642, 81386, 83169, 84990, 86851, 88752, 90696,
   92682, 94711, 96785, 98905, 101070, 103283, 105545, 107856, 110218, 112631, 115098, 117618, 120194, 122825,
   125515, 128263]

def tblRcp : List Nat :=
  [64528, 62602, 60787, 59075, 57456, 55924, 54471, 53092, 51782, 50534, 49345, 48210, 47127, 46091, 45100, 44151,
   43240, 42367, 41528, 40721, 39946, 39199, 38480, 37787, 37118, 36472, 35849, 35246, 34664, 34100, 33554, 33026]

def tblRsq : List Nat :=
  [64535, 62664, 60947, 59364, 57898, 56535, 55265, 54076, 52961, 51912, 50923, 49989, 49104, 48265, 47467, 46707,
   45633, 44310, 43096, 41977, 40940, 39977, 39078, 38238, 37449, 36708, 36008, 35347, 34722, 34128, 33564, 33027]

def tableAt (t : List Nat) (i : Int) : Rat := ((t.getD i.toNat 0 : Nat) : Rat) / 65536

/-- approx_exp2 of R96. A result that must overflow or vanish is rounded from a value as far out. -/
def approxExp2 (x : Nat) : Nat :=
  match Fmt.fp32.value x with
  | .nan _ => canonicalNan
  | .inf neg => if neg then 0 else 0x7F80_0000
  | .num _ v =>
    let n := (32 * v).floor
    let i := n % 32
    let k := clampI ((n - i) / 32) (-1000) 1000
    let f := v - (n : Rat) / 32
    let p := 1 + f * (45426 / 65536 + f * (15743 / 65536))
    roundFp32Rne (pow2 k * tableAt tblExp i * p)

/-- approx_rcp of R97. -/
def approxRcp (x : Nat) : Nat :=
  match Fmt.fp32.value x with
  | .nan _ => canonicalNan
  | .inf neg => if neg then 0x8000_0000 else 0
  | .num neg v =>
    if v = 0 then (if neg then 0xFF80_0000 else 0x7F80_0000)
    else
      let e := log2Q v
      let m := absQ v / pow2 e
      let r := tableAt tblRcp ((m - 1) * 32).floor
      let d := m * r - 1
      roundFp32Rne ((if neg then -1 else 1) * pow2 (-e) * r * (1 - d + d * d - d * d * d))

/-- approx_rsqrt of R98. -/
def approxRsqrt (x : Nat) : Nat :=
  match Fmt.fp32.value x with
  | .nan _ => canonicalNan
  | .inf neg => if neg then canonicalNan else 0
  | .num neg v =>
    if v = 0 then (if neg then 0xFF80_0000 else 0x7F80_0000)
    else if neg then canonicalNan
    else
      let e := log2Q v
      let m := v / pow2 e
      let j := ((m - 1) * 16).floor
      let even := decide (e % 2 = 0)
      let w := if even then m else 2 * m
      let h := if even then e / 2 else (e - 1) / 2
      let s := tableAt tblRsq (if even then j else 16 + j)
      let d := w * s * s - 1
      roundFp32Rne (pow2 (-h) * s * (1 - d / 2 + 3 * (d * d) / 8 - 5 * (d * d * d) / 16))

/-! Exact accumulation (R102, R104). -/

/-- The running state of tmma_fp32. -/
structure Dot where
  inval : Bool
  pinf : Bool
  ninf : Bool
  negz : Bool
  sum : Rat
  deriving DecidableEq, Repr

/-- The old code of an accumulator element. -/
def Dot.start (c : Nat) : Dot :=
  match Fmt.fp32.value c with
  | .nan _ => ⟨true, false, false, false, 0⟩
  | .inf neg => ⟨false, !neg, neg, false, 0⟩
  | .num _ v => ⟨false, false, false, decide (c = 0x8000_0000), v⟩

def Val.isZero : Val → Bool
  | .num _ v => decide (v = 0)
  | _ => false

/-- One term: element values with their scales applied. -/
def Dot.term (d : Dot) (a b : Val) : Dot :=
  match a, b with
  | .nan _, _ | _, .nan _ => { d with inval := true }
  | .num na va, .num nb vb =>
    { d with sum := d.sum + va * vb, negz := d.negz && decide (va * vb = 0) && (na != nb) }
  | a, b =>
    if a.isZero || b.isZero then { d with inval := true }
    else if a.neg == b.neg then { d with pinf := true }
    else { d with ninf := true }

def Dot.result (d : Dot) : Nat :=
  if d.inval || (d.pinf && d.ninf) then canonicalNan
  else if d.pinf then 0x7F80_0000
  else if d.ninf then 0xFF80_0000
  else if d.sum = 0 then (if d.negz then 0x8000_0000 else 0)
  else roundFp32Rne d.sum

/-- tmma_fp32 of R102 over the two rows' values. -/
def tmmaFp32 (c : Nat) (a b : List Val) : Nat := ((a.zip b).foldl (fun d p => d.term p.1 p.2) (Dot.start c)).result

/-- tmma_i32 of R104 over the two rows' bytes. -/
def tmmaI32 (c : Nat) (a b : List Nat) : Nat :=
  let sum := (a.zip b).foldl (fun s p => s + twos 8 p.1 * twos 8 p.2) (twos 32 c)
  (clampI sum (-(2 ^ 31)) (2 ^ 31 - 1) % (2 ^ 32 : Int)).toNat

end Sys2Proof.Machine
end

