-- ==== Sys2Proof/Machine/Arith.lean ====
section
/-! DEFINITION. Arithmetic on codes, shared by the scalar floating, accumulator and vector forms (R187, R189, R245,
R254 to R260). -/

namespace Sys2Proof.Machine

/-- The canonical NaN of a format (R252). -/
def canonical (f : Fmt) : Nat := nanTo f canonicalNan

/-- x × y as an exact value (R187). -/
def mulVal : Val → Val → Val
  | .num a u, .num b v => .num (a != b) (u * v)
  | x, y =>
    if x.isNan || y.isNan || x.isZero || y.isZero then .nan canonicalNan else .inf (x.neg != y.neg)

def negVal : Val → Val
  | .num a u => .num (!a) (-u)
  | .inf a => .inf (!a)
  | .nan n => .nan n

/-- The code of x + y, rounded once (R187). -/
def addCode (f : Fmt) (rm : Round) (sat : Bool) : Val → Val → Nat
  | .num a u, .num b v =>
    if u + v = 0 then f.codeOf (if u = 0 ∧ v = 0 ∧ a = b then a else rm == .rdn) 0
    else encodeVal f (.ofRat (u + v)) rm sat
  | .nan _, _ | _, .nan _ => canonical f
  | .inf a, .inf b => if a = b then encodeVal f (.inf a) rm sat else canonical f
  | .inf a, _ | _, .inf a => encodeVal f (.inf a) rm sat

/-- A rounded result in which every NaN is canonical (R187). -/
def resultCode (f : Fmt) (rm : Round) (sat : Bool) (v : Val) : Nat :=
  if v.isNan then canonical f else encodeVal f v rm sat

def divVal : Val → Val → Val
  | .num a u, .num b v =>
    if v = 0 then (if u = 0 then .nan canonicalNan else .inf (a != b)) else .num (a != b) (u / v)
  | .inf a, .num b _ => .inf (a != b)
  | .num a _, .inf b => .num (a != b) 0
  | _, _ => .nan canonicalNan

/-- floor(√n), bit by bit from bit `k - 1` on. -/
def isqrt (n : Nat) : Nat → Nat → Nat
  | r, 0 => r
  | r, k + 1 => if (r + 2 ^ k) * (r + 2 ^ k) ≤ n then isqrt n (r + 2 ^ k) k else isqrt n r k

/-- A rational that rounds as √v does in every mode: √v cut below 2^−600, and half of that more where √v is no
multiple of it. No rounding boundary of a format lies strictly between two such multiples. -/
def sqrtQ (v : Rat) : Rat :=
  let n := (v * ((4 ^ 600 : Nat) : Rat)).floor.toNat
  let r := isqrt n 0 1200
  ((2 * r + (if r * r = n then 0 else 1) : Nat) : Rat) / ((2 ^ 601 : Nat) : Rat)

def sqrtVal : Val → Val
  | .num a u => if u = 0 then .num a 0 else if u < 0 then .nan canonicalNan else .num false (sqrtQ u)
  | .inf a => if a then .nan canonicalNan else .inf false
  | .nan n => .nan n

/-- The order of values, with −0 below +0; neither is a NaN. -/
def belowVal : Val → Val → Bool
  | .inf a, .inf b => a && !b
  | .inf a, _ => a
  | _, .inf b => !b
  | .num a u, .num b v => decide (u < v) || (decide (u = v) && a && !b)
  | _, _ => false

/-- Minimum or maximum of two codes (R187, R254). -/
def extremeCode (f : Fmt) (max : Bool) (a b : Nat) : Nat :=
  let x := f.value a
  let y := f.value b
  if x.isNan && y.isNan then canonical f
  else if x.isNan then b
  else if y.isNan then a
  else if (if max then belowVal x y else belowVal y x) then b else a

/-- Sign bit cleared (R187, R254). -/
def absCode (f : Fmt) (a : Nat) : Nat := a % 2 ^ (f.bits - 1)

/-- Sign bit inverted (R187, R254). -/
def negCode (f : Fmt) (a : Nat) : Nat := absCode f a + f.signCode (!f.signBit a)

/-- Equality and order of values, −0 equal to +0, false on a NaN (R189, R256). -/
def eqVal : Val → Val → Bool
  | .num _ u, .num _ v => decide (u = v)
  | .inf a, .inf b => a == b
  | _, _ => false

def ltVal : Val → Val → Bool
  | .num _ u, .num _ v => decide (u < v)
  | .inf a, .inf b => a && !b
  | .inf a, .num _ _ => a
  | .num _ _, .inf b => !b
  | _, _ => false

def leVal (x y : Val) : Bool := ltVal x y || eqVal x y

/-! FADD and its relatives on codes of a format. -/

def codeAdd (f : Fmt) (rm : Round) (sat : Bool) (a b : Nat) : Nat := addCode f rm sat (f.value a) (f.value b)

def codeSub (f : Fmt) (rm : Round) (sat : Bool) (a b : Nat) : Nat := addCode f rm sat (f.value a) (negVal (f.value b))

def codeMul (f : Fmt) (rm : Round) (sat : Bool) (a b : Nat) : Nat := resultCode f rm sat (mulVal (f.value a) (f.value b))

def codeFma (f : Fmt) (rm : Round) (sat : Bool) (a b c : Nat) : Nat :=
  addCode f rm sat (mulVal (f.value a) (f.value b)) (f.value c)

/-- tree_sum of R260 over FP32 codes: one level, then the next. -/
def sumPairs : List Nat → List Nat
  | a :: b :: l => codeAdd .fp32 .rne false a b :: sumPairs l
  | l => l

def sumLevels : Nat → List Nat → List Nat
  | 0, l => l
  | n + 1, l => if l.length ≤ 1 then l else sumLevels n (sumPairs l)

def treeSum (l : List Nat) : Nat := (sumLevels l.length l).headD 0

/-! Signed integers (R254, R245). -/

/-- An n-bit result: clamped with saturation, otherwise truncated. -/
def intCode (n : Nat) (sat : Bool) (v : Int) : Nat :=
  ((if sat then clampI v (-(2 ^ (n - 1) : Int)) (2 ^ (n - 1) - 1) else v) % (2 ^ n : Int)).toNat

end Sys2Proof.Machine
end

