-- ==== Sys2Proof/Machine/Memory.lean ====
section
/-! DEFINITION. Memory as bytes, the physical map, and what the homes do at a write (R18, R107, R132, R140,
R142 to R144, R306, R315 to R317, R324). -/

namespace Sys2Proof.Machine

/-! Bytes. An address that is not listed reads as zero (log entry 3). -/

def Memory.read (m : Memory) (a : Nat) : Nat → List Byte
  | 0 => []
  | n + 1 => m.byte a :: Memory.read m (a + 1) n

/-- The cells of bytes that are not zero. -/
def cellsFrom (a : Nat) : List Byte → Memory
  | [] => []
  | b :: bs => if b = 0 then cellsFrom (a + 1) bs else (a, b) :: cellsFrom (a + 1) bs

def Memory.write (m : Memory) (a : Nat) (bs : List Byte) : Memory :=
  m.filter (fun c => decide (c.1 < a)) ++ cellsFrom a bs ++ m.filter (fun c => decide (a + bs.length ≤ c.1))

/-- The canonical form: addresses rising, no zero byte listed. -/
abbrev Memory.wf (m : Memory) : Prop := m.Pairwise (fun x y => x.1 < y.1) ∧ ∀ c ∈ m, c.2 ≠ 0

/-- The indices of the blocks of `size` bytes that `n` bytes from `a` touch. -/
def blocksOf (a n size : Nat) : List Nat :=
  if n = 0 then [] else (List.range ((a + n - 1) / size + 1 - a / size)).map (· + a / size)

/-- `n` bytes from `a` cut at multiples of `size`: offset and length of each part. -/
def cutAt (a n size : Nat) : List (Nat × Nat) :=
  (blocksOf a n size).map (fun b => (max a (b * size) - a, min (a + n) ((b + 1) * size) - max a (b * size)))

/-! The physical map (R306). -/

inductive MemType where
  | device | peer | reserved | host
  deriving DecidableEq, Repr

def memType (pa : Nat) : MemType :=
  if pa < 0x80_0000_0000 then .device
  else if pa < 0x100_0000_0000 then .peer
  else if pa < 0x8_0000_0000_0000 then .reserved
  else .host

/-- The single-copy atomic size (R107). The reserved range has no memory type and the manual gives it none: DESIGN CHOICE,
every size that an atomic has, so that no access there is turned away before the access tables deny it (R316; log entry 65).
-/
def MemType.atomicSize : MemType → Nat
  | .device => 32 | .peer => 16 | .host => 8 | .reserved => 16

def runtimeRegion (pa : Nat) : Bool := decide (0x7F_FA00_0000 ≤ pa ∧ pa < 0x7F_FE00_0000)

def mapBacking (pa : Nat) : Bool := decide (0x7F_FE00_0000 ≤ pa ∧ pa < 0x80_0000_0000)

/-! Frame attributes (R142, R315). -/

def FrameAttr.zero : FrameAttr := ⟨false, 0, false, false, false, false⟩

def State.frame (s : State) (f : Nat) : FrameAttr := (assocGet s.mem.frames f).getD FrameAttr.zero

def State.setFrame (s : State) (f : Nat) (a : FrameAttr) : State :=
  { s with mem := { s.mem with frames := assocSet s.mem.frames f a } }

/-- The frame of a physical address. -/
def frameOf (pa : Nat) : Nat := pa / 0x8000

/-- The attributes of the frame that holds a device address. A frame of the peer device counts as frozen once from a freeze
event of that device to its thaw sweep (R151, R161, R363). How this device learns of a thaw where the peer's FREEZE domain
leaves it out the manual does not say: DESIGN CHOICE, the frame stays frozen here until a sweep of the peer or the loss of
the link (log entry 88). Host memory has no attributes. -/
def State.attrAt (s : State) (pa : Nat) : FrameAttr :=
  match memType pa with
  | .device => s.frame (frameOf pa)
  | .peer => { FrameAttr.zero with fcount := (s.frz.foreign.contains (frameOf pa)).toNat }
  | .reserved | .host => FrameAttr.zero

/-! Access tables (R316). -/

inductive Right where
  | read | write | fetch
  deriving DecidableEq, Repr

/-- The target that serves a physical address (R316). -/
def targetOf (pa : Nat) : Option Nat :=
  match memType pa with
  | .device => some (homeSlice pa)
  | .host => some 72
  | .peer => some 73
  | .reserved => none

/-- An access table entry matches a master and a frame (R316). -/
def entryMatches (m : Master) (frame : Nat) (d0 d1 : Word) : Bool :=
  decide (bitsOf d0 63 63 = 1 ∧ bitsOf d0 62 60 = m.part.toNat
    ∧ (bitsOf d0 59 59 = 1 ∨ bitsOf d0 58 47 = m.ctx.toNat) ∧ bitsOf d0 36 0 ≤ frame ∧ frame ≤ bitsOf d1 36 0)

def entryGrants (d0 : Word) : Right → Bool
  | .read => decide (bitsOf d0 46 46 = 1)
  | .write => decide (bitsOf d0 45 45 = 1)
  | .fetch => decide (bitsOf d0 44 44 = 1)

/-- The entry of lowest index that matches decides from entry `i` on. -/
def grantedFrom (t : List ((Nat × Nat) × Word × Word)) (target : Nat) (m : Master) (frame : Nat) (r : Right) :
    Nat → Nat → Bool
  | _, 0 => false
  | i, n + 1 =>
    match assocGet t (target, i) with
    | some (d0, d1) =>
      if entryMatches m frame d0 d1 then entryGrants d0 r else grantedFrom t target m frame r (i + 1) n
    | none => grantedFrom t target m frame r (i + 1) n

/-- One target's decision on an access (R316). -/
def State.grantedAt (s : State) (target : Nat) (m : Master) (pa : Nat) (r : Right) : Bool :=
  grantedFrom s.conf.access target m (frameOf pa) r 0 64

/-- The memory controller behind the home slice of a device address (R18, R316). -/
def controllerOf (pa : Nat) : Nat := 64 + homeStack pa

def Right.code : Right → Nat
  | .read => 0 | .write => 1 | .fetch => 2

/-- What decides behind the first target: for device memory the memory controller, on an access whose line the L2 does not
hold (log entry 21); for the peer device its own targets, whose tables are its own (R366; log entry 41). -/
def State.passedBehind (s : State) (m : Master) (pa : Nat) (r : Right) : Bool :=
  match memType pa with
  | .device => s.grantedAt (controllerOf pa) m pa r || Config.inL2 s.ticks (pa / 128)
  | .peer => Config.peerGrants s.ticks m.part m.ctx (frameOf pa) r.code
  | .reserved | .host => true

/-- The decision of the targets that an access reaches (R316); no target serves the reserved range (R306). -/
def State.granted (s : State) (m : Master) (pa : Nat) (r : Right) : Bool :=
  match targetOf pa with
  | some t => s.grantedAt t m pa r && s.passedBehind m pa r
  | none => false

/-- The target of this device that denies a denied access, and the address, as its log records them; a denial by a target of
the peer device is in that device's log (R317). No target serves the reserved range and the manual names none for its entry:
DESIGN CHOICE, target 0 (log entry 65). -/
def State.refusal (s : State) (m : Master) (pa : Nat) (r : Right) : Option (Nat × Nat) :=
  match targetOf pa with
  | some t =>
    if !s.grantedAt t m pa r then some (t, pa)
    else if memType pa = .peer then none
    else some (controllerOf pa, pa)
  | none => some (0, pa)

/-- Log entry of a denied access: master, target, physical address (R317). R375 leaves the layout of doublewords 1 to 3 to
the entry: DESIGN CHOICE, PART × 2^12 + CTX, the target, the address (log entry 102). -/
def State.logDeniedAt (s : State) (m : Master) (target pa : Nat) : State :=
  s.appendLog (otherEntry (BitVec.ofNat 64 (m.part.toNat * 2 ^ 12 + m.ctx.toNat))
    (BitVec.ofNat 64 target) (BitVec.ofNat 64 pa))

def State.logRefusal (s : State) (m : Master) (x : Option (Nat × Nat)) : State :=
  match x with
  | some (t, pa) => s.logDeniedAt m t pa
  | none => s

def State.logDenied (s : State) (m : Master) (pa : Nat) (r : Right) : State := s.logRefusal m (s.refusal m pa r)

/-- The lowest line of `n` bytes from `pa` whose target denies the access. -/
def State.deniedLine (s : State) (m : Master) (pa n : Nat) (r : Right) : Option Nat :=
  (((blocksOf pa n 128).map (fun l => max pa (l * 128))).find? (fun a => !s.granted m a r))

/-- The lowest line of `n` bytes from `pa` whose data is uncorrectable (R60, R324). -/
def State.badLine (s : State) (pa n : Nat) : Option Nat :=
  ((blocksOf pa n 128).find? (fun l => s.mem.ecc.contains l)).map (fun l => max pa (l * 128))

/-! Reads and writes of physical memory. -/

/-- Bytes of physical memory at their homes: a write sent over the link is there once it is acknowledged (R120, R364). -/
def State.readPhys (s : State) (pa n : Nat) : List Byte := s.mem.cells.read pa n

/-- A core's L1I holds none of some lines any more; what it has prefetched of them stays (R144, R147). -/
def Core.dropLines (k : Core) (ls : List Nat) : Core :=
  { k with
    l1i := k.l1i.filter (fun l => !ls.contains l.line)
    prefetched := k.l1i.filter (fun l => ls.contains l.line) ++ k.prefetched }

/-- No L1I holds a line of the list any more (R144). -/
def State.dropLines (s : State) (ls : List Nat) (cs : List CoreId) : State :=
  cs.foldl (fun s c => s.mapCore c (·.dropLines ls)) s

def allCores : List CoreId := List.finRange 256

/-- The ways of a set and the sets of a slice: 4 MiB of 128-byte lines (R16). -/
def sliceWays : Nat := 16
def sliceSets : Nat := 2048

/-- The slice that holds a line: its home slice for device memory (R18), one of die 0 for host memory (R107, R357); which of
these the manual does not say (log entry 13). -/
def lineSlice (line : Nat) : Nat :=
  if memType (line * 128) = .device then homeSlice (line * 128) else homeSlice (line * 128) % 32

/-- The set that a line belongs to: its slice, and the set in it (R16; log entry 13). -/
def lineSet (line : Nat) : Nat := lineSlice line * sliceSets + Config.l2Set line % sliceSets

/-- A line becomes dirty in its set with the master of its write. A full set writes another of its lines back, which is
then dirty no more (R16, R324; log entry 13). -/
def noteLine (tick : Nat) (m : Option Master) (ms : List (Nat × Option Master)) (line : Nat) : List (Nat × Option Master) :=
  let rest := ms.filter (fun p => p.1 != line)
  let same := rest.filter (fun p => lineSet p.1 == lineSet line)
  if same.length < sliceWays then (line, m) :: rest
  else
    match same[Config.l2Victim tick line % same.length]? with
    | some v => (line, m) :: rest.filter (fun p => p.1 != v.1)
    | none => (line, m) :: rest

/-- Some lines become dirty: no set is full where they all fit into one. -/
def noteLines (tick : Nat) (m : Option Master) (ms : List (Nat × Option Master)) (lines : List Nat) :
    List (Nat × Option Master) :=
  let all := lines.map (fun l => (l, m)) ++ ms.filter (fun p => !lines.contains p.1)
  if all.length ≤ sliceWays then all else lines.foldl (noteLine tick m) ms

/-- The L2 lines of a write record its master; one that carries the runtime master or none leaves nobody to charge (R290,
R324). -/
def State.noteMaster (s : State) (pa n : Nat) (m : Option Master) : State :=
  { s with mem := { s.mem with masters := noteLines s.ticks m s.mem.masters (blocksOf pa n 128) } }

/-- What the homes of device memory do at a write: the U bits of code lines and their L1I copies (R144), the
scope tags (R132) and the coherence order (R126); a line that is written whole holds good data again (log entry 31). -/
def State.noteWrite (s : State) (pa n : Nat) (tag : Option ScopeTag) : State :=
  let lines := blocksOf pa n 128
  let code := lines.filter (fun l => (s.frame (frameOf (l * 128))).code)
  let old := (blocksOf pa n 32).map (fun b => (b, s.mem.cells.read (b * 32) 32))
  let blocks := blocksOf pa n 32
  let kept := s.mem.tags.filter (fun t => !blocks.contains t.1)
  let s := if code.isEmpty then s else s.dropLines code allCores
  { s with mem := { s.mem with
      past := old ++ s.mem.past
      unseen := s.mem.unseen.filter (fun x => !blocks.contains x.block)
      tags := match tag with
        | some t => blocks.map (fun b => (b, t)) ++ kept
        | none => kept
      ecc := s.mem.ecc.filter (fun l => !decide (pa ≤ l * 128 ∧ l * 128 + 128 ≤ pa + n))
      ubits := code ++ s.mem.ubits.filter (fun l => !code.contains l) } }

/-- A write is performed at its home; the L2 holds lines of device and of host memory (R107). -/
def State.writePhys (s : State) (pa : Nat) (bs : List Byte) (m : Option Master) (tag : Option ScopeTag) : State :=
  let s := if memType pa = .device then s.noteWrite pa bs.length tag else s
  let s := if memType pa = .device ∨ memType pa = .host then s.noteMaster pa bs.length m else s
  { s with mem := { s.mem with cells := s.mem.cells.write pa bs } }

/-- Log entry of a write that is refused because its frame is frozen (R356). -/
def State.logFrozen (s : State) (m : Master) (pa : Nat) : State :=
  s.appendLog (otherEntry (BitVec.ofNat 64 (m.part.toNat * 2 ^ 12 + m.ctx.toNat))
    (BitVec.ofNat 64 (homeSlice pa)) (BitVec.ofNat 64 pa))

/-- A vector that follows an event is raised (R353). -/
def State.notify (s : State) (v : Option Nat) : State :=
  match v with
  | some n => s.raiseVector n
  | none => s

/-- A write that its home accepts from outside the cores: it waits there for an open sweep, or is performed (R157). -/
def State.acceptWrite (s : State) (m : Master) (pa : Nat) (bs : List Byte) (tag : Option ScopeTag) (v : Option Nat) : State :=
  if (s.attrAt pa).sweep then
    { s with mem := { s.mem with waiting := s.mem.waiting ++ [⟨pa, bs, .copy .copy, some m, tag, none, v⟩] } }
  else (s.writePhys pa bs (some m) tag).notify v

/-- Store bytes with no event, as restore, hamper fill and the management processor do (R123). -/
def State.pokePhys (s : State) (pa : Nat) (bs : List Byte) : State :=
  { s with mem := { s.mem with cells := s.mem.cells.write pa bs } }

/-- A frame range of a partition's device memory (R369). -/
def State.inPartition (s : State) (part : BitVec 3) (f : Nat) : Bool :=
  s.conf.frames.any (fun r => decide (r.1 = part ∧ r.2.1 ≤ f ∧ f ≤ r.2.2))

/-- The partition whose quires include a core's (R380). -/
def State.partitionOf (s : State) (c : CoreId) : Option (Fin 8) :=
  (List.finRange 8).find? (fun p => (s.conf.quires[p]).getLsbD (quireOf c))

/-! Local stores (R108, R121). -/

/-- Somebody acts on the granules of some bytes: whoever claimed them does so no more (R60, R230). -/
def dropClaims (cs : List Claim) (off n : Nat) : List Claim :=
  cs.filter (fun x => !(blocksOf off n 16).contains x.granule)

/-- Bytes written to a local store; a streamer write sets its granules FULL (R114). A block that is written whole holds
good data again (log entry 31). -/
def Core.writeLocal (k : Core) (off : Nat) (bs : List Byte) (streamer : Bool) : Core :=
  { k with
    claims := dropClaims k.claims off bs.length
    ls := k.ls.write off bs
    bad := k.bad.filter (fun b => !decide (off ≤ b * 64 ∧ b * 64 + 64 ≤ off + bs.length))
    full := if streamer then (blocksOf off bs.length 16).foldl (fun f g => f ||| BitVec.twoPow 40960 g) k.full
            else k.full }

def Core.readLocal (k : Core) (off n : Nat) : List Byte := k.ls.read off n

/-- The lowest of `n` bytes of a local store from `off` on whose data is uncorrectable, by its offset (R60, R319). -/
def Core.badLocal (k : Core) (off n : Nat) : Option Nat :=
  ((blocksOf off n 64).find? (fun b => k.bad.contains b)).map (fun b => max off (b * 64))

/-- The granules that an access touches (R111). -/
def granules (off n : Nat) : List Nat := blocksOf off n 16

def Core.allFull (k : Core) (off n : Nat) : Bool := (granules off n).all (fun g => k.full.getLsbD g)

def Core.allEmpty (k : Core) (off n : Nat) : Bool := (granules off n).all (fun g => !k.full.getLsbD g)

def Core.setFull (k : Core) (off n : Nat) (v : Bool) : Core :=
  { k with
    claims := dropClaims k.claims off n
    full := (granules off n).foldl
      (fun f g => if v then f ||| BitVec.twoPow 40960 g else f &&& ~~~(BitVec.twoPow 40960 g)) k.full }

/-- The granules of a row's unit are claimed for the task that executes the move (R113, R236). -/
def Core.claim (k : Core) (off n : Nat) (key : GangKey) (peer : Nat) : Core :=
  { k with claims := (granules off n).map (fun g => ⟨g, key, peer⟩) ++ dropClaims k.claims off n }

/-! Gangs and peer maps (R25, R33, R335). -/

def State.gang (s : State) (k : GangKey) : Option Gang := s.sched.gangs.find? (fun g => decide (g.key = k))

def State.setGang (s : State) (g : Gang) : State :=
  { s with sched := { s.sched with gangs := s.sched.gangs.map (fun h => if h.key = g.key then g else h) } }

def State.launch (s : State) (l : Nat) : Option Launch := s.sched.launches.find? (fun x => decide (x.id = l))

def State.setLaunch (s : State) (l : Launch) : State :=
  { s with sched := { s.sched with launches := s.sched.launches.map (fun x => if x.id = l.id then l else x) } }

/-- Where the peer map sends an access (R33). -/
inductive PeerAt where
  | core (c : CoreId)
  /-- In mid-migration: accesses wait. -/
  | moving (pa : Nat)
  /-- Halted by pre-emption. -/
  | saved (pa : Nat)
  /-- The task has been killed; its core still hosts its cells. -/
  | dead (c : Option CoreId)
  /-- The gang is not placed, has retired or has been killed. -/
  | absent
  deriving DecidableEq, Repr

/-- A kill that waits on the agenda reaches a gang as a whole (R49, R337). -/
def State.killPending (s : State) (k : GangKey) : Bool :=
  s.agenda.any (fun m => match m with
    | .kill t _ _ => (match t with
      | .task _ _ => false
      | .gang g => decide (g = k)
      | .launch l => l == k.launch
      | .queue q => (s.launch k.launch).any (fun l => l.queue == q)
      | .context ctx => (s.launch k.launch).any (fun l => l.ctx == ctx))
    | _ => false)

def State.peerAt (s : State) (k : GangKey) (peer : Nat) : PeerAt :=
  match s.gang k with
  | none => .absent
  | some g =>
    match g.peers[peer]? with
    | none => .absent
    | some p =>
      if g.dead.contains peer then .dead (match p with | .core c => some c | .saved _ => none)
      else
        match p, g.moving with
        | .core c, _ => .core c
        | .saved pa, some (q, _, _) => if q = peer then .moving pa else .saved pa
        | .saved pa, none => .saved pa

/-- The cores that hold tasks of a gang. -/
def Gang.cores (g : Gang) : List CoreId :=
  g.peers.filterMap (fun p => match p with | .core c => some c | .saved _ => none)

end Sys2Proof.Machine
end

