-- ==== Sys2Proof/Machine/Translate.lean ====
section
/-! DEFINITION. Translation and protection (R287, R290, R306 to R317), and local addresses (R108, R109). -/

namespace Sys2Proof.Machine

/-- The kinds of access of R207 and R309. `early` is the check of a copy's source at its issue, which reads no byte yet
(R216, R217). The late kinds are those of a retired copy: its source reads, and its destination, whose frames were
checked before (R161). `lateWrite` is also the check of the rows of a tile store that its mask does not select, to which the
frozen check does not apply (R58, R235). -/
inductive Kind where
  | read | write | both | exec | early | lateRead | lateWrite | lateBoth
  deriving DecidableEq, Repr

/-- The access is checked as a READ; what a retired COPYR reads of its destination is not (R216, R317). -/
def Kind.reads : Kind → Bool
  | .read | .both | .early | .lateRead => true
  | _ => false

/-- The access reads data now, so that it can meet an uncorrectable error (R60). -/
def Kind.readsData : Kind → Bool
  | .read | .both | .lateRead | .lateBoth => true
  | _ => false

def Kind.writes : Kind → Bool
  | .write | .both | .lateWrite | .lateBoth => true
  | _ => false

/-- The write checks include the frozen check. -/
def Kind.checksFrozen : Kind → Bool
  | .write | .both => true
  | _ => false

def Resident.master (r : Resident) : Master := ⟨r.part, r.ctx⟩

/-! Table entries (R307, R308). -/

/-- The lowest virtual address bit that indexes a level. -/
def levelLow : Nat → Nat
  | 0 => 51 | 1 => 42 | 2 => 33 | 3 => 24 | _ => 15

def levelIndex (va lvl : Nat) : Nat := va / 2 ^ levelLow lvl % (if lvl = 0 then 64 else 512)

def entryBit (e i : Nat) : Bool := decide (e / 2 ^ i % 2 = 1)

/-- The output address of a leaf, or the table that a pointer names. -/
def entryOut (e : Nat) : Nat := e / 2 ^ 12 % 2 ^ 40 * 2 ^ 12

/-- A leaf's output may not lie in a reserved range (R306). -/
def outReserved (oa : Nat) (spanned : Bool) : Bool :=
  match memType oa with
  | .reserved => true
  | .peer => !spanned
  | _ => false

/-- A bit that must be 0 is 1, or another reserved encoding (R308). -/
def entryReserved (e lvl : Nat) (spanned : Bool) : Bool :=
  if entryBit e 1 then
    decide (e / 2 ^ 60 % 16 ≠ 0) || decide (e / 2 ^ 7 % 32 ≠ 0) || decide (entryOut e % 2 ^ levelLow lvl ≠ 0)
      || (decide (lvl = 2) && entryBit e 5) || (entryBit e 3 && !entryBit e 2) || outReserved (entryOut e) spanned
  else
    decide (e / 2 ^ 60 % 16 ≠ 0) || decide (e / 4 % 2 ^ 10 ≠ 0) || decide (memType (entryOut e) ≠ .device)

/-- The first check of R308 that an entry fails at its level, as a REASON. -/
def entryReason (e lvl : Nat) (spanned : Bool) : Option Nat :=
  if !entryBit e 0 then some 0
  else if (entryBit e 1 && decide (lvl < 2)) || (!entryBit e 1 && decide (lvl = 4)) then some 3
  else if entryReserved e lvl spanned then some 1
  else if entryBit e 1 && entryBit e 3 && entryBit e 4 then some 2
  else none

/-- What a walk answers: a translation, and the table pointers it read (R311). -/
structure Found where
  entry : TlbEntry
  walks : List WalkEntry
  deriving DecidableEq, Repr

/-- The merged translation of a contiguous group, when the group qualifies (R310). -/
def State.merge (s : State) (table va lvl : Nat) (spanned : Bool) (e : Nat) : Bool :=
  let g := levelIndex va lvl / 16 * 16
  let size := 2 ^ levelLow lvl
  let es := (List.range 16).map (fun k => leNat (s.readPhys (table + 8 * (g + k)) 8))
  let base := entryOut (es.getD 0 0)
  entryBit e 5 && decide (lvl = 3 ∨ lvl = 4)
    && es.all (fun x => entryReason x lvl spanned == none && entryBit x 1 && entryBit x 5)
    && es.all (fun x => x / 4 % 8 == e / 4 % 8 && entryBit x 6 == entryBit e 6)
    && (List.range 16).all (fun k => entryOut (es.getD k 0) == base + k * size)
    && decide (base % (16 * size) = 0)

/-- The TLB entry of a leaf reached at a level, merged where R310 allows it. -/
def State.leafEntry (s : State) (ctx : BitVec 12) (spanned : Bool) (table va lvl e : Nat) : TlbEntry :=
  let merged := s.merge table va lvl spanned e
  let bits := levelLow lvl + (if merged then 4 else 0)
  let pa := if merged then entryOut e / 2 ^ bits * 2 ^ bits else entryOut e
  { ctx := ctx, bits := bits, va := va / 2 ^ bits * 2 ^ bits, pa := pa,
    r := entryBit e 2, w := entryBit e 3, x := entryBit e 4, s := entryBit e 6 }

/-- The fault of a walk read that the home refuses. R317 lists three causes and assigns none: DESIGN CHOICE, that of the kind
of the access that walks (log entry 108). -/
def walkDenied (k : Kind) (va : Nat) (x : Option (Nat × Nat)) : FaultInfo :=
  let c := match k with | .exec => Cause.permExec | .write | .lateWrite | .lateBoth => Cause.permWrite | _ => Cause.permRead
  { plainFault c (BitVec.ofNat 64 va) with denied := x }

/-- The walk of R309 from a level on; `n` levels remain. An entry is read as it stands in memory: R314 lets a walk that
nothing orders find an older value, which the model shows for cached entries alone (log entry 8). A CR.PTROOT that CLOAD
took from an area may name a table outside device memory, where R307 has none and names no outcome: DESIGN CHOICE, the entry
is read there where the access tables grant it (log entry 109). -/
def State.walk (s : State) (m : Master) (spanned : Bool) (k : Kind) (va : Nat) :
    Nat → Nat → Nat → Except FaultInfo Found
  | 0, _, lvl => .error (walkFault va lvl 3)
  | n + 1, table, lvl =>
    let pa := table + 8 * levelIndex va lvl
    if !s.granted m pa .read then .error (walkDenied k va (s.refusal m pa .read))
    else if (s.badLine pa 8).isSome then .error (plainFault .dataUncorrectable (BitVec.ofNat 64 va))
    else
      let e := leNat (s.readPhys pa 8)
      match entryReason e lvl spanned with
      | some r => .error (walkFault va lvl r)
      | none =>
        if entryBit e 1 then .ok ⟨s.leafEntry m.ctx spanned table va lvl e, []⟩
        else
          match s.walk m spanned k va n (entryOut e) (lvl + 1) with
          | .error f => .error f
          | .ok r => .ok { r with
              walks := { ctx := m.ctx, level := lvl, tag := va / 2 ^ levelLow lvl, next := entryOut e } :: r.walks }

/-- A TLB entry that covers an address (R311). -/
def tlbHit (t : List TlbEntry) (ctx : BitVec 12) (va : Nat) : Option TlbEntry :=
  t.find? (fun e => decide (e.ctx = ctx) && decide (va / 2 ^ e.bits * 2 ^ e.bits = e.va))

/-- The walk-cache entry of a level that covers an address. -/
def walkHit (ws : List WalkEntry) (ctx : BitVec 12) (va lvl : Nat) : Option WalkEntry :=
  ws.find? (fun e => decide (e.ctx = ctx) && decide (e.level = lvl) && decide (e.tag = va / 2 ^ levelLow lvl))

/-- Table and level at which a walk starts: below the deepest level whose walk cache hits (R311). -/
def walkStart (ws : List WalkEntry) (r : Resident) (va : Nat) : Nat × Nat :=
  match walkHit ws r.ctx va 3, walkHit ws r.ctx va 2, walkHit ws r.ctx va 1, walkHit ws r.ctx va 0 with
  | some e, _, _, _ => (e.next, 4)
  | none, some e, _, _ => (e.next, 3)
  | none, none, some e, _ => (e.next, 2)
  | none, none, none, some e => (e.next, 1)
  | none, none, none, none => (r.ptroot.toNat, 0)

/-- The permission checks of R309, in their order. -/
def TlbEntry.check (e : TlbEntry) (mode : Mode) (k : Kind) (va : Nat) : Except FaultInfo Nat :=
  let barred := e.s && decide (mode = .user)
  if k.reads && (!e.r || barred) then .error (plainFault .permRead (BitVec.ofNat 64 va))
  else if k.writes && (!e.w || barred) then .error (plainFault .permWrite (BitVec.ofNat 64 va))
  else if decide (k = .exec) && (!e.x || barred) then .error (plainFault .permExec (BitVec.ofNat 64 va))
  else .ok (e.pa + va % 2 ^ e.bits)

/-- A walk from a table on, with the permission checks. -/
def State.walkCheck (s : State) (r : Resident) (mode : Mode) (kind : Kind) (va : Nat) (start : Nat × Nat) :
    Except FaultInfo (Nat × Found) :=
  match s.walk r.master r.spanned kind va (5 - start.2) start.1 start.2 with
  | .error f => .error f
  | .ok found =>
    match found.entry.check mode kind va with
    | .error f => .error f
    | .ok pa => .ok (pa, found)

/-- The answer that a core's TLBs and walk caches give as they stand. -/
def State.cachedAnswer (s : State) (k : Core) (r : Resident) (mode : Mode) (kind : Kind) (va : Nat) :
    Except FaultInfo (Nat × Found) :=
  match tlbHit (if kind = .exec then k.itlb else k.tlb) r.ctx va with
  | some e =>
    match e.check mode kind va with
    | .error f => .error f
    | .ok pa => .ok (pa, ⟨e, []⟩)
  | none => s.walkCheck r mode kind va (walkStart k.walks r va)

def sameAnswer (x y : Except FaultInfo (Nat × Found)) : Bool :=
  match x, y with
  | .ok a, .ok b => decide (a.1 = b.1)
  | .error f, .error g => decide (f = g)
  | _, _ => false

/-- translate of R309 on a core: the physical address, and what the TLBs and walk caches learn. Where what the core
holds and the tables in memory answer differently, either may be what it finds (R311), for each access and each row of its
own (R312). -/
def State.translate (s : State) (k : Core) (r : Resident) (mode : Mode) (kind : Kind) (va : Nat) :
    Except FaultInfo (Nat × Found) :=
  if va / 2 ^ 57 ≠ 0 then .error (walkFault va 0 0)
  else
    let held := s.cachedAnswer k r mode kind va
    let fresh := s.walkCheck r mode kind va (r.ptroot.toNat, 0)
    if sameAnswer held fresh then held
    else if Config.cacheHolds s.ticks va then held else fresh

/-- A core's caches after a translation. -/
def Core.learn (k : Core) (exec : Bool) (f : Found) : Core :=
  { k with
    tlb := if exec || k.tlb.contains f.entry then k.tlb else f.entry :: k.tlb
    itlb := if exec && !k.itlb.contains f.entry then f.entry :: k.itlb else k.itlb
    walks := f.walks.filter (fun w => !k.walks.contains w) ++ k.walks }

/-! Accesses by virtual address (R207). -/

/-- A part of an access inside one page: where it starts in the access, its physical address, its length. -/
structure Piece where
  at_ : Nat
  pa : Nat
  len : Nat
  deriving DecidableEq, Repr

/-- What an access that passed its checks touches. -/
structure Access where
  pieces : List Piece
  found : List Found
  deriving DecidableEq, Repr

/-- The parts of `n` bytes from `va` by page, lowest first: offset, address, length. -/
def pageParts (va : Nat) : Nat → Nat → List (Nat × Nat × Nat)
  | _, 0 => []
  | n, fuel + 1 =>
    if n = 0 then []
    else
      let len := min n (0x8000 - va % 0x8000)
      (0, va % 2 ^ 64, len) :: (pageParts ((va + len) % 2 ^ 64) (n - len) fuel).map (fun p => (p.1 + len, p.2))

/-- Translation and permission of every page touched, lowest address first. -/
def State.translateParts (s : State) (k : Core) (r : Resident) (mode : Mode) (kind : Kind) :
    List (Nat × Nat × Nat) → Except FaultInfo Access
  | [] => .ok ⟨[], []⟩
  | (at_, va, len) :: ps =>
    match s.translate k r mode kind va with
    | .error f => .error f
    | .ok (pa, fo) =>
      match s.translateParts k r mode kind ps with
      | .error f => .error f
      | .ok a => .ok ⟨⟨at_, pa, len⟩ :: a.pieces, fo :: a.found⟩

/-- A supervisor access with CR.SSTATUS.PHYS = 1 uses physical addresses (R287). -/
def Strand.physical (t : Strand) : Bool := decide (t.mode = .supervisor) && entryBit t.sstatus.toNat 10

/-- The runtime master stands for an access inside the runtime region (R290, R306). -/
def runtimeAccess (t : Strand) (pa : Nat) : Bool := t.physical && runtimeRegion pa

/-- The lowest part of an access for which a check answers an address. -/
def Access.firstBad (a : Access) (f : Piece → Option Nat) : Option (Nat × Nat) :=
  a.pieces.findSome? (fun p => (f p).map (fun pa => (p.at_ + (pa - p.pa), pa)))

/-- The peer device cannot be reached for a context: the link is not UP, or the peer holds no part of it (R120). -/
def State.unreachable (s : State) (ctx : BitVec 12) : Bool :=
  decide (s.link.state ≠ .up) || !Config.peerHolds s.ticks ctx

/-- The checks of R207 that come after translation: frozen frames for writes (R161), then the peer device for reads
(R120). `va` is the address operand. -/
def State.checkHome (s : State) (r : Resident) (kind : Kind) (va : Nat) (a : Access) : Except FaultInfo Access :=
  let at_ (p : Nat × Nat) : Word := BitVec.ofNat 64 (va + p.1)
  let frozenAt := a.firstBad (fun p => if decide (0 < (s.attrAt p.pa).fcount) then some p.pa else none)
  let lostAt := a.firstBad (fun p => if memType p.pa = .peer ∧ s.unreachable r.ctx = true then some p.pa else none)
  match kind.checksFrozen, frozenAt with
  | true, some p => .error (plainFault .writeFrozen (at_ p))
  | _, _ =>
    match kind.reads, lostAt with
    | true, some p => .error (plainFault .peerAbsent (at_ p))
    | _, _ => .ok a

/-- What the data of an access meets once its bytes are touched, after its checks and its waits (R207): the access tables
(R317; for an atomic the read comes first), then uncorrectable data (R60). Where a table denies a line and a lower line of
the same access is uncorrectable the manual ranks neither: DESIGN CHOICE, the denial is reported (log entry 110). -/
def State.accessFault (s : State) (t : Strand) (r : Resident) (kind : Kind) (va : Word) (a : Access) : Option FaultInfo :=
  let at_ (p : Nat × Nat) : Word := va + BitVec.ofNat 64 p.1
  let denied (right : Right) := a.firstBad (fun p =>
    if runtimeAccess t p.pa then none else s.deniedLine r.master p.pa p.len right)
  let refused (c : Cause) (right : Right) (p : Nat × Nat) : FaultInfo :=
    { plainFault c (at_ p) with denied := s.refusal r.master p.2 right }
  match kind.reads, denied .read with
  | true, some p => some (refused .permRead .read p)
  | _, _ =>
    match decide (kind = .both), denied .write with
    | true, some p => some (refused .permWrite .write p)
    | _, _ =>
      match kind.readsData, a.firstBad (fun p => s.badLine p.pa p.len) with
      | true, some p => some (plainFault .dataUncorrectable (at_ p))
      | _, _ => none

/-- check_access of R207 for `n` bytes at a virtual address (or a physical one, R287). A physical address has 52 bits and the
manual does not say what bits 63:52 of an address do with PHYS = 1: DESIGN CHOICE, they are dropped (log entry 92). -/
def State.checkAccess (s : State) (k : Core) (t : Strand) (r : Resident) (kind : Kind) (va : Word) (n : Nat) :
    Except FaultInfo Access :=
  let parts := pageParts va.toNat n (n / 0x8000 + 2)
  if t.physical then
    s.checkHome r kind va.toNat ⟨parts.map (fun p => ⟨p.1, p.2.1 % 2 ^ 52, p.2.2⟩), []⟩
  else
    match s.translateParts k r t.mode kind parts with
    | .error f => .error f
    | .ok a => s.checkHome r kind va.toNat a

/-- The bytes that an access reads. -/
def State.readAccess (s : State) (a : Access) : List Byte :=
  a.pieces.flatMap (fun p => s.readPhys p.pa p.len)

/-- A frame that an access writes has an open thaw sweep (R157). -/
def State.sweepOpen (s : State) (a : Access) : Bool := a.pieces.any (fun p => (s.attrAt p.pa).sweep)

/-! Local addresses (R108, R109). -/

structure LocalAddr where
  key : GangKey
  peer : Nat
  off : Nat
  deriving DecidableEq, Repr

/-- The rows of R109 that look at the address alone; `whole` is false where OFFSET is ignored (R199). The fault of
an access that leaves the store names its first byte outside (R319). -/
def resolveLocal (r : Resident) (gangs : Nat) (a : Word) (n : Nat) (whole : Bool) : Except FaultInfo LocalAddr :=
  let win := bitsOf a 63 62
  let off := bitsOf a 19 0
  let peer := bitsOf a 37 30
  if win = 3 ∨ bitsOf a 29 20 ≠ 0 then .error (localFault a)
  else if whole ∧ 0xA_0000 < off + n then .error (localFault (a + BitVec.ofNat 64 (0xA_0000 - off)))
  else if win = 0 then .ok ⟨r.key, r.peer, off⟩
  else if r.peers ≤ peer then .error (plainFault .peerAbsent a)
  else if win = 1 ∨ bitsOf a 61 38 = r.key.gang then .ok ⟨r.key, peer, off⟩
  else if gangs ≤ bitsOf a 61 38 then .error (plainFault .peerAbsent a)
  else .ok ⟨⟨r.key.launch, bitsOf a 61 38⟩, peer, off⟩

/-- G of a launch. -/
def State.gangCount (s : State) (r : Resident) : Nat := ((s.launch r.key.launch).map (·.gangs)).getD 0

/-- A task has ended: on its core, or by the flags of its save area (R332). A core that still waits for its task to start has
none that has ended (R29). -/
def State.taskEnded (s : State) : Place → Bool
  | .core c => (s.core c).task.any (·.ended)
  | .saved pa => entryBit (leNat (s.mem.cells.read (pa + 0x38) 8)) 1

/-- Every task of a gang has ended or been killed: the gang has retired, and its mailboxes accept nothing more (R29). -/
def State.allEnded (s : State) (g : Gang) : Bool :=
  (List.range g.peers.length).all (fun p => g.dead.contains p || (g.peers[p]?.map s.taskEnded).getD true)

/-- The gang that a key names has retired. -/
def State.retired (s : State) (k : GangKey) : Bool := (s.gang k).any s.allEnded

/-- What a local access finds at its target (R33). -/
inductive LocalAt where
  | store (c : CoreId) (l : LocalAddr)
  /-- In mid-migration: the access waits. -/
  | wait
  deriving DecidableEq, Repr

/-- R109 and R33 for an access of `n` bytes. The own store needs no peer map; a gang that has retired serves its own errands
alone; a task that was saved in mid-migration before its gang halts is still waited for (R31, R339). A gang that is placed
and not started is served from the stores of its cores: the manual does not set it apart, DESIGN CHOICE (log entry 48). A
store to the local store of an absent peer raises PEER_ABSENT here, as R33 and R109 say, and R211's words that a store
raises it at no point are read as of what follows its retirement: DEDUCED (log entry 100). -/
def State.findLocal (s : State) (w : CoreId) (r : Resident) (a : Word) (n : Nat) : Except FaultInfo LocalAt :=
  match resolveLocal r (s.gangCount r) a n true with
  | .error f => .error f
  | .ok l =>
    if l.key = r.key ∧ l.peer = r.peer then .ok (.store w l)
    else if l.key ≠ r.key ∧ s.retired l.key = true then .error (plainFault .peerAbsent a)
    else
      match s.peerAt l.key l.peer with
      | .core c => .ok (.store c l)
      | .moving _ => .ok .wait
      | .saved _ =>
        if l.key = r.key ∨ (s.gang l.key).any (fun g => g.state == .halting) = true then .ok .wait
        else .error (plainFault .peerAbsent a)
      | .dead _ | .absent => .error (plainFault .peerAbsent a)

/-! Addresses of the scheduler and the device runtime in a context, outside any core (R341). -/

/-- Translate with nothing cached, as an access with the context's master. The manual gives the scheduler no mode: DESIGN
CHOICE, a leaf with S = 1 refuses it like a user access (R309, R341; log entry 111). -/
def State.ctxTranslate (s : State) (b : Binding) (kind : Kind) (va : Nat) : Except FaultInfo Nat :=
  if va / 2 ^ 57 ≠ 0 then .error (walkFault va 0 0)
  else
    match s.walk ⟨b.part, b.ctx⟩ b.spanned kind va 5 b.root.toNat 0 with
    | .error f => .error f
    | .ok found => found.entry.check .user kind va

/-- Bytes of a context's memory by page parts. -/
def State.ctxPieces (s : State) (b : Binding) (kind : Kind) : List (Nat × Nat × Nat) → Except FaultInfo (List Piece)
  | [] => .ok []
  | (at_, va, len) :: ps =>
    match s.ctxTranslate b kind va with
    | .error f => .error f
    | .ok pa =>
      match s.deniedLine ⟨b.part, b.ctx⟩ pa len (if kind = .write then .write else .read) with
      | some x =>
        let right : Right := if kind = .write then .write else .read
        .error { plainFault (if kind = .write then .permWrite else .permRead) (BitVec.ofNat 64 va) with
                            denied := s.refusal ⟨b.part, b.ctx⟩ x right }
      | none =>
        match s.ctxPieces b kind ps with
        | .error f => .error f
        | .ok r => .ok (⟨at_, pa, len⟩ :: r)

/-- The values that a 32-byte block has had (R126, R140): the present one and every earlier one. -/
def State.blockValues (s : State) (b : Nat) : List (List Byte) :=
  s.mem.cells.read (b * 32) 32 :: (s.mem.past.filter (fun p => p.1 == b)).map (·.2)

/-- A queue's tail lies in a block, so that the scheduler has read the block's newest value (R126). -/
def State.tailBlock (s : State) (b : Nat) : Bool := s.sched.queues.toList.any (fun q => q.tailAddr.toNat * 8 / 32 == b)

/-- The values of a block that the scheduler may find: the present one, and those that stores which nothing orders have just
replaced (R131, R341). -/
def State.agentValues (s : State) (b : Nat) : List (List Byte) :=
  s.mem.cells.read (b * 32) 32
    :: (if s.tailBlock b then [] else (s.mem.unseen.filter (fun x => x.block == b)).map (·.old))

/-- What the scheduler reads of `n` bytes inside one 32-byte block: which of the values it may find is a free choice (log
entry 25). -/
def State.agentBlock (s : State) (pa n : Nat) : List Byte :=
  let vs := s.agentValues (pa / 32)
  ((vs.getD (Config.oldRecord s.ticks (pa / 32) % vs.length) []).drop (pa % 32)).take n

/-- Physical bytes as the scheduler reads them: as they stand, but where a store that nothing orders may be unseen. -/
def State.agentRead (s : State) (pa n : Nat) : List Byte :=
  if s.mem.unseen.isEmpty then s.readPhys pa n
  else (cutAt pa n 32).flatMap (fun p => s.agentBlock (pa + p.1) p.2)

/-- The scheduler cannot reach some bytes of peer-device memory (R120, R365). -/
def State.agentLost (s : State) (b : Binding) (p : Piece) : Bool := memType p.pa == .peer && s.unreachable b.ctx

/-- The scheduler's read of a context's memory (R341). -/
def State.ctxRead (s : State) (b : Binding) (va : Word) (n : Nat) : Except FaultInfo (List Byte) :=
  match s.ctxPieces b .read (pageParts va.toNat n (n / 0x8000 + 2)) with
  | .error f => .error f
  | .ok ps =>
    match ps.find? (s.agentLost b), ps.findSome? (fun p => s.badLine p.pa p.len) with
    | some p, _ => .error (plainFault .peerAbsent (va + BitVec.ofNat 64 p.at_))
    | none, some _ => .error (plainFault .dataUncorrectable va)
    | none, none => .ok (ps.flatMap (fun p => s.agentRead p.pa p.len))

/-- A write of this device over the link to some physical bytes is under way: the scheduler's read of them comes after it
(R120, R128; log entry 41). -/
def State.writeSent (s : State) (pa n : Nat) : Bool :=
  s.link.unacked.any (fun u => decide (u.pa < pa + n ∧ pa < u.pa + u.bytes.length))

/-- No freeze event of R365 is still to be acknowledged: until then accesses over the link wait. -/
def State.linkCarries (s : State) : Bool := s.frz.ops.all (fun o => !s.link.refreeze.contains o.id)

/-- The scheduler's read of a context's memory has to wait for such a write, or for a link that carries no transactions yet
(R365). -/
def State.ctxWaits (s : State) (b : Binding) (va : Word) (n : Nat) : Bool :=
  match s.ctxPieces b .read (pageParts va.toNat n (n / 0x8000 + 2)) with
  | .ok ps => ps.any (fun p => s.writeSent p.pa p.len || (memType p.pa == .peer && !s.linkCarries))
  | .error _ => false

/-- The log entry of an access that a table denied, or nothing (R317). -/
def State.logFault (s : State) (m : Master) (f : FaultInfo) : State := s.logRefusal m f.denied

def State.binding (s : State) (ctx : BitVec 12) : Option Binding :=
  s.conf.contexts.find? (fun b => decide (b.ctx = ctx))

end Sys2Proof.Machine
end

