-- ==== Sys2Proof/Machine/Unit.lean ====
section
/-! DEFINITION. Draining of retired writes, errand outcomes, kills, completion records and containment (R28,
R29, R33 to R40, R44, R47 to R49, R58, R59, R140, R217, R317, R321 to R326, R335, R337, R353, R358). -/

namespace Sys2Proof.Machine

/-! The link as a sender (R360 to R365). -/

/-- The link carries transactions (R359, R365). -/
def State.linkReady (s : State) : Bool := decide (s.link.state = .up) && s.linkCarries

/-- KIND of a flit (R360). -/
def FlitKind.code : FlitKind → Nat
  | .data => 1 | .void => 2

/-- Units of 64 bytes of credit that the next header returns (R360). -/
def Link.creditOut (l : Link) : Nat := min 4095 (l.owed / 64)

/-- The header of a flit that is sent now (R360). -/
def Link.header (l : Link) (seq : BitVec 12) (kind : Nat) : BitVec 96 :=
  BitVec.ofNat 96 (seq.toNat * 2 ^ 84 + l.expect.toNat * 2 ^ 72 + kind * 2 ^ 68 + l.creditOut * 2 ^ 56)

def Link.emit (l : Link) (seq : BitVec 12) (kind : Nat) : Link :=
  { l with wire := l.wire ++ [l.header seq kind], owed := l.owed - 64 * l.creditOut }

/-- The payload of a flit: 228 bytes of transactions (R359). -/
def flitPayload (bs : List Byte) : List Byte := bs.take 228 ++ List.replicate (228 - bs.length) 0

/-- The payloads of new flits in which the transactions of a lost slot come again, whole (R362; log entry 12). -/
def Link.again (l : Link) (payload : List Byte) : List (List Byte) :=
  (Config.reissuedPayloads l.nextTag payload).map flitPayload

/-- A payload goes into the next slot, which is read for sending: one whose ECC is uncorrectable is sent as VOID, and
its transactions go into new flits (R361, R362). -/
def Link.push (l : Link) (tick : Nat) (payload : List Byte) : Link :=
  let bad := Config.replayBad tick l.nextSeq.toNat
  let kind : FlitKind := if bad then .void else .data
  { l.emit l.nextSeq kind.code with
    nextSeq := l.nextSeq + 1
    replay := l.replay ++ [⟨l.nextSeq, kind, if bad then [] else payload⟩]
    unsent := l.unsent ++ (if bad then l.again payload else []) }

/-- What waits for a slot goes into flits as far as the replay buffer has room: 512 entries (R361). -/
def Link.flush (l : Link) (tick : Nat) : Link :=
  let n := 512 - l.replay.length
  (l.unsent.take n).foldl (fun l p => l.push tick p) { l with unsent := l.unsent.drop n }

/-- A transaction is sent: transactions are packed end to end across flits (R359), and those that it completes go out as far
as the replay buffer has room (R361; log entry 12). -/
def Link.send (l : Link) (tick : Nat) : Link :=
  { l with unsent := l.unsent ++ (Config.flitPayloads l.nextTag).map flitPayload, nextTag := l.nextTag + 1 }.flush tick

/-- The core of the strand that sent a write. -/
def Sent.core (u : Sent) : Option CoreId := u.who.map (·.core)

/-- A write is sent to the peer device (R363). -/
def State.sendWrite (s : State) (who : Option Who) (write : Nat) (va : Word) (pa : Nat) (bs : List Byte) (v : Option Nat) :
    State :=
  { s with link := { s.link.send s.ticks with
      unacked := s.link.unacked ++ [⟨s.link.nextTag, who, write, va, pa, bs, v⟩] } }

/-- Transactions are sent, one for each of `n` lines. -/
def State.sendLines (s : State) (n : Nat) : State :=
  if n = 0 then s else { s with link := (List.range n).foldl (fun l _ => l.send s.ticks) s.link }

/-- An answer to a transaction of the peer device (R363, R364); a link that is not UP takes none (R365). -/
def State.answer (s : State) (a : LinkAnswer) : State :=
  { s with link := if s.link.state = .up then { s.link.send s.ticks with answers := s.link.answers ++ [a] } else s.link }

/-! Retired writes (R56 to R59, R317). -/

def rangesMeet (a b : Space × Nat × Nat) : Bool := a.1 == b.1 && decide (a.2.1 < b.2.2 ∧ b.2.1 < a.2.2)

def PendingWrite.range (w : PendingWrite) : Space × Nat × Nat := (w.space, w.lo, w.hi)

/-- The physical bytes of a segment, as a range. -/
def Seg.range (g : Seg) : Option (Space × Nat × Nat) :=
  match g.dst with
  | .phys pa => some (.phys, pa, pa + g.bytes.length)
  | .store _ _ _ => none

/-- The range of R55 of a write, and the physical bytes that it has still to write: two writes of an agent to one byte
are performed in program order under whatever addresses they name it (R59, R126). -/
def PendingWrite.ranges (w : PendingWrite) : List (Space × Nat × Nat) := w.range :: w.segs.filterMap Seg.range

/-- Two lists of ranges have a byte in common. -/
def anyMeet (a b : List (Space × Nat × Nat)) : Bool := a.any (fun r => b.any (rangesMeet r))

/-- A write and some ranges have a byte in common. -/
def PendingWrite.meets (w : PendingWrite) (rs : List (Space × Nat × Nat)) : Bool := anyMeet w.ranges rs

/-- A fault met after its instruction has retired: KIND 1 (R322), with the address that it reports (R319). -/
def Core.defer (k : Core) (c : Cause) (addr : Word) : Core :=
  { k with deferred := k.deferred ++ [{ plainFault c addr with kind := 1 }] }

/-- The value that DISCARD leaves: which of them is not said, so a free choice. -/
def State.discarded (s : State) (b : Nat) : List Byte :=
  (s.blockValues b).getD (Config.discardChoice s.ticks b % (s.blockValues b).length) []

/-- The tag that a write of a core leaves (R132). -/
def coreTag (rel : Option Scope) (c : CoreId) : Option ScopeTag := rel.map (fun sc => ⟨sc, some c, false⟩)

/-- The address that a retired write names. -/
def PendingWrite.va (w : PendingWrite) : Word := BitVec.ofNat 64 w.lo

/-- A release at such a scope waits for the acknowledgements of earlier writes over the link (R364). -/
def wideScope (sc : Scope) : Bool := sc == .span || sc == .system

/-- The scope of a release that the scheduler matches (R124, R132, R341). -/
def deviceScope (sc : Scope) : Bool := sc == .device || wideScope sc

/-- A part of a write puts what its strand has written before it before what the scheduler reads: a release at DEVICE scope
or wider, or in host or peer-device memory (R130), and a write behind a fence (R128, R129). -/
def State.ordersOlder (s : State) (c : CoreId) (w : PendingWrite) (pa : Nat) : Bool :=
  w.rel.any (fun sc => deviceScope sc || memType pa != .device)
    || s.mem.unseen.any (fun x => x.who == ⟨c, w.errand⟩ && decide (x.seq < w.fence))

/-- The blocks that a part of a store replaces, as they are before it. -/
def State.unseenBy (s : State) (c : CoreId) (w : PendingWrite) (pa n : Nat) : List Unseen :=
  (blocksOf pa n 32).map (fun b => ⟨pa, pa + n, b, s.mem.cells.read (b * 32) 32, ⟨c, w.errand⟩, w.seq⟩)

/-- What the scheduler may still not see once a part of a store is performed. A part that orders what is older, or writes
bytes that are unseen themselves (R59), leaves only itself. -/
def State.unseenAfter (s : State) (c : CoreId) (w : PendingWrite) (pa n : Nat) : List Unseen :=
  let own := if memType pa = .device then s.unseenBy c w pa n else []
  if s.ordersOlder c w pa then (if w.rel.any deviceScope then [] else own)
  else if s.mem.unseen.any (fun x => decide (x.lo < pa + n ∧ pa < x.hi)) then own
  else own ++ s.mem.unseen

def State.setUnseen (s : State) (l : List Unseen) : State := { s with mem := { s.mem with unseen := l } }

/-- One part of a write, inside a 128-byte line, is performed at its home; a denied part is dropped and
reported at the task's next instruction boundary (R317); the runtime master stands for the task's in the runtime region
(R290). A part for the peer device is sent; where that cannot be reached it is
dropped, which `State.performWrite` reports once (R365). A store of part of a line whose data is uncorrectable is
reported at the boundary as well (R322). -/
def State.drainPart (s : State) (c : CoreId) (w : PendingWrite) (pa : Nat) (bs : List Byte) : State :=
  let runtime := w.space == .phys && runtimeRegion pa
  if !runtime && !s.granted w.master pa .write then
    (s.logDenied w.master pa .write).mapCore c (·.defer .permWrite 0)
  else
    match memType pa with
    | .peer =>
      if !s.unreachable w.master.ctx then s.sendWrite (some ⟨c, w.errand⟩) w.seq w.va pa bs none else s
    | _ =>
      let bs := if w.discard then
          (cutAt pa bs.length 32).flatMap (fun p => ((s.discarded ((pa + p.1) / 32)).drop ((pa + p.1) % 32)).take p.2)
        else bs
      let s := if !w.discard && decide (bs.length < 128) && (s.badLine pa bs.length).isSome then
          s.mapCore c (·.defer .dataUncorrectable 0)
        else s
      (s.writePhys pa bs (if runtime then none else some w.master) (coreTag w.rel c)).setUnseen (s.unseenAfter c w pa bs.length)

/-- The local store and its full/empty bits in a save area (R331). -/
def storeImage (pa : Nat) : Nat := pa + 0x7_0000

def fullImage (pa : Nat) : Nat := pa + 0x5000

/-- Something about a saved task that its area has no place for changes. -/
def State.mapKept (s : State) (key : GangKey) (peer : Nat) (f : Kept → Kept) : State :=
  match s.gang key with
  | some g => s.setGang { g with kept := g.kept.map (fun x => if x.peer = peer then f x else x) }
  | none => s

/-- The claims on a saved task's local store. -/
def State.keptClaims (s : State) (key : GangKey) (peer : Nat) : List Claim :=
  (((s.gang key).bind (fun g => g.kept.find? (fun x => x.peer == peer))).map (·.claims)).getD []

/-- Somebody acts on some bytes of a saved task's local store. -/
def State.dropKept (s : State) (key : GangKey) (peer off n : Nat) : State :=
  s.mapKept key peer (fun x => { x with claims := dropClaims x.claims off n })

/-- One segment of a write. A task that is saved takes it in its save area, so that it completes against the restored
local store (R33, R339), which asks no access table (log entry 103); a store that is no longer there takes nothing (log entry
34). A store of part of a block whose data
is uncorrectable is reported at the boundary (R322). -/
def State.drainSeg (s : State) (c : CoreId) (w : PendingWrite) (g : Seg) : State :=
  match g.dst with
  | .phys pa =>
    (cutAt pa g.bytes.length 128).foldl (fun s p => s.drainPart c w (pa + p.1) ((g.bytes.drop p.1).take p.2)) s
  | .store k p off =>
    match s.peerAt k p with
    | .core d =>
      let partly := (cutAt off g.bytes.length 64).any (fun q =>
        decide (q.2 < 64) && (s.core d).bad.contains ((off + q.1) / 64))
      let s := if partly then s.mapCore c (·.defer .dataUncorrectable 0) else s
      s.mapCore d (·.writeLocal off g.bytes false)
    | .saved pa => (s.pokePhys (storeImage pa + off) g.bytes).dropKept k p off g.bytes.length
    | _ => s

/-- The segment lies in host or peer-device memory, where a release has SPAN or SYSTEM scope (R130). -/
def Seg.far (g : Seg) : Bool :=
  match g.dst with
  | .phys pa => decide (memType pa ≠ .device)
  | .store _ _ _ => false

/-- The segment lies in peer-device memory. -/
def Seg.overLink (g : Seg) : Bool :=
  match g.dst with
  | .phys pa => decide (memType pa = .peer)
  | .store _ _ _ => false

/-- Segments cannot be performed yet: an open sweep (R157), a peer in mid-migration (R33), a link that does not carry
transactions yet (R365). -/
def State.segsBlocked (s : State) (gs : List Seg) : Bool :=
  gs.any (fun g => match g.dst with
    | .phys pa => (blocksOf pa g.bytes.length 0x8000).any (fun f => decide (f < 2 ^ 24) && (s.frame f).sweep)
    | .store q p _ => (match s.peerAt q p with | .moving _ => true | _ => false))
  || (gs.any Seg.overLink && !s.linkCarries)

/-- What a copy reads and writes: its ranges of R55, and its physical bytes. -/
def CopyOp.sources (x : CopyOp) : List (Space × Nat × Nat) := x.srange :: x.sphys

def CopyOp.dests (x : CopyOp) : List (Space × Nat × Nat) := x.drange :: x.dphys

/-- Something comes before a write: bytes that an older write or copy of the strand has not finished with (R56, R59, R126),
an older write that a fence or the release itself puts first (R129), or an acknowledgement of the link (R364). -/
def State.writeHeld (s : State) (c : CoreId) (w : PendingWrite) : Bool :=
  let k := s.core c
  k.writes.any (fun v => v.errand == w.errand && decide (v.seq < w.seq)
      && (v.meets w.ranges || decide (v.seq < w.floor)))
  || (w.rel.any (fun sc => wideScope sc || w.segs.any Seg.far) && s.link.unacked.any (fun u =>
      decide (u.who = some ⟨c, w.errand⟩ ∧ u.write ≠ w.seq)))
  || k.copies.any (fun x => !w.errand && decide (x.seq < w.seq) && w.meets (x.sources ++ x.dests))

/-- A write cannot be performed yet. -/
def State.writeBlocked (s : State) (c : CoreId) (w : PendingWrite) : Bool := s.segsBlocked w.segs || s.writeHeld c w

/-- What a core has still to write of a retired write; nothing is left where the list is empty. -/
def Core.leaveWrite (k : Core) (n : Nat) (gs : List Seg) : Core :=
  { k with writes :=
      if gs.isEmpty then k.writes.filter (fun v => v.seq != n)
      else k.writes.map (fun v => if v.seq = n then { v with segs := gs } else v) }

/-- A store of which parts cannot reach the peer device is dropped and raised once (R120, R365). -/
def State.reportLost (s : State) (c : CoreId) (w : PendingWrite) (gs : List Seg) : State :=
  if gs.any Seg.overLink && s.unreachable w.master.ctx then s.mapCore c (·.defer .peerAbsent w.va) else s

/-- A write is performed and leaves the core. -/
def State.performWrite (s : State) (c : CoreId) (w : PendingWrite) : State :=
  (w.segs.foldl (fun s g => s.drainSeg c w g) (s.mapCore c (·.leaveWrite w.seq []))).reportLost c w w.segs

/-! A write in parts (R115, R116, R121). -/

/-- The size of the blocks at whose boundaries a write to physical memory is divided (R107, R115). -/
def blockSize (pa : Nat) : Nat := max 8 (memType pa).atomicSize

/-- The parts of a segment: 64-byte blocks of a local store, blocks of the atomic size elsewhere. A line whose data is
uncorrectable and that the segment replaces whole is one part (log entry 31). -/
def State.partsOf (s : State) (g : Seg) : List Seg :=
  let sub (q : Nat × Nat) : List Byte := (g.bytes.drop q.1).take q.2
  match g.dst with
  | .phys pa =>
    (cutAt pa g.bytes.length 128).flatMap (fun l =>
      if l.2 = 128 ∧ s.mem.ecc.contains ((pa + l.1) / 128) = true then [⟨.phys (pa + l.1), sub l⟩]
      else (cutAt (pa + l.1) l.2 (blockSize pa)).map (fun q => ⟨.phys (pa + l.1 + q.1), sub (l.1 + q.1, q.2)⟩))
  | .store k p off => (cutAt off g.bytes.length 64).map (fun q => ⟨.store k p (off + q.1), sub q⟩)

/-- One part of a retired write is performed, unless something comes before it. Parts have no order among themselves
(R115), so which one is next is a free choice. -/
def State.performPart (s : State) (c : CoreId) (w : PendingWrite) : State :=
  let ps := w.segs.flatMap s.partsOf
  let i := if ps.length ≤ 1 then 0 else Config.nextPart s.ticks % ps.length
  match ps[i]? with
  | none => s.performWrite c w
  | some g =>
    if s.writeHeld c w || s.segsBlocked [g] then s
    else
      let lost := g.overLink && s.unreachable w.master.ctx
      let rest := (ps.eraseIdx i).filter (fun h => !(lost && h.overLink))
      (((s.mapCore c (·.leaveWrite w.seq rest))).drainSeg c w g).reportLost c w [g]

/-- A write over the link to a 128-byte line of some of the bytes is under way: what is done at once to them comes after
it (R120, R126, R127, R362). -/
def State.sentOver (s : State) (rs : List (Space × Nat × Nat)) : Bool :=
  s.link.unacked.any (fun u => rs.any (rangesMeet (.phys, u.pa / 128 * 128, (u.pa / 128 + 1) * 128)))

/-- A write of this device over the link to some of the bytes has not been performed yet. A read of them comes after it, for
the reader's own write (R56, R120) and for one that a release has put before what the reader has read (R128, R131; log entry
41). -/
def State.sentTo (s : State) (rs : List (Space × Nat × Nat)) : Bool :=
  s.link.unacked.any (fun u => rs.any (rangesMeet (.phys, u.pa, u.pa + u.bytes.length)))

/-- Perform, in order, the writes of a list that nothing blocks. -/
def State.drainList (s : State) (c : CoreId) : List PendingWrite → State
  | [] => s
  | w :: ws =>
    if s.writeBlocked c w then s.drainList c ws
    else (s.performWrite c w).drainList c ws

/-- Every retired write of a strand that can be performed is performed. -/
def State.drainStrand (s : State) (w : Who) : State :=
  s.drainList w.core ((s.core w.core).writes.filter (fun v => v.errand == w.errand))

/-- The writes of a list, oldest first, that a read or an atomic on some ranges waits for (R56): those that overlap,
those below a floor, and what these in turn wait for (R59). -/
def neededWrites (ranges : List (Space × Nat × Nat)) (floor : Nat) (ws : List PendingWrite) : List PendingWrite :=
  ws.foldr (fun w need =>
    if w.meets ranges || decide (w.seq < floor)
        || need.any (fun v => w.meets v.ranges || decide (w.seq < v.floor)) then w :: need
    else need) []

/-- Perform the writes of a strand that an access to some ranges waits for; true when none is left. -/
def State.settle (s : State) (w : Who) (ranges : List (Space × Nat × Nat)) (floor : Nat) : State × Bool :=
  let need (s : State) : List PendingWrite :=
    neededWrites ranges floor ((s.core w.core).writes.filter (fun v => v.errand == w.errand))
  let s' := s.drainList w.core (need s)
  (s', (need s').isEmpty)

/-- No retired write of the strand is left. -/
def State.drained (s : State) (w : Who) : Bool := (s.core w.core).writes.all (fun v => v.errand != w.errand)

/-- No write that the strand sent over the link waits for its acknowledgement (R364). -/
def State.acknowledged (s : State) (w : Who) : Bool := s.link.unacked.all (fun u => decide (u.who ≠ some w))

/-- Every write that a core's strands have retired is performed, over the link too: what a halt, a kill and the end of
a task wait for (R28, R49, R125, R327, R353). -/
def State.settled (s : State) (c : CoreId) : Bool :=
  (s.core c).writes.isEmpty && s.link.unacked.all (fun u => decide (u.core ≠ some c))

/-! Reply slots and errands (R33 to R40, R200, R335). -/

def SlotStatus.code : SlotStatus → Nat
  | .empty => 0 | .pending => 1 | .value => 2 | .refused => 3 | .ended => 4 | .faulted => 5 | .absent => 6

def State.countDropped (s : State) : State :=
  { s with mgmt := { s.mgmt with counters := { s.mgmt.counters with
      arrivalsDropped := satInc s.mgmt.counters.arrivalsDropped } } }

/-- REPLY_DELIVERY: an outcome reaches its slot, live or in the save area, or is dropped. R335 names no master for a write
into a save area: DESIGN CHOICE, no access table is asked (log entry 103). -/
def State.deliver (s : State) (r : Reply) : State :=
  match s.peerAt r.caller.key r.caller.peer with
  | .core c => s.mapCore c (fun k => { k with slots := k.slots.set r.caller.slot ⟨r.status, r.value⟩ })
  | .moving pa | .saved pa =>
    s.pokePhys (pa + 0x3000 + 16 * r.caller.slot.val) (natLe 8 r.status.code ++ le8 r.value)
  | .dead _ | .absent => s.countDropped

def State.send (s : State) (r : Reply) : State := { s with replies := s.replies ++ [r] }

/-- ERRAND_START: the oldest queued errand starts with the registers of R35 and fresh f registers (R181). -/
def Core.startErrand (k : Core) : Core :=
  match k.run, k.mbox with
  | none, e :: rest =>
    if k.held ∨ k.halting ∨ k.halted ∨ k.loading ∨ k.task = none then k
    else
      let g := (((((((Vector.replicate 32 (0 : Word)).set 1 (BitVec.ofNat 64 e.caller.peer)).set 2
        (BitVec.ofNat 64 e.caller.key.gang)).set 3 (BitVec.ofNat 64 e.caller.slot.val)).set 10
        e.args[0]).set 11 e.args[1]).set 12 e.args[2]).set 13 e.args[3]
      { k with
        mbox := rest
        run := some ⟨e.caller, false, 0, true⟩
        err := { k.err with pc := e.entry, npc := e.entry, mode := .user, g := g, f := Vector.replicate 16 0,
                            ret := [], retries := 0, backoff := 0, inBackoff := false, lastFault := none,
                            wait := none } }
  | _, _ => k

/-- The running errand is over; the next one starts. -/
def Core.endErrand (k : Core) : Core :=
  Core.startErrand { k with run := none, err := { k.err with ret := [], wait := none, inBackoff := false, retries := 0, lastFault := none } }

/-- ERRAND_ABANDON (R40): the caller receives FAULTED with the cause unless a REPLY has delivered. -/
def State.abandonErrand (s : State) (c : CoreId) (cause : Nat) : State :=
  match (s.core c).run with
  | none => s
  | some r =>
    let s := s.mapCore c Core.endErrand
    if r.replied then s else s.send ⟨r.caller, .faulted, BitVec.ofNat 64 cause⟩

/-- Queued errands are dropped and their callers receive ABSENT (R49). -/
def State.dropErrands (s : State) (c : CoreId) : State :=
  let q := (s.core c).mbox
  { s.mapCore c (fun k => { k with mbox := [] }) with replies := s.replies ++ q.map (fun e => ⟨e.caller, .absent, 0⟩) }

/-! Barrier cells (R41, R44). -/

/-- An arrival: the phase it arrived in, and the cell after it (R41). -/
def BarCell.arrive (c : BarCell) : BitVec 8 × BarCell :=
  (c.phase, if c.arrived + 1 = c.expect then { c with arrived := 0, phase := c.phase + 1 }
            else { c with arrived := c.arrived + 1 })

/-- CELL_EXPECT_REDUCTION when a task of the gang is killed (R44). -/
def BarCell.reduce (c : BarCell) : BarCell :=
  if c.expect = 0 then c
  else if c.expect = 1 then { c with expect := 0, arrived := 0 }
  else if c.expect - 1 ≤ c.arrived then { expect := c.expect - 1, arrived := 0, phase := c.phase + 1 }
  else { c with expect := c.expect - 1 }

def BarCell.word (c : BarCell) : Nat := c.expect.toNat * 2 ^ 20 + c.arrived.toNat * 2 ^ 8 + c.phase.toNat

def BarCell.ofWord (n : Nat) : BarCell := ⟨BitVec.ofNat 12 (n / 2 ^ 20), BitVec.ofNat 12 (n / 2 ^ 8), BitVec.ofNat 8 n⟩

/-- A cell image in a save area (R331). -/
def imageAddr (pa cell : Nat) : Nat := pa + 0x3100 + 4 * cell

def State.image (s : State) (pa cell : Nat) : BarCell := BarCell.ofWord (leNat (s.mem.cells.read (imageAddr pa cell) 4))

/-- An arrival writes the image (R335), which asks no access table: DESIGN CHOICE (log entry 103). -/
def State.setImage (s : State) (pa cell : Nat) (c : BarCell) : State := s.pokePhys (imageAddr pa cell) (natLe 4 c.word)

/-- A cell of a gang, live or image. -/
def State.gangCell (s : State) (g : Gang) (n : Fin 96) : BarCell :=
  match g.peers[n.val % g.peers.length]? with
  | some (.core c) => (s.core c).cells[n]
  | some (.saved pa) => s.image pa n.val
  | none => ⟨0, 0, 0⟩

/-- The cells of a gang that the kill of one task makes uninitialised (R44). -/
def State.lostCells (s : State) (g : Gang) : List (Fin 96) :=
  (List.finRange 96).filter (fun n => decide ((s.gangCell g n).expect = 1))

/-- A strand that waits on one of some cells has lost it (R44, R226). -/
def Core.loseCells (k : Core) (ns : List (Fin 96)) : Core :=
  if k.barCell.any ns.contains then { k with barLost := true } else k

def Kept.loseCells (k : Kept) (ns : List (Fin 96)) : Kept :=
  if k.barCell.any ns.contains then { k with barLost := true } else k

/-- A change of every initialised cell of a gang, live or image; the tasks that wait on a cell that becomes
uninitialised learn of it. -/
def State.reduceCells (s : State) (g : Gang) : State :=
  let lost := s.lostCells g
  let s := g.peers.foldl (fun s p => match p with
    | .core c => s.mapCore c (fun k => { k with cells := k.cells.map BarCell.reduce })
    | .saved pa => (List.range 96).foldl (fun s n => s.setImage pa n (s.image pa n).reduce) s) s
  (g.cores.foldl (fun s c => s.mapCore c (·.loseCells lost)) s).setGang
    { g with kept := g.kept.map (·.loseCells lost) }

/-! Completion (R353). -/

/-- The completion record's doubleword 0. -/
def completionWord (status reason killed retired : Nat) : Word :=
  BitVec.ofNat 64 (2 ^ 63 + status * 2 ^ 60 + reason * 2 ^ 56 + killed * 2 ^ 25 + retired)

def recordBytes (r : Word × Word × Word × Word) : List Byte :=
  le8 r.1 ++ le8 r.2.1 ++ le8 r.2.2.1 ++ le8 r.2.2.2

/-- A write that the scheduler has still to send over the link. -/
def HomeWrite.overLink (w : HomeWrite) : Bool := memType w.pa == .peer

/-- A write of the scheduler over the link is not acknowledged. -/
def State.schedulerSent (s : State) : Bool := s.link.unacked.any (fun u => u.who.isNone)

/-- A write of the scheduler waits: one over the link until that carries transactions (R365), a release until what the
scheduler has sent is acknowledged (R364) and what it has written before a sweep is performed (R129, R157). -/
def State.outboxHolds (s : State) (w : HomeWrite) : Bool :=
  (w.overLink && !s.linkCarries) || (w.rel.isSome && (s.schedulerSent || s.mem.waiting.any (fun v => v.ack.isNone)))

/-- A write of the scheduler leaves it: at its home a frozen frame takes none, which the log records (R141, R161; log entry
76). One to the peer device goes over the link (R120); where that cannot be reached it is dropped. The vector follows the
write, or its loss (R353; log entry 96). -/
def State.dispatch (s : State) (w : HomeWrite) : State :=
  let m := w.master.getD ⟨0, 0⟩
  if 0 < (s.attrAt w.pa).fcount then (s.logFrozen m w.pa).notify w.notify
  else if w.overLink then
    if s.unreachable m.ctx then s.notify w.notify else s.sendWrite none 0 0 w.pa w.bytes w.notify
  else s.acceptWrite m w.pa w.bytes w.rel w.notify

/-- What the scheduler has still to write goes out in order, as far as nothing holds it. -/
def State.dispatchAll (s : State) : List HomeWrite → State
  | [] => { s with sched := { s.sched with outbox := [] } }
  | w :: ws =>
    if s.outboxHolds w then { s with sched := { s.sched with outbox := w :: ws } }
    else (s.dispatch w).dispatchAll ws

/-- The scheduler's writes that nothing holds any more go out. -/
def State.flushOutbox (s : State) : State := s.dispatchAll s.sched.outbox

/-- A write of the scheduler, behind those that it has still to make. -/
def State.agentWrite (s : State) (m : Master) (pa : Nat) (bs : List Byte) (tag : Option ScopeTag) (v : Option Nat) : State :=
  s.dispatchAll (s.sched.outbox ++ [⟨pa, bs, .copy .copy, some m, tag, none, v⟩])

/-- A write of the scheduler in a context: a release at SYSTEM scope when `rel` (R341). -/
def State.ctxWrite (s : State) (b : Binding) (va : Word) (bs : List Byte) (rel : Bool) (v : Option Nat) : State :=
  let tag : Option ScopeTag := if rel then some ⟨.system, none, false⟩ else none
  match s.ctxPieces b .write (pageParts va.toNat bs.length (bs.length / 0x8000 + 2)) with
  | .error f => (s.logFault ⟨b.part, b.ctx⟩ f).notify v
  | .ok ps =>
    ps.foldl (fun s p => s.agentWrite ⟨b.part, b.ctx⟩ p.pa ((bs.drop p.at_).take p.len) tag
      (if p.at_ + p.len = bs.length then v else none)) s

/-- COMPLETION_RECORD: doublewords 1 to 7, then the DONE doubleword as a release; then the vector. -/
def State.writeCompletion (s : State) (ctx : BitVec 12) (queue : QueueId) (compl user tstart : Word) (dw0 : Word)
    (fault : Word × Word × Word × Word) (notify : Bool) : State :=
  let v : Option Nat := if notify then some queue.val else none
  match compl == 0, s.binding ctx with
  | false, some b =>
    (s.ctxWrite b (compl + 8) (le8 user ++ le8 s.clock ++ le8 tstart ++ recordBytes fault) false none).ctxWrite
      b compl (le8 dw0) true v
  | _, _ => s.notify v

/-- A launch completes and is forgotten. -/
def State.completeLaunch (s : State) (l : Launch) (status reason : Nat) : State :=
  let s := s.writeCompletion l.ctx l.queue l.compl l.user l.tstart
    (completionWord status reason l.killed l.retired) (l.firstFault.getD (0, 0, 0, 0)) l.notify
  { s with sched := { s.sched with launches := s.sched.launches.filter (fun x => x.id != l.id) } }

/-- A launch completes when every gang has retired or been killed. -/
def State.launchDone (s : State) (id : Nat) : State :=
  match s.launch id with
  | some l => if l.retired + l.killed = l.gangs then s.completeLaunch l l.status 0 else s
  | none => s

/-! Fault records (R321). -/

def Level.code : Level → Nat
  | .task => 0 | .gang => 1 | .launch => 2 | .queue => 3 | .context => 4

def Policy.code : Policy → Nat
  | .ignore => 0 | .retry => 1 | .killSelf => 2 | .killParent => 3

def Policy.ofCode : Nat → Policy
  | 0 => .ignore | 1 => .retry | 2 => .killSelf | _ => .killParent

/-- The four doublewords of a fault record. -/
def recordOf (cause kind level policy core peer gang ctx part queue info : Nat) (pc addr : Word) :
    Word × Word × Word × Word :=
  (BitVec.ofNat 64 (cause * 2 ^ 56 + kind * 2 ^ 52 + level * 2 ^ 49 + policy * 2 ^ 47 + core * 2 ^ 39 + peer * 2 ^ 31
      + gang),
   BitVec.ofNat 64 (ctx * 2 ^ 52 + part * 2 ^ 49 + queue * 2 ^ 44 + info), pc, addr)

/-- PC of a record is CR.SEPC, which holds bits 56:1 of the strand's address (R286, R292, R321). -/
def recordPc (pc : Word) : Word := keepBits pc 56 1

/-- The record of a fault of the task on a core. -/
def State.faultRecord (s : State) (c : CoreId) (cause : Nat) (f : FaultInfo) (pc : Word) (level : Level) (p : Policy) :
    Word × Word × Word × Word :=
  match (s.core c).task with
  | some r =>
    recordOf cause f.kind.toNat level.code p.code c.val r.peer r.key.gang r.ctx.toNat r.part.toNat
      ((s.launch r.key.launch).map (fun l => l.queue.val) |>.getD 0) f.info.toNat (recordPc pc) f.addr
  | none => recordOf cause f.kind.toNat level.code p.code c.val 0 0 0 0 0 f.info.toNat (recordPc pc) f.addr

/-- The record goes to the event log, and the first of a launch to its completion record. -/
def State.report (s : State) (launch : Option Nat) (rec : Word × Word × Word × Word) : State :=
  let s := s.appendLog rec
  match launch.bind s.launch with
  | some l => s.setLaunch { l with firstFault := l.firstFault.orElse (fun _ => some rec) }
  | none => s

/-! Retirement of gangs (R29). -/

/-- GANG_RELEASE: cores, stores and cells become free. -/
def State.releaseGang (s : State) (g : Gang) : State :=
  let s := g.cores.foldl (fun s c => s.mapCore c (fun k => { k with
    task := none, held := false, halting := false, halted := false, loading := false, run := none, mbox := [] })) s
  { s with sched := { s.sched with gangs := s.sched.gangs.filter (fun h => decide (h.key ≠ g.key)) } }

/-- No errand of the task at a place is in progress or queued; a saved one's area tells (R331, R332). -/
def State.errandsOver (s : State) (g : Gang) (peer : Nat) : Bool :=
  match g.peers[peer]? with
  | some (.core c) => (s.core c).run.isNone && (s.core c).mbox.isEmpty
  | some (.saved pa) =>
    g.dead.contains peer || (!entryBit (leNat (s.mem.cells.read (pa + 0x38) 8)) 0
      && decide (leNat (s.mem.cells.read (pa + 0x2160) 8) = 0))
  | none => true

/-- GANG_RETIRE and GANG_RELEASE, when their conditions hold, whatever is being done to the gang meanwhile: one that is
halting, saved or placed again with errands left keeps them until it runs (R29, R31). -/
def State.retireGang (s : State) (k : GangKey) : State :=
  match s.gang k with
  | none => s
  | some g =>
    if s.allEnded g then
      if g.moving.isNone && (List.range g.peers.length).all (s.errandsOver g) then
        match s.launch k.launch with
        | some l => ((s.releaseGang g).setLaunch { l with retired := l.retired + 1 }).launchDone k.launch
        | none => s.releaseGang g
      else if g.state = .running ∨ g.state = .retiring then s.setGang { g with state := .retiring }
      else s
    else s

/-! Kills (R49, R337, R358). -/

/-- Every core, and the peer device where it is asked, has acknowledged. -/
def FreezeOp.done (o : FreezeOp) : Bool := o.toAck.isEmpty && !o.peerWait

/-- The freeze events of a core's strand go on without it, and are over once acknowledged; an arrival that it sent over
the link has nobody to answer. -/
def State.leaveWaits (s : State) (c : CoreId) : State :=
  let mine (o : FreezeOp) : Bool := o.who.any (fun w => w.core == c)
  let sent (a : Arrival) : Bool := (s.core c).task.any (fun r => a.key == r.key && a.peer == r.peer)
  { s with
    frz := { s.frz with ops := (s.frz.ops.filter (fun o => !(mine o && o.done))).map (fun o =>
      if mine o then { o with who := none } else o) }
    link := { s.link with arrivals := s.link.arrivals.filter (fun a => !sent a) } }

/-- The full/empty bits of some granules in a save area all have a value. -/
def State.imageAll (s : State) (pa off n : Nat) (v : Bool) : Bool :=
  (granules off n).all (fun g => entryBit (s.mem.cells.byte (fullImage pa + g / 8)).toNat (g % 8) == v)

/-- The full/empty bits of some granules in a save area are set to a value. -/
def State.setImageFull (s : State) (pa off n : Nat) (v : Bool) : State :=
  (granules off n).foldl (fun s g =>
    let a := fullImage pa + g / 8
    let b := s.mem.cells.byte a
    s.pokePhys a [if v then b ||| BitVec.twoPow 8 (g % 8) else b &&& ~~~(BitVec.twoPow 8 (g % 8))]) s

/-- Where a row begins in a granule that it touches. -/
def RowUnit.start (x : RowUnit) (g : Nat) : Nat := max x.off (16 * g)

/-- The earlier bytes of a row in a granule that it touches. -/
def RowUnit.earlier (x : RowUnit) (g : Nat) : List Byte :=
  (x.before.drop (x.start g - x.off)).take (16 * g + 16 - x.start g)

/-- What the unit of a row did to one granule is undone. -/
def Core.undoGranule (k : Core) (x : RowUnit) (g : Nat) : Core :=
  match x.q with
  | .fec => k.setFull (16 * g) 16 true
  | .ef => (k.writeLocal (x.start g) (x.earlier g) false).setFull (16 * g) 16 false
  | .nf | .fe => k

/-- The same in a saved task's area (R331, R335). -/
def State.undoImage (s : State) (pa : Nat) (x : RowUnit) (g : Nat) : State :=
  match x.q with
  | .fec => s.setImageFull pa (16 * g) 16 true
  | .ef => (s.pokePhys (storeImage pa + x.start g) (x.earlier g)).setImageFull pa (16 * g) 16 false
  | .nf | .fe => s

/-- A granule that the row of a task's move has acted on, and nobody since, is as it was, in the store or in its save area.
-/
def State.undoGranule (s : State) (key : GangKey) (peer : Nat) (x : RowUnit) (g : Nat) : State :=
  match s.peerAt x.key x.peer with
  | .core c => if (s.core c).claims.contains ⟨g, key, peer⟩ then s.mapCore c (·.undoGranule x g) else s
  | .saved pa | .moving pa =>
    if (s.keptClaims x.key x.peer).contains ⟨g, key, peer⟩ then (s.undoImage pa x g).dropKept x.key x.peer (16 * g) 16
    else s
  | .dead _ | .absent => s

/-- A row's unit is undone granule by granule. -/
def State.undoRow (s : State) (key : GangKey) (peer : Nat) (x : RowUnit) : State :=
  (granules x.off x.after.length).foldl (fun s g => s.undoGranule key peer x g) s

/-- A qualified tile move of a task that faults or is squashed for good has no effect: the rows that it has performed are
undone, the last one first (R60, R230). A granule that another agent has acted on since stays as that agent left it: DESIGN
CHOICE (log entry 73). -/
def State.undoRows (s : State) (key : GangKey) (peer : Nat) (rows : List RowUnit) : State :=
  rows.foldr (fun x s => s.undoRow key peer x) s

/-- The waiting move of the task on a core is undone. -/
def State.undoMove (s : State) (c : CoreId) : State :=
  match (s.core c).task with
  | some r => s.undoRows r.key r.peer (s.core c).rowUnits
  | none => s

/-- The waiting move of a saved task is undone. -/
def State.undoKept (s : State) (g : Gang) (peer : Nat) : State :=
  match g.kept.find? (fun x => x.peer == peer) with
  | some x => s.undoRows g.key peer x.rowUnits
  | none => s

/-- What every affected task goes through: stores drain, unstarted copies are dropped (a piece that has begun is
complete, R329), a FREEZE past its freeze point goes on alone, the running errand is abandoned and queued ones
dropped. -/
def State.haltTask (s : State) (c : CoreId) (cause : Nat) : State :=
  let s := (((s.drainStrand ⟨c, false⟩).drainStrand ⟨c, true⟩).leaveWaits c).undoMove c
  let s := s.mapCore c (fun k => { k with
    copies := [], batches := [], deferred := [], barPhase := none, barCell := none, barLost := false, thawBound := none
    rowUnits := [], gather := none
    main := { k.main with wait := none, inBackoff := false, lastFault := none, retries := 0 }
    task := k.task.map (fun r => { r with ended := true }) })
  (s.dropErrands c).abandonErrand c cause

/-- The caller word of a save area (R331): peer in bits 7:0, slot in 11:8, replied flag in 12, gang in 47:24
(log entry 14). -/
def packCaller (c : Caller) (replied : Bool) : Nat :=
  c.peer + c.slot.val * 2 ^ 8 + replied.toNat * 2 ^ 12 + c.key.gang * 2 ^ 24

def unpackCaller (launch n : Nat) : Caller := ⟨⟨launch, n / 2 ^ 24 % 2 ^ 24⟩, n % 256, Fin.ofNat 16 (n / 2 ^ 8)⟩

/-- What the callers of a saved task's errands receive when it is killed: FAULTED for the one in progress,
ABSENT for the queued ones (R49). -/
def State.savedOutcomes (s : State) (launch pa cause : Nat) : List Reply :=
  let dw (off : Nat) : Nat := leNat (s.mem.cells.read (pa + off) 8)
  let caller := dw 0x2158
  (if entryBit (dw 0x38) 0 && !entryBit caller 12 then
    [⟨unpackCaller launch caller, .faulted, BitVec.ofNat 64 cause⟩] else [])
  ++ (List.range (dw 0x2160)).map (fun i => ⟨unpackCaller launch (dw (0x2400 + 64 * i)), .absent, 0⟩)

/-- A saved task is killed: its callers are answered, and what its waiting instruction had performed is undone. -/
def State.killSaved (s : State) (g : Gang) (peer pa cause : Nat) : State :=
  let s := s.undoKept g peer
  { s with replies := s.replies ++ s.savedOutcomes g.key.launch pa cause }

/-- A killed task leaves its gang running, unless that has no other: then the gang retires, wherever its tasks are (R29). -/
def State.killTask (s : State) (k : GangKey) (peer cause : Nat) : State :=
  match s.gang k with
  | none => s
  | some g =>
    if g.dead.contains peer ∨ g.peers.length ≤ peer then s
    else
      let s := match g.peers[peer]? with
        | some (.core c) => s.haltTask c cause
        | some (.saved pa) => s.killSaved g peer pa cause
        | none => s
      let g := (s.gang k).getD g
      let g := { g with
        dead := peer :: g.dead
        moving := if g.moving.any (fun m => m.1 == peer) then none else g.moving }
      ((s.setGang g).reduceCells g).retireGang k

/-- A gang goes away: its tasks halt, its cores are free, its save areas are discarded. A task that was killed before has
been answered for (R49). -/
def State.removeGang (s : State) (g : Gang) (cause : Nat) : State :=
  let s := g.peers.zipIdx.foldl (fun s p => match p.1 with
    | .saved pa => if g.dead.contains p.2 then s else s.killSaved g p.2 pa cause
    | .core _ => s) s
  (g.cores.foldl (fun s c => s.haltTask c cause) s).releaseGang g

/-- A killed gang leaves its launch running, which counts it. -/
def State.killGang (s : State) (k : GangKey) (cause : Nat) : State :=
  match s.gang k with
  | none => s
  | some g =>
    match s.launch k.launch with
    | none => s.removeGang g cause
    | some l => ((s.removeGang g cause).setLaunch { l with killed := l.killed + 1 }).launchDone k.launch

/-- Every gang of a launch goes; the launch completes with the status, unplaced gangs counted as killed. -/
def State.endLaunch (s : State) (id status cause : Nat) : State :=
  match s.launch id with
  | none => s
  | some l =>
    let gs := s.sched.gangs.filter (fun g => g.key.launch == id)
    (gs.foldl (fun s g => s.removeGang g cause) s).completeLaunch { l with killed := l.gangs - l.retired } status 0

def State.queueAt (s : State) (q : QueueId) : Queue := s.sched.queues[q]

def State.setQueue (s : State) (q : QueueId) (x : Queue) : State :=
  { s with sched := { s.sched with queues := s.sched.queues.set q x } }

/-- The physical address of a record of a queue's ring (R343). -/
def Queue.recordAt (x : Queue) (k : Nat) : Nat := x.ring.toNat * 128 + 128 * (k % 2 ^ x.log2n.toNat)

def Queue.master (q : Queue) : Master := ⟨q.part, q.ctx⟩

/-- The 128 bytes of a record of a queue's ring (R345). -/
def State.queueRecord (s : State) (x : Queue) (k : Nat) : List Byte := s.agentRead (x.recordAt k) 128

/-- A doubleword of a record. -/
def recWord (bs : List Byte) (i : Nat) : Word := wordOf ((bs.drop (8 * i)).take 8)

/-- A pending record's launch completes with STATUS 3: RETIRED 0, KILLED G (R353); one that a table does not let the
scheduler read names no completion record. -/
def State.failPending (s : State) (q : QueueId) (k : Nat) : State :=
  let x := s.queueAt q
  match s.deniedLine x.master (x.recordAt k) 128 .read with
  | some a => s.logDenied x.master a .read
  | none =>
    let bs := s.queueRecord x k
    s.writeCompletion x.ctx q (recWord bs 5) (recWord bs 6) 0
      (completionWord 3 0 (bitsOf (recWord bs 0) 23 0 + 1) 0) (0, 0, 0, 0) (entryBit (recWord bs 0).toNat 54)

/-- How many records the ring holds before the tail that was last read (R344); also of a queue that is disabled. -/
def Queue.unread (x : Queue) : Nat := if x.tailRead && !x.tailIgnored then (x.tailSeen - x.head).toNat else 0

/-- How many records are pending (R344). -/
def Queue.pending (x : Queue) : Nat := if x.enable then x.unread else 0

/-- QUEUE_KILL (R49, R358): pending launches complete with STATUS 3, those of a disabled queue too (R353). -/
def State.killQueue (s : State) (q : QueueId) (cause : Nat) : State :=
  let ls := s.sched.launches.filter (fun l => l.queue == q)
  let s := ls.foldl (fun s l => s.endLaunch l.id 3 cause) s
  let x := s.queueAt q
  let pending := x.unread
  let s := (List.range pending).foldl (fun s i => s.failPending q (x.head.toNat + i)) s
  (s.setQueue q { x with
    enable := false, err := false, tailRead := false, tailIgnored := false
    head := x.head + BitVec.ofNat 32 pending }).raiseVector (32 + q.val)

/-- The queues of a context that are enabled or hold a launch or a pending record. -/
def State.queuesOf (s : State) (ctx : BitVec 12) : List QueueId :=
  (List.finRange 32).filter (fun q => decide ((s.queueAt q).ctx = ctx)
    && ((s.queueAt q).enable || decide (0 < (s.queueAt q).unread) || s.sched.launches.any (fun l => l.queue == q)))

/-- A record with another queue number (R321). -/
def recordForQueue (r : Word × Word × Word × Word) (q : QueueId) : Word × Word × Word × Word :=
  (r.1, (r.2.1 &&& ~~~(BitVec.ofNat 64 (31 * 2 ^ 44))) ||| BitVec.ofNat 64 (q.val * 2 ^ 44), r.2.2)

/-- The queue that a record names. -/
def queueOfRecord (r : Word × Word × Word × Word) : Nat := bitsOf r.2.1 48 44

/-- Every queue of a context is killed, each with its record in the log: the log holds the one of the queue that the record
names, and for each other queue it is appended with that queue's number (R321, R358). -/
def State.killContext (s : State) (ctx : BitVec 12) (cause : Nat) (rec : Word × Word × Word × Word) : State :=
  (s.queuesOf ctx).foldl (fun s q =>
    (if queueOfRecord rec = q.val then s else s.appendLog (recordForQueue rec q)).killQueue q cause) s

/-- The gangs that a kill reaches. -/
def State.killedGangs (s : State) : KillTarget → List Gang
  | .task k _ | .gang k => s.sched.gangs.filter (fun g => decide (g.key = k))
  | .launch l => s.sched.gangs.filter (fun g => g.key.launch == l)
  | .queue q => s.sched.gangs.filter (fun g => g.queue == q)
  | .context ctx => s.sched.gangs.filter (fun g => decide ((s.queueAt g.queue).ctx = ctx))

/-- The cores that a kill reaches. -/
def State.killedCores (s : State) (t : KillTarget) : List CoreId :=
  match t with
  | .task k p =>
    match s.peerAt k p with
    | .core c => [c]
    | _ => []
  | _ => (s.killedGangs t).flatMap Gang.cores

/-- Strands in supervisor mode on a list of cores: a request waits for their SRET (R289). -/
def State.supervisors (s : State) (cs : List CoreId) : List Who :=
  cs.flatMap (fun c =>
    (if (s.core c).main.mode = .supervisor then [Who.mk c false] else [])
    ++ (if (s.core c).err.mode = .supervisor then [Who.mk c true] else []))

/-- The kill itself (R49). -/
def State.killNow (s : State) (t : KillTarget) (cause : Nat) (rec : Word × Word × Word × Word) : State :=
  match t with
  | .task k p => s.killTask k p cause
  | .gang k => s.killGang k cause
  | .launch l => s.endLaunch l 2 cause
  | .queue q => s.killQueue q cause
  | .context ctx => s.killContext ctx cause rec

def Core.setHalting (k : Core) (v : Bool) : Core := { k with halting := v }

/-- The task on a core has been asked to halt: its gang is halting, or it is the one that its gang migrates (R31, R32). -/
def State.mustHalt (s : State) (c : CoreId) : Bool :=
  match (s.core c).task with
  | none => false
  | some r => (s.gang r.key).any (fun g => g.state == .halting || g.moving.any (fun m => m.1 == r.peer))

/-- KILL: a request that reaches a strand in supervisor mode takes effect at its first user-mode instruction
boundary (R289), and only once the retired stores of the affected cores have drained, those over the link with their
acknowledgements (R49, R353). Until then the cores start nothing in user mode, other agents take the steps that they
owe, and the kill is tried again. A core that another request has asked to halt still halts. -/
def State.killUnit (s : State) (t : KillTarget) (cause : Nat) (rec : Word × Word × Word × Word) : State :=
  let cs := s.killedCores t
  let s := cs.foldl (fun s c => (s.drainStrand ⟨c, false⟩).drainStrand ⟨c, true⟩) s
  if (s.supervisors cs).isEmpty && cs.all s.settled then
    let s := s.killNow t cause rec
    cs.foldl (fun s c => s.mapCore c (·.setHalting (s.mustHalt c))) s
  else
    { cs.foldl (fun s c => s.mapCore c (·.setHalting true)) s with
      agenda := s.agenda ++ (s.supervisors cs).map Move.strand ++ [Move.owe, Move.kill t cause rec] }

/-! Containment (R47, R48, R322, R326). -/

/-- The levels from one on, with the policy that a task carries for each (R292). -/
def policiesFrom (policy : BitVec 8) (start : Level) : List (Level × Policy) :=
  let all := [(Level.task, Policy.ofCode (policy.toNat % 4)), (Level.gang, Policy.ofCode (policy.toNat / 4 % 4)),
    (Level.launch, Policy.ofCode (policy.toNat / 16 % 4)), (Level.queue, Policy.ofCode (policy.toNat / 64 % 4))]
  all.filter (fun p => decide (start.code ≤ p.1.code))

/-- The first level that absorbs; RETRY levels are passed over where no retry is possible. -/
def absorber (retry : Bool) (ps : List (Level × Policy)) : Option (Level × Policy) :=
  ps.find? (fun p => match p.2 with
    | .ignore => false
    | .retry => retry
    | _ => true)

/-- What a level's kill policy kills. -/
def killTarget (r : Resident) (queue : QueueId) : Level → Policy → KillTarget
  | .task, .killSelf => .task r.key r.peer
  | .task, _ => .gang r.key
  | .gang, .killSelf => .gang r.key
  | .gang, _ => .launch r.key.launch
  | .launch, .killSelf => .launch r.key.launch
  | .launch, _ => .queue queue
  | .queue, .killSelf => .queue queue
  | .queue, _ => .context r.ctx
  | .context, _ => .context r.ctx

/-- The causes that an errand never retries (R40). -/
def neverRetried (c : Cause) : Bool :=
  c == .errandTile || c == .errandBudget || c == .illegalInstruction

/-- CR.FCAUSE after a fault that RETRY absorbs (R80). -/
def fcauseWord (c : Cause) : Word := BitVec.ofNat 64 (2 ^ 63 + c.code)

/-- The n-th consecutive fault is absorbed by RETRY: the instruction waits and executes again (R48, R326). -/
def Strand.retryLater (t : Strand) (f : FaultInfo) : Strand :=
  { t with
    retries := t.retries + 1
    backoff := if t.retries = 0 then 1 else min 128 (2 * t.backoff)
    inBackoff := true
    lastFault := some f
    wait := none }

/-- Consult the policies from `start` on, with RETRY a possible answer or not. A RETRY at the queue level that is passed over
or used up has no level above it, and the manual does not say what follows: DESIGN CHOICE, as with IGNORE there, the queue is
killed with a record of LEVEL queue and POLICY IGNORE (log entry 107). -/
def State.consult (s : State) (w : Who) (f : FaultInfo) (start : Level) (retry : Bool) : State :=
  match (s.core w.core).task with
  | none => s
  | some r =>
    let queue := ((s.launch r.key.launch).map (·.queue)).getD 0
    let pc := (s.strand w).pc
    match absorber retry (policiesFrom r.policy start) with
    | some (l, .retry) =>
      let s' := s.mapCore w.core (fun k => { k with fcause := fcauseWord f.cause })
      let s' := if (s.strand w).retries = 0 then
          s'.report (some r.key.launch) (s.faultRecord w.core f.cause.code f pc l .retry)
        else s'
      if w.errand ∧ neverRetried f.cause then (s'.abandonErrand w.core f.cause.code).retireGang r.key
      else s'.mapStrand w (·.retryLater f)
    | some (l, p) =>
      let rec_ := s.faultRecord w.core f.cause.code f pc l p
      (s.report (some r.key.launch) rec_).killUnit (killTarget r queue l p) f.cause.code rec_
    | none =>
      let rec_ := s.faultRecord w.core f.cause.code f pc .queue .ignore
      (s.report (some r.key.launch) rec_).killUnit (.queue queue) f.cause.code rec_

/-- CONTAINMENT of a fault of a strand (R48). A fault with no instruction is never retried (R322). The 256th
consecutive fault is kept for RETRY_EXHAUSTED where a RETRY level would have absorbed it. -/
def State.contain (s : State) (w : Who) (f : FaultInfo) : State :=
  let retry := decide (f.kind = 0 ∨ f.kind = 2)
  let t := s.strand w
  let policy := ((s.core w.core).task.map (·.policy)).getD 0
  if retry ∧ 255 ≤ t.retries ∧ (absorber true (policiesFrom policy .task)).any (fun p => p.2 == .retry) then
    s.setStrand w { t with retries := 256, inBackoff := false, lastFault := some f, wait := none }
  else s.consult w f .task retry

end Sys2Proof.Machine
end

