-- ==== Sys2Proof/Machine/Ops.lean ====
section
/-! DEFINITION. Issue and retirement, taking an exception and returning from one, fetching, and transfers of
control (R36, R60, R79, R145, R165 to R170, R194, R195, R285 to R289, R302). -/

namespace Sys2Proof.Machine

/-- The task on the current core; a core that holds none makes no user access (R290). -/
def Resident.idle : Resident where
  key := ⟨0, 0⟩
  peer := 0
  peers := 0
  part := 0
  ctx := 0
  ptroot := 0
  spanned := false
  depth := 1
  policy := 0
  lpad := false
  callat := false
  ended := false

def State.resident (s : State) : Resident := s.here.task.getD Resident.idle

/-! What an instruction names (R36, R52, R67, R287). -/

/-- The form names a tile, accumulator or mask register (R36). -/
def namesTile : Instr → Bool
  | .tld .. | .tldt .. | .tldx .. | .tst .. | .tstt .. | .tstx .. | .tgather .. | .tzmask .. | .tmov .. | .tzero ..
  | .tmma .. | .azero .. | .amov .. | .ald .. | .ast .. | .acvt .. | .afrom .. | .aaddAccumulator ..
  | .tadd .. | .tsub .. | .tmul .. | .tfma .. | .tmin .. | .tmax .. | .tabs .. | .tneg .. | .tand .. | .tor ..
  | .txor .. | .tshl .. | .tshr .. | .tsra .. | .tcmpeq .. | .tcmplt .. | .tcmple .. | .tcmpun .. | .tsel ..
  | .texp2 .. | .trcp .. | .trsq .. | .tadds .. | .tsubs .. | .tmuls .. | .tmins .. | .tmaxs .. | .tfill ..
  | .tscale .. | .trsum .. | .tcsum .. | .trmax .. | .tcmax .. | .trmin .. | .tcmin .. | .ttr .. | .trowb ..
  | .tcolb .. | .trot .. | .tshuf .. | .tcvt .. | .tcvtChoose .. | .tcvtGiven ..
  | .mand .. | .mor .. | .mxor .. | .mnot .. | .mset .. | .mget .. | .mpopc .. => true
  | _ => false

/-- R36: forms that are ILLEGAL_INSTRUCTION in an errand. -/
def errandBarred : Instr → Bool
  | .callat .. | .waitrp .. | .copy .. | .copyr .. | .discard .. | .bseal .. | .bwait .. | .barinit ..
  | .barwait .. | .barsync .. | .freeze .. | .thaw .. | .thawwait .. | .publish .. | .trap .. | .exit => true
  | .ldl _ _ _ _ _ q _ | .stl _ _ _ _ q _ | .fld _ _ _ _ _ q _ | .fst _ _ _ _ _ q _ => q != .nf
  | .csave .. | .cload .. | .halt .. | .resume .. | .mboxset .. | .polset .. => true
  | _ => false

/-- Forms that are ILLEGAL_INSTRUCTION in the main strand (R197, R198). -/
def mainBarred : Instr → Bool
  | .edone | .reply .. => true
  | _ => false

/-- R287: forms that are ILLEGAL_INSTRUCTION in supervisor mode. -/
def supervisorBarred (i : Instr) : Bool :=
  namesTile i ||
  match i with
  | .copy .. | .copyr .. | .discard .. | .exit | .edone | .trap .. | .callat .. | .reply .. | .waitrp ..
  | .bseal .. | .bwait .. | .barinit .. | .bararr .. | .barwait .. | .barsync .. | .freeze .. | .thaw ..
  | .thawwait .. | .publish .. => true
  | _ => false

/-- Class 0x3C (R295). -/
def privileged : Instr → Bool
  | .csave .. | .cload .. | .tlbinv .. | .tlbinvc .. | .wcinv .. | .frameset .. | .mboxset .. | .polset ..
  | .sret .. | .halt .. | .resume .. => true
  | _ => false

/-- The second register of a pair that a .q atomic names (R212). -/
def pairTop (sz : Size3) (r : GReg) : Nat := if sz = .q then r.val + 1 else r.val

/-- The g register numbers of a form that an errand may run. -/
def gregs : Instr → List Nat
  | .add d a b _ | .sub d a b _ | .and d a b _ | .or d a b _ | .xor d a b _ | .andn d a b _ | .shl d a b _
  | .shr d a b _ | .sra d a b _ | .rol d a b _ | .ror d a b _ | .mul d a b _ | .mulhs d a b _ | .mulhu d a b _
  | .divs d a b _ | .divu d a b _ | .rems d a b _ | .remu d a b _ | .min d a b _ | .max d a b _ | .minu d a b _
  | .maxu d a b _ | .slt d a b _ | .sltu d a b _ | .seq d a b _ | .sne d a b _ | .lea d a b _ _ =>
    [d.val, a.val, b.val]
  | .clz d a _ | .ctz d a _ | .popc d a _ | .bswap d a _ | .addi d a _ _ | .andi d a _ _ | .ori d a _ _
  | .xori d a _ _ | .shli d a _ _ | .shri d a _ _ | .srai d a _ _ | .rori d a _ _ | .muli d a _ _ | .slti d a _ _
  | .sltui d a _ _ | .seqi d a _ _ | .mini d a _ _ | .maxi d a _ _ | .b _ d a _ | .bararr d a _ => [d.val, a.val]
  | .li d _ | .adr d _ | .fmvfg _ d _ | .fmvgf d _ _ | .fcvtfi _ d _ _ | .fcvtif d _ _ _ | .fcmpeq d _ _
  | .fcmplt d _ _ | .fcmple d _ _ | .fclass d _ _ | .brc d _ | .jr d _ | .callr d _ | .jt d _ _ _
  | .fld _ _ _ d _ _ _ | .fst _ _ _ d _ _ _ | .reply d | .mfcr d _ | .mtcr _ d | .tlbinvc d => [d.val]
  | .ld d _ _ b _ _ | .st d _ b _ _ | .ldl d _ _ b _ _ _ | .stl d _ b _ _ _ | .tlbinv d b _ | .wcinv d b _
  | .frameset d b _ => [d.val, b.val]
  | .aswap d sz b a _ _ _ | .aadd d sz b a _ _ _ | .aand d sz b a _ _ _ | .aor d sz b a _ _ _
  | .axor d sz b a _ _ _ | .amin d sz b a _ _ _ | .amax d sz b a _ _ _ | .aminu d sz b a _ _ _
  | .amaxu d sz b a _ _ _ | .afadd d sz b a _ _ _ => [pairTop sz d, b.val, pairTop sz a]
  | .acas d sz b a c _ _ _ => [pairTop sz d, b.val, pairTop sz a, pairTop sz c]
  | _ => []

def isCallat : Instr → Bool
  | .callat .. => true
  | _ => false

/-- Steps 2 to 4 of R170 that depend on the strand, and R287: the fault of a form that the strand may not run. A
tile form in an errand strand in supervisor mode has two causes, ERRAND_TILE (R170) and ILLEGAL_INSTRUCTION (R287), and
the manual ranks neither: DESIGN CHOICE, the model reports ILLEGAL_INSTRUCTION (log entry 74). -/
def State.issueFault (s : State) (i : Instr) : Option FaultInfo :=
  let t := s.me
  if t.mode = .user ∧ privileged i then some (plainFault .privilegedInstruction t.pc)
  else if t.mode = .supervisor ∧ supervisorBarred i then some (plainFault .illegalInstruction t.pc)
  else if t.mode = .user ∧ isCallat i ∧ s.resident.callat = false then
    some (plainFault .illegalInstruction t.pc)
  else if s.cur.errand then
    if namesTile i then some (plainFault .errandTile 0)
    else if (gregs i).any (fun r => decide (16 ≤ r)) || errandBarred i then
      some (plainFault .illegalInstruction t.pc)
    else none
  else if mainBarred i then some (plainFault .illegalInstruction t.pc)
  else none

/-! What an instruction comes to. -/

inductive Effect where
  /-- It retires; the strand goes on at the successor. -/
  | retire (s : State)
  /-- It retires; the strand goes on at an address. -/
  | goto (s : State) (a : Word)
  /-- The state is complete as it stands. -/
  | became (s : State)
  /-- A precise fault: nothing of the instruction has happened. -/
  | raise (f : FaultInfo)
  /-- It waits and executes again later; the state holds what a waiting instruction has performed. -/
  | wait (s : State) (w : WaitOn)

/-- A retired user-mode instruction ends a run of consecutive faults (R48, R326). -/
def Strand.cleared (t : Strand) : Strand :=
  if t.mode = .user then { t with wait := none, retries := 0, backoff := 0, inBackoff := false, lastFault := none }
  else { t with wait := none }

/-- What retirement counts (R36, R294). -/
def Core.count (k : Core) (errand : Bool) : Core :=
  let t := k.strand errand
  let k := k.setStrand errand t.cleared
  let n : Fin 7 := if errand then 2 else 1
  { k with
    counters := k.counters.set n (k.counters[n] + 1)
    run := if errand ∧ t.mode = .user then k.run.map (fun r => { r with count := r.count + 1, landing := false }) else k.run }

def State.count (s : State) : State := s.setHere (s.here.count s.cur.errand)

/-- The strand goes on at an address. -/
def State.at_ (s : State) (a : Word) : State := s.setMe { s.me with pc := a }

/-- Retirement at an address. -/
def State.retireTo (s : State) (a : Word) : State := s.count.at_ a

/-- Retirement at the successor (R168). -/
def State.retire (s : State) : State := s.retireTo s.me.npc

def State.setWait (s : State) (w : WaitOn) : State := s.setMe { s.me with wait := some w }

/-! Supervisor entry and return (R285 to R288, R302). -/

/-- CR.SSTATUS after an entry: PHYS stays (R286, R292). -/
def sstatusWord (old : Word) (treg : Nat) (kind : Nat) (errand : Bool) : Word :=
  BitVec.ofNat 64 (treg * 2 ^ 11 + bitsOf old 10 10 * 2 ^ 10 + kind * 2 ^ 8 + errand.toNat * 2 ^ 7)

/-- enter_supervisor of R286 for a strand: `sepc` is the successor of a TRAP or the faulting address. -/
def Strand.enter (t : Strand) (errand : Bool) (kind code : Nat) (sepc addr info : Word) (treg : GReg) : Strand :=
  { t with
    sstatus := sstatusWord t.sstatus treg.val kind errand
    sepc := BitVec.ofNat 64 (bitsOf sepc 56 1 * 2)
    scause := BitVec.ofNat 64 code
    sfaddr := addr
    sfinfo := info
    sarg := if kind = 0 then t.readG treg else t.sarg
    sret := []
    mode := .supervisor
    pc := t.svec
    npc := t.svec
    wait := none }

/-- Back to user mode: the user bank is in force again (R302). -/
def Strand.leave (t : Strand) : Strand := { t with mode := .user, wait := none }

/-- A fault in supervisor mode: KIND 5 in the log with CR.SEPC, and the task is killed (R288). No policy absorbs it and
neither CR.SFADDR nor CR.SFINFO is written: DESIGN CHOICE, the record has LEVEL task, POLICY KILL_SELF and the address and
the information of that fault (log entry 104). -/
def State.supervisorFault (s : State) (w : Who) (f : FaultInfo) : State :=
  let t := s.strand w
  let s' := s.setStrand w t.leave
  let rec_ := s.faultRecord w.core f.cause.code { f with kind := 5 } t.sepc .task .killSelf
  match (s.core w.core).task with
  | none => s'.appendLog rec_
  | some r => (s'.report (some r.key.launch) rec_).killUnit (.task r.key r.peer) f.cause.code rec_

/-- A fault of the strand goes to the runtime, not to containment (R285). -/
def Strand.toRuntime (t : Strand) (c : Cause) : Bool :=
  decide (t.mode = .user) && !entryBit t.sdeleg.toNat c.code

/-- The log entry of a denied access (R317), and the prefetched code that FETCH_UNPUBLISHED discards (R139). -/
def State.noteFault (s : State) (w : Who) (f : FaultInfo) : State :=
  let s := s.logFault (((s.core w.core).task.getD Resident.idle).master) f
  if f.cause = .fetchUnpublished then s.mapCore w.core (fun k => { k with prefetched := [] }) else s

/-- A core's task has ended and a fault of an errand's write is still to be raised; the errand strand's next boundary
raises it (R322). -/
def State.owesFault (s : State) (c : CoreId) : Bool :=
  !(s.core c).deferred.isEmpty && ((s.core c).task.map (·.ended)).getD false

/-- What needs every earlier write of a strand performed, with the acknowledgements of those sent over the link (R223,
R364); the strand waits until then, and an errand strand for a fault that its boundary raises first. -/
def State.onceSettled (s : State) (w : Who) (body : State → State) : State :=
  let s := s.drainStrand w
  if !s.drained w then s.mapStrand w (fun t => { t with wait := some .sweep })
  else if !s.acknowledged w then s.mapStrand w (fun t => { t with wait := some .linkAcks })
  else if w.errand && s.owesFault w.core then s.mapStrand w (fun t => { t with wait := some .taskEnd })
  else body s

/-- A fence of kind .r or .rw: later reads come after the reads of earlier copies of the same bytes (R126). -/
def Strand.fenceReads (t : Strand) (order : Nat) : Strand := { t with rfloor := order }

/-- Entry with a fault (R286, R288), which acts as a fence.system.rw. -/
def State.enterFault (s : State) (w : Who) (f : FaultInfo) : State :=
  let n := (s.core w.core).order
  s.mapStrand w (fun t =>
    { (t.enter w.errand 1 f.cause.code t.pc f.addr (f.info.setWidth 64) 0).fenceReads n with lastFault := some f })

/-- Taking a fault of a strand (R60, R285): the runtime, or containment, by the strand's CR.SDELEG. Entry acts as a
fence.system.rw (R286). A fault that may abandon the errand waits like it, since the outcome that its caller receives is
a release (R40, R138). -/
def State.raise (s : State) (w : Who) (f : FaultInfo) : State :=
  let t := s.strand w
  if t.mode = .supervisor then (s.noteFault w f).supervisorFault w f
  else if t.toRuntime f.cause then s.onceSettled w (fun s => (s.noteFault w f).enterFault w f)
  else if w.errand ∧ neverRetried f.cause then s.onceSettled w (fun s => (s.noteFault w f).contain w f)
  else (s.noteFault w f).contain w f

/-- What a waiting instruction of the main strand had performed is forgotten when a fault ends it (R60, R160, R226). -/
def Core.forget (k : Core) : Core :=
  { k with barPhase := none, barCell := none, barLost := false, thawBound := none, rowUnits := [], gather := none }

def State.forget (s : State) : State :=
  if s.cur.errand then s else (s.undoMove s.cur.core).mapCore s.cur.core Core.forget

/-- Later reads come after the reads of earlier copies of the same bytes (R126). -/
def State.fenceReads (s : State) : State := s.setMe (s.me.fenceReads s.here.order)

/-- The outcome of an effect. -/
def conclude (s : State) : Effect → Host.Outcome State Fault Refusal
  | .retire s' => .next s'.retire
  | .goto s' a => .next (s'.retireTo a)
  | .became s' => .next s'
  | .raise f => .next (s.forget.raise s.cur f)
  | .wait s' w => .next (s'.setWait w)

/-- An instruction of a strand: the checks of R170 that the strand decides, then its own effect. -/
def issue (i : Instr) (s : State) (body : State → Effect) : Host.Outcome State Fault Refusal :=
  match s.issueFault i with
  | some f => conclude s (.raise f)
  | none => conclude s (body s)

/-- An effect that needs every earlier write of the strand performed (a fence, a release, a privileged form);
`link` also waits for the acknowledgements of R364. -/
def afterDrain (s : State) (link : Bool) (body : State → Effect) : Effect :=
  let s' := s.drainStrand s.cur
  if !s'.drained s.cur then .wait s' .sweep
  else if link && !s'.acknowledged s.cur then .wait s' .linkAcks
  else body s'

/-- An effect of a form that acts as a fence.span.rw or wider (R154, R155, R204, R286, R295). -/
def afterFence (s : State) (body : State → Effect) : Effect := afterDrain s true (fun s => body s.fenceReads)

/-- A fault that uses up what raised it: where it goes to the runtime, it is taken only once entry need not wait. -/
def raiseOnce (s : State) (f : FaultInfo) (used : State → State) : Effect :=
  if s.me.toRuntime f.cause then afterDrain s true (fun s => .became ((used s.forget).raise s.cur f))
  else .became ((used s.forget).raise s.cur f)

/-! Fetch (R122, R139, R143, R145, R165, R287). -/

structure Fetched where
  /-- The 64 bytes of the folio. -/
  folio : List Byte
  /-- The line filled into the L1I, and the translation learned. -/
  fill : Option CodeLine
  found : Option Found
  deriving DecidableEq, Repr

/-- The L1I line that holds a physical address. -/
def Core.codeLine (k : Core) (pa : Nat) : Option CodeLine := k.l1i.find? (fun l => decide (l.line = pa / 128))

/-- An older published version of a line that the fetch logic still holds (R139, R147): whether it does is a free
value. -/
def Core.oldLine (k : Core) (tick line : Nat) : Option CodeLine :=
  k.prefetched.find? (fun l => decide (l.line = line) && Config.keepsPrefetch tick line)

/-- The folio at a virtual address, in user mode. `va` is the code address that is due. -/
def State.fetchUser (s : State) (k : Core) (r : Resident) (va : Word) : Except FaultInfo Fetched :=
  match s.translate k r .user .exec va.toNat with
  | .error f => .error f
  | .ok (pa, found) =>
    let line := pa / 128
    let pick (bs : List Byte) : List Byte := (bs.drop (pa / 64 % 2 * 64)).take 64
    if memType pa ≠ .device ∨ !(s.attrAt pa).code then .error (plainFault .permExec va)
    else if !s.granted r.master pa .fetch then
      .error { plainFault .permExec va with denied := s.refusal r.master pa .fetch }
    else
      match k.codeLine pa with
      | some l => .ok ⟨pick l.bytes, none, some found⟩
      | none =>
        match k.oldLine s.ticks line with
        | some l => .ok ⟨pick l.bytes, none, some found⟩
        | none =>
        if s.mem.ubits.contains line then .error (plainFault .fetchUnpublished va)
        else if s.mem.ecc.contains line then .error (plainFault .dataUncorrectable va)
        else
          let bs := s.readPhys (line * 128) 128
          .ok ⟨pick bs, some ⟨line, bs⟩, some found⟩

/-- The folio at a code address for a strand: physical and inside the runtime region in supervisor mode, where its line may
be uncorrectable like any other (R60, R287). -/
def State.fetch (s : State) (w : Who) (a : Word) : Except FaultInfo Fetched :=
  let k := s.core w.core
  if (k.strand w.errand).mode = .supervisor then
    if runtimeRegion a.toNat = false then .error (plainFault .permExec a)
    else if s.mem.ecc.contains (a.toNat / 128) then .error (plainFault .dataUncorrectable a)
    else .ok ⟨s.readPhys (a.toNat / 64 * 64) 64, none, none⟩
  else s.fetchUser k (k.task.getD Resident.idle) a

/-- A core's die belongs to a frame's FDOM (R151, R153). -/
def FrameAttr.holdsCore (a : FrameAttr) (c : CoreId) : Bool := if dieOf c = 0 then a.die0 else a.die1

/-- How many 128-byte lines an L1I of 64 KiB holds (R12). -/
def l1iLines : Nat := 512

/-- The line that an L1I gives up for a new one: none while it has room, else a free choice, since R12 gives no replacement
(log entry 87). -/
def Core.victimLine (k : Core) (tick : Nat) (l : CodeLine) : Option Nat :=
  if k.l1i.length < l1iLines then none else (k.l1i[Config.l1iVictim tick l.line % k.l1i.length]?).map (·.line)

/-- A line comes into the L1I, in place of older versions and of the one that is given up. -/
def Core.fillLine (k : Core) (tick : Nat) (l : CodeLine) : Core :=
  { k with
    l1i := l :: k.l1i.filter (fun x => x.line != l.line && k.victimLine tick l != some x.line)
    prefetched := k.prefetched.filter (fun x => x.line != l.line) }

/-- A line comes into a core's L1I: one of a frozen frame is an F line of a core in its FDOM (R153), until the core gives it
up. -/
def State.fillLine (s : State) (c : CoreId) (l : CodeLine) : State :=
  let v := (s.core c).victimLine s.ticks l
  let a := s.frame (frameOf (l.line * 128))
  let kept := s.mem.fLines.filter (fun f => !(f.1 == .core c && v == some f.2.1))
  { s.mapCore c (·.fillLine s.ticks l) with
    mem := { s.mem with
      fLines := if decide (0 < a.fcount) && a.holdsCore c then (.core c, l.line, false) :: kept else kept } }

/-- The core's caches after a fetch. -/
def State.afterFetch (s : State) (c : CoreId) (x : Fetched) : State :=
  let s := match x.found with
    | some f => s.mapCore c (·.learn true f)
    | none => s
  match x.fill with
  | some l => s.fillLine c l
  | none => s

/-! Transfers of control (R169, R195). -/

def folioBase (a : Word) : Word := BitVec.ofNat 64 (a.toNat / 64 * 64)

/-- The head at a target is an LPAD with a label. -/
def landsOn (d : Except Reject Instr) (l : BitVec 16) : Bool :=
  match d with
  | .ok (.lpad m) => m == l
  | _ => false

/-- The checks on a target. A fetch fault there is no fault of the transferring instruction. -/
def State.checkTarget (s : State) (label : Option (BitVec 16)) (target : Word) : Option FaultInfo :=
  match s.fetch s.cur target with
  | .error _ => none
  | .ok x =>
    let i := target.toNat % 64 / 2
    if target.toNat % 2 = 1 ∨ headAt x.folio i = .notAHead then some (plainFault .illegalInstruction s.me.pc)
    else
      match label with
      | none => none
      | some l =>
        if s.me.mode = .user ∧ s.resident.lpad then
          if l ≠ 0 ∧ landsOn (decodeAt x.folio i) l = true then none
          else some (plainFault .lpadMismatch target)
        else none

/-- Transfer to a target; the label is checked for JR, CALLR and JT. -/
def transfer (s : State) (label : Option (BitVec 16)) (target : Word) : Effect :=
  match s.checkTarget label target with
  | some f => .raise f
  | none => .goto s target

/-- A branch target: halfwords from the folio of the instruction (R174). -/
def branchTarget (s : State) {n : Nat} (off : BitVec n) : Word := folioBase s.me.pc + off.signExtend 64 * 2

/-! The next instruction of a strand (R36, R167 to R171, R199). -/

/-- The fault of a head that decodes to nothing: a privileged class is told apart only after step 1 of R170. -/
def rejectFault (t : Strand) (h : Nat) (r : Reject) : FaultInfo :=
  if r ≠ .reservedClass ∧ r ≠ .tailLength ∧ h / 1024 = 0x3C ∧ t.mode = .user then
    plainFault .privilegedInstruction t.pc
  else plainFault .illegalInstruction t.pc

def isLpad : Instr → Bool
  | .lpad _ => true
  | _ => false

/-- A landing pad is due at the first head of an errand (R199). -/
def State.landingDue (s : State) (w : Who) : Bool :=
  let k := s.core w.core
  w.errand && decide (k.err.mode = .user) && (k.task.map (·.lpad)).getD false && (k.run.map (·.landing)).getD false

/-- Fetch and decode at a strand's pc: the instruction, with the successor latched (R168), or the fault. An errand's first
head that is itself illegal or privileged has two causes, that of R170 and LPAD_MISMATCH (R199), and the manual ranks
neither: DESIGN CHOICE, the model reports LPAD_MISMATCH (log entry 99). -/
def State.nextInstr (s : State) (w : Who) : Except FaultInfo (Instr × State) :=
  let t := s.strand w
  let i := t.pc.toNat % 64 / 2
  match s.fetch w t.pc with
  | .error f => .error f
  | .ok x =>
    if t.pc.toNat % 2 = 1 ∨ headAt x.folio i = .notAHead then .error (plainFault .illegalInstruction t.pc)
    else
      match decodeAt x.folio i with
      | .error r =>
        if s.landingDue w then .error (plainFault .lpadMismatch t.pc)
        else .error (rejectFault t (folioAt x.folio (2 * i) 2) r)
      | .ok ins =>
        if s.landingDue w && !isLpad ins then .error (plainFault .lpadMismatch t.pc)
        else
          .ok (ins, (s.afterFetch w.core x).mapStrand w (fun t => { t with npc := successor x.folio (folioBase t.pc) i }))

/-- The strand is at a FEND head, which is no instruction: what is due before its next instruction waits for that (R168). -/
def State.atFend (s : State) (w : Who) : Bool :=
  match s.nextInstr w with
  | .ok (.fend, _) => true
  | _ => false

/-- A strand has something to run (R28, R297, R303, R326, R327). On a core that is to halt, a FREEZE past its freeze point
still completes. -/
def State.runnable (s : State) (w : Who) : Bool :=
  let k := s.core w.core
  match (k.strand w.errand).mode with
  | .supervisor => true
  | .user =>
    !k.held && (!k.halting || s.frz.ops.any (fun o => decide (o.who = some w))) && !k.halted && !k.asleep
      && !k.loading
      && (match k.task with
          | none => false
          | some r => if w.errand then k.run.isSome else !r.ended)

/-- Time passes (R11), and cores that hold a task count cycles (R294). -/
def State.tick (s : State) : State :=
  { s with
    ticks := s.ticks + 1
    clock := s.clock + BitVec.ofNat 64 (Config.elapsed s.ticks)
    cores := s.cores.map (fun k => if k.task.isSome then
      let cycles := k.counters.set 0 (k.counters[0] + Config.cycles s.ticks)
      { k with counters := cycles.set 6 (cycles[6] + Config.stalls s.ticks) }
      else k) }

end Sys2Proof.Machine
end

