-- ==== Sys2Proof/Machine/Flags.lean ====
section
/-! DEFINITION. The machine has no condition flags (R182, R187). What it has of their kind is here: the sticky
fields of CR.SCOPEMISS and CR.FCAUSE (R80), set by scope misses (R132) and by retried faults, and cleared by
writing ones. -/

namespace Sys2Proof.Machine

/-- The code of a scope (R80). -/
def scopeCode : Scope → Nat
  | .core => 0 | .quire => 1 | .die => 2 | .device => 3 | .span => 4 | .system => 5

def scopeOfCode : Nat → Scope
  | 0 => .core | 1 => .quire | 2 => .die | 3 => .device | 4 => .span | _ => .system

/-- The wider of two scopes (R208). -/
def widerScope (a b : Scope) : Scope := if scopeCode a ≤ scopeCode b then b else a

/-- R130: the effective scope of an access to a physical address. -/
def effectiveScope (pa : Nat) (sc : Scope) : Scope :=
  match memType pa with
  | .host => .system
  | .peer => widerScope .span sc
  | _ => sc

/-- An instance of a scope holds both the writer of a tag and a core of this device. SPAN and SYSTEM hold the peer device
for an agent whose context is spanned (R124, R132). -/
def together (sc : Scope) (t : ScopeTag) (c : CoreId) (spanned : Bool) : Bool :=
  match sc with
  | .core => !t.away && t.core == some c
  | .quire => !t.away && t.core.any (fun d => quireOf d == quireOf c)
  | .die => !t.away && t.core.any (fun d => dieOf d == dieOf c)
  | .device => !t.away
  | .span | .system => !t.away || spanned

/-- A release tag and an acquire of a core match (R132); a writer on the peer device that reaches this device's memory is
of a spanned context. -/
def tagMatches (t : ScopeTag) (sc : Scope) (c : CoreId) (spanned : Bool) : Bool :=
  together t.scope t c true && together sc t c spanned

/-- CR.SCOPEMISS after a scope miss (R80). -/
def missWord (old : Word) (sc : Scope) (va : Word) : Word :=
  if entryBit old.toNat 63 then old ||| BitVec.twoPow 64 59
  else
    BitVec.ofNat 64 (2 ^ 63 + scopeCode sc * 2 ^ 60 + bitsOf old 59 59 * 2 ^ 59 + bitsOf va 56 0)

/-- CR.SCOPEMISS after an MTCR: ones clear MISS and OVER (R80, R205). -/
def scopemissWrite (old v : Word) : Word := old &&& ~~~(v &&& (BitVec.twoPow 64 63 ||| BitVec.twoPow 64 59))

/-- CR.FCAUSE after an MTCR: a one clears VALID (R80, R205). -/
def fcauseWrite (old v : Word) : Word := old &&& ~~~(v &&& BitVec.twoPow 64 63)

/-- The first release tag, in address order, that an acquire of some bytes finds and does not match (R132). -/
def State.mismatch (s : State) (c : CoreId) (spanned : Bool) (sc : Scope) (ps : List Piece) : Option ScopeTag :=
  (ps.filter (fun p => decide (memType p.pa = .device))).findSome? (fun p =>
    (blocksOf p.pa p.len 32).findSome? (fun b =>
      match assocGet s.mem.tags b with
      | some t => if tagMatches t sc c spanned then none else some t
      | none => none))

/-- What an acquire at an address leaves in CR.SCOPEMISS (R132). -/
def State.acquire (s : State) (sc : Option Scope) (va : Word) (ps : List Piece) : State :=
  match sc with
  | none => s
  | some sc =>
    match s.mismatch s.cur.core s.resident.spanned sc ps with
    | some t => s.setHere { s.here with scopemiss := missWord s.here.scopemiss t.scope va }
    | none => s

end Sys2Proof.Machine
end

