-- ==== Sys2Proof/Machine/Access.lean ====
section
/-! DEFINITION. Accesses of a strand to memory and local stores: finding the bytes, waiting for older writes,
forwarding, reading, retiring writes, full/empty units (R55 to R59, R111 to R116, R128 to R130, R157, R207). -/

namespace Sys2Proof.Machine

/-- What an access comes to before its effect. -/
inductive Got (α : Type) where
  | ok (x : α)
  | fault (f : FaultInfo)
  | wait (s : State) (w : WaitOn)

def Got.andThen {α β : Type} (g : Got α) (f : α → Got β) : Got β :=
  match g with
  | .ok x => f x
  | .fault e => .fault e
  | .wait s w => .wait s w

/-- The effect of an instruction whose access went through. -/
def Got.effect {α : Type} (g : Got α) (f : α → Effect) : Effect :=
  match g with
  | .ok x => f x
  | .fault e => .raise e
  | .wait s w => .wait s w

/-- Where the bytes of an access are. -/
inductive Loc where
  | mem (a : Access)
  | store (c : CoreId) (l : LocalAddr)
  deriving DecidableEq, Repr

/-- An access that passed its checks: its range of R55 and its bytes. -/
structure Operand where
  va : Word
  /-- The row that a fault of its data reports; 0xFF is none (R60). -/
  row : Nat := 0xFF
  space : Space
  lo : Nat
  len : Nat
  loc : Loc
  deriving DecidableEq, Repr

def Operand.range (o : Operand) : Space × Nat × Nat := (o.space, o.lo, o.lo + o.len)

/-- The physical bytes of an operand, as ranges. -/
def Operand.physical (o : Operand) : List (Space × Nat × Nat) :=
  match o.loc with
  | .mem a => a.pieces.map (fun p => (.phys, p.pa, p.pa + p.len))
  | .store _ _ => []

/-- The range of R55 of an operand, with its physical bytes: what a write that is performed at once follows (R126). -/
def Operand.ranges (o : Operand) : List (Space × Nat × Nat) := o.range :: o.physical

/-- The lines of peer-device memory that some operands touch: a request of one line is one transaction (R363). -/
def linesOver (os : List Operand) : List Nat :=
  (os.flatMap (fun o => o.physical.flatMap (fun r =>
    if memType r.2.1 = .peer then blocksOf r.2.1 (r.2.2 - r.2.1) 128 else []))).eraseDups

/-- The requests that reads, atomics and copies send over the link (R361, R363). -/
def State.request (s : State) (os : List Operand) : State := s.sendLines (linesOver os).length

/-- Find and check the `n` bytes at an address: a local address when `sp` (R207). No byte is touched yet. A gang that is
placed and has not started is at its place like a started one: R33 and R109 do not set it apart (DESIGN CHOICE, log entry
48). -/
def State.operand (s : State) (sp : Bool) (kind : Kind) (addr : Word) (n : Nat) : Got Operand :=
  if sp then
    match s.findLocal s.cur.core s.resident addr n with
    | .error f => .fault f
    | .ok .wait => .wait s .migration
    | .ok (.store c l) => .ok { va := addr, space := .store l.peer, lo := l.off, len := n, loc := .store c l }
  else
    match s.checkAccess s.here s.me s.resident kind addr n with
    | .error f => .fault f
    | .ok a =>
      if a.pieces.any (fun p => decide (memType p.pa = .peer)) && !s.linkCarries then .wait s .linkAcks
      else .ok { va := addr, space := if s.me.physical then .phys else .virt, lo := addr.toNat, len := n, loc := .mem a }

/-- What the core's TLBs learn from an access (R311). -/
def State.learnFrom (s : State) (o : Operand) : State :=
  match o.loc with
  | .mem a => s.setHere (a.found.foldl (fun k f => k.learn false f) s.here)
  | .store _ _ => s

/-- The bytes as they stand at their homes. -/
def State.bytesAt (s : State) (o : Operand) : List Byte :=
  match o.loc with
  | .mem a => s.readAccess a
  | .store c l => (s.core c).readLocal l.off o.len

/-- An older unfinished copy's destination overlaps a range: reads wait for it (R56). Errands have no copies. -/
def State.copyInto (s : State) (r : Space × Nat × Nat) : Bool :=
  !s.cur.errand && s.here.copies.any (fun x => rangesMeet x.drange r)

/-- A copy reads or writes some bytes: a write to them that is performed at once waits for it (R56, R59, R126). -/
def State.copyOver (s : State) (rs : List (Space × Nat × Nat)) : Bool :=
  !s.cur.errand && s.here.copies.any (fun x => anyMeet (x.sources ++ x.dests) rs)

/-- A copy that a fence of kind .r or .rw follows has some bytes still to read: a later read of them sees none older, so it
waits (R126). -/
def State.copyReading (s : State) (rs : List (Space × Nat × Nat)) : Bool :=
  !s.cur.errand && s.here.copies.any (fun x => decide (x.seq < s.me.rfloor) && anyMeet x.sources rs)

/-- The written bytes of a store, in address order. -/
def PendingWrite.bytes (w : PendingWrite) : List Byte := w.segs.flatMap (·.bytes)

/-- A write goes to the local store of a gang that an operand names (R109); other destinations have no gang. -/
def PendingWrite.sameGang (w : PendingWrite) (o : Operand) : Bool :=
  w.segs.all (fun g => match g.dst, o.loc with
    | .store k _ _, .store _ l => k == l.key
    | _, _ => true)

/-- R57: the newest undrained write that overlaps a scalar load is a scalar store that covers it, with no part
performed. -/
def State.forwarded (s : State) (o : Operand) : Option (List Byte) :=
  match (s.here.writes.filter (fun w => w.errand == s.cur.errand && rangesMeet w.range o.range)).getLast? with
  | some w =>
    if !w.discard ∧ w.sameGang o = true ∧ w.bytes.length = w.hi - w.lo ∧ w.hi - w.lo ≤ 8 ∧ w.lo ≤ o.lo ∧ o.lo + o.len ≤ w.hi ∧ s.copyInto o.range = false
        ∧ s.copyReading o.ranges = false then
      some ((w.bytes.drop (o.lo - w.lo)).take o.len)
    else none
  | none => none

/-- Wait until the older writes that an access depends on have drained (R56). -/
def State.ready (s : State) (ranges : List (Space × Nat × Nat)) (floor : Nat) : Got State :=
  if ranges.any s.copyInto then .wait s .copies
  else
    match s.settle s.cur ranges floor with
    | (s', true) => .ok s'
    | (s', false) => .wait s' .sweep

/-- The device pieces of an operand, which alone have tags. -/
def Operand.pieces (o : Operand) : List Piece :=
  match o.loc with
  | .mem a => a.pieces
  | .store _ _ => []

/-- What the data of an operand meets when it is touched (R60, R317). -/
def State.dataFault (s : State) (kind : Kind) (o : Operand) : Option FaultInfo :=
  let found : Option FaultInfo :=
    match o.loc with
    | .mem a => s.accessFault s.me s.resident kind o.va a
    | .store c l =>
      match kind.readsData, (s.core c).badLocal l.off o.len with
      | true, some off => some (plainFault .dataUncorrectable (o.va + BitVec.ofNat 64 (off - l.off)))
      | _, _ => none
  found.map (fun f => f.atRow o.row)

/-- Operands whose checks and waits are over are touched: their data is read unless an older access of the strand comes
first (R56, R126), and the first of them that meets a fault decides. -/
def State.touch (s : State) (kind : Kind) (os : List Operand) : Got Unit :=
  if s.copyReading (os.flatMap Operand.ranges) then .wait s .copies
  else if s.sentTo (os.flatMap Operand.physical) then .wait s .linkAcks
  else
    match os.findSome? (s.dataFault kind) with
    | some f => .fault f
    | none => .ok ()

/-- A qualified read of local store: one unit (R112, R113). -/
def State.unitRead (s : State) (c : CoreId) (off n : Nat) (q : Fe) : Option State :=
  match q with
  | .nf => some s
  | .fe => if (s.core c).allFull off n then some s else none
  | .fec => if (s.core c).allFull off n then some (s.mapCore c (·.setFull off n false)) else none
  | .ef => none

/-- The writes that a qualified read waits for as well: it sets its granules, so that it is a write too (R112, R129, R137).
-/
def State.unitFloor (s : State) (q : Fe) : Nat := if q = .nf then 0 else s.me.wfloor

/-- The unit of a read, where its granules allow it; memory has none. -/
def State.unitAt (s : State) (o : Operand) (q : Fe) : Option State :=
  match o.loc with
  | .mem _ => some s
  | .store c l => s.unitRead c l.off o.len q

/-- A scalar load's bytes (R210): checks, older writes, the granules, and then the data. -/
def State.load (s : State) (sp : Bool) (addr : Word) (n : Nat) (q : Fe) (acq : Option Scope) :
    Got (State × List Byte) :=
  (s.operand sp .read addr n).andThen (fun o =>
    let s := s.learnFrom o
    match q, s.forwarded o with
    | .nf, some bs => .ok (s, bs)
    | _, _ =>
      (s.ready [o.range] (s.unitFloor q)).andThen (fun s =>
        match s.unitAt o q with
        | none => .wait s .fullEmpty
        | some t =>
          (s.touch .read [o]).andThen (fun _ =>
            .ok ((t.request [o]).acquire acq o.va o.pieces, s.bytesAt o))))

/-- The parts of a write by destination. -/
def Operand.segs (o : Operand) (bs : List Byte) : List Seg :=
  match o.loc with
  | .mem a => a.pieces.map (fun p => ⟨.phys p.pa, (bs.drop p.at_).take p.len⟩)
  | .store _ l => [⟨.store l.key l.peer l.off, bs⟩]

/-- A write retires and waits to drain (R58, R59). -/
def State.pushWrite (s : State) (range : Space × Nat × Nat) (segs : List Seg) (rel : Option Scope) (discard : Bool) :
    State :=
  let k := s.here
  s.setHere { k with
    order := k.order + 1
    writes := k.writes ++ [{ errand := s.cur.errand, space := range.1, lo := range.2.1, hi := range.2.2, segs := segs,
                             rel := rel, discard := discard, master := s.resident.master, seq := k.order,
                             floor := if rel.isSome then k.order else s.me.wfloor, fence := s.me.wfloor }] }

/-- The open sweeps of frames that an operand writes (R157). -/
def State.sweepIn (s : State) (o : Operand) : Bool :=
  match o.loc with
  | .mem a => s.sweepOpen a
  | .store _ _ => false

/-- A scalar store's effect (R211). A qualified store is a release at the wider of DEVICE and the scope that it names,
and is performed when it retires (R112, R137, R208). -/
def State.store (s : State) (sp : Bool) (addr : Word) (bs : List Byte) (q : Fe) (rel : Option Scope) : Effect :=
  (s.operand sp .write addr bs.length).effect (fun o =>
    let s := s.learnFrom o
    if s.sweepIn o then .wait s .sweep
    else
      match q, o.loc with
      | .ef, .store c l =>
        afterDrain s (rel.any wideScope) (fun s =>
          if s.copyOver o.ranges then .wait s .copies
          else if (s.core c).allEmpty l.off bs.length then
            .retire (s.mapCore c (fun k => (k.writeLocal l.off bs false).setFull l.off bs.length true))
          else .wait s .fullEmpty)
      | _, _ => .retire (s.pushWrite o.range (o.segs bs) rel false))

/-- The scope of an acquire. -/
def acqScope : MemOrd → Option Scope
  | .acq sc | .acqrel sc => some sc
  | _ => none

def relScope : MemOrd → Option Scope
  | .rel sc | .acqrel sc => some sc
  | _ => none

/-- The address of an operand (R207). -/
def State.addressOf (s : State) {n : Nat} (gb : GReg) (off : BitVec n) : Word := s.g gb + off.signExtend 64

end Sys2Proof.Machine
end

