-- ==== Sys2Proof/Machine/LoadStore.lean ====
section
/-! DEFINITION. Scalar loads and stores, classes 0x14 to 0x19 (R209 to R211). -/

namespace Sys2Proof.Machine

def sizeBytes : Size → Nat
  | .b => 1 | .h => 2 | .w => 4 | .d => 8

/-- The value of a load: sign- or zero-extended (R210). -/
def loadValue (bs : List Byte) (sx : Bool) : Word :=
  let m := 8 * bs.length
  if sx then BitVec.ofInt 64 (twos m (leNat bs)) else wordOf bs

/-- The low `n` bytes of a register, in memory order. -/
def storeBytes (v : Word) (n : Nat) : List Byte := (le8 v).take n

def execLd (gd : GReg) (sz : Size) (sx : Bool) (gb : GReg) (ord : MemOrd) (off : BitVec 20) (s : State) :
    Host.Outcome State Fault Refusal :=
  issue (.ld gd sz sx gb ord off) s (fun s =>
    (s.load false (s.addressOf gb off) (sizeBytes sz) .nf (acqScope ord)).effect (fun r =>
      .retire (r.1.setG gd (loadValue r.2 sx))))

def execSt (gs : GReg) (sz : Size) (gb : GReg) (ord : MemOrd) (off : BitVec 20) (s : State) :
    Host.Outcome State Fault Refusal :=
  issue (.st gs sz gb ord off) s (fun s =>
    s.store false (s.addressOf gb off) (storeBytes (s.g gs) (sizeBytes sz)) .nf (relScope ord))

def execLdl (gd : GReg) (sz : Size) (sx : Bool) (gb : GReg) (ord : MemOrd) (q : Fe) (off : BitVec 20) (s : State) :
    Host.Outcome State Fault Refusal :=
  issue (.ldl gd sz sx gb ord q off) s (fun s =>
    (s.load true (s.addressOf gb off) (sizeBytes sz) q (acqScope ord)).effect (fun r =>
      .retire (r.1.setG gd (loadValue r.2 sx))))

def execStl (gs : GReg) (sz : Size) (gb : GReg) (ord : MemOrd) (q : Fe) (off : BitVec 20) (s : State) :
    Host.Outcome State Fault Refusal :=
  issue (.stl gs sz gb ord q off) s (fun s =>
    s.store true (s.addressOf gb off) (storeBytes (s.g gs) (sizeBytes sz)) q (relScope ord))

/-- FLD and FST move 4 or 8 bytes (R209). -/
def floatBytes (d : Bool) : Nat := if d then 8 else 4

def execFld (fd : FReg) (d sp : Bool) (gb : GReg) (ord : MemOrd) (q : Fe) (off : BitVec 20) (s : State) :
    Host.Outcome State Fault Refusal :=
  issue (.fld fd d sp gb ord q off) s (fun s =>
    (s.load sp (s.addressOf gb off) (floatBytes d) q (acqScope ord)).effect (fun r =>
      .retire (r.1.setF fd (wordOf r.2))))

def execFst (fs : FReg) (d sp : Bool) (gb : GReg) (ord : MemOrd) (q : Fe) (off : BitVec 20) (s : State) :
    Host.Outcome State Fault Refusal :=
  issue (.fst fs d sp gb ord q off) s (fun s =>
    s.store sp (s.addressOf gb off) (storeBytes (s.f fs) (floatBytes d)) q (relScope ord))

end Sys2Proof.Machine
end

