-- ==== Sys2Proof/Machine/Atomic.lean ====
section
/-! DEFINITION. Atomics, class 0x1A (R117, R127, R212, R213). -/

namespace Sys2Proof.Machine

def size3Bytes : Size3 → Nat
  | .b => 1 | .h => 2 | .w => 4 | .d => 8 | .q => 16

/-- The value that an atomic writes, from the old value, the source and the compare value, each of `n` bytes; none
where a compare fails. -/
def atomicNew (op : AOp) (n : Nat) (old src cmp : Nat) : Option Nat :=
  let m := 8 * n
  match op with
  | .swap => some src
  | .cas => if old = cmp then some src else none
  | .add => some ((old + src) % 2 ^ m)
  | .and => some (old &&& src)
  | .or => some (old ||| src)
  | .xor => some (old ^^^ src)
  | .min => some (if twos m src < twos m old then src else old)
  | .max => some (if twos m old < twos m src then src else old)
  | .minu => some (min old src)
  | .maxu => some (max old src)
  | .fadd => some (codeAdd .fp32 .rne false old src)

/-- The second register of a pair. -/
def pairReg (r : GReg) : GReg := Fin.ofNat 32 (r.val + 1)

/-- The low `n` bytes of a register, or of a pair for 16. -/
def State.pairValue (s : State) (r : GReg) (n : Nat) : Nat :=
  if n = 16 then (s.g r).toNat + (s.g (pairReg r)).toNat * 2 ^ 64 else (s.g r).toNat % 2 ^ (8 * n)

/-- The old value goes to the destination; g0 discards a pair whole. -/
def State.setPair (s : State) (r : GReg) (n v : Nat) : State :=
  if r.val = 0 then s
  else if n = 16 then (s.setG r (BitVec.ofNat 64 v)).setG (pairReg r) (BitVec.ofNat 64 (v / 2 ^ 64))
  else s.setG r (BitVec.ofNat 64 v)

/-- The atomic size of where an operand lies (R107). -/
def Operand.atomicSize (o : Operand) : Nat :=
  match o.loc with
  | .store _ _ => 64
  | .mem a => (a.pieces.map (fun p => (memType p.pa).atomicSize)).foldl min 64

/-- The widest effective scope of a release over an operand (R130). -/
def Operand.scope (o : Operand) (sc : Scope) : Scope :=
  o.pieces.foldl (fun w p => widerScope w (effectiveScope p.pa sc)) sc

/-- Bytes written at once where an operand lies; in the runtime region the runtime master stands for the task's (R290). -/
def State.writeNow (s : State) (o : Operand) (bs : List Byte) (rel : Option Scope) : State :=
  match o.loc with
  | .store c l => s.mapCore c (·.writeLocal l.off bs false)
  | .mem a =>
    a.pieces.foldl (fun s p =>
      s.writePhys p.pa ((bs.drop p.at_).take p.len) (if runtimeAccess s.me p.pa then none else some s.resident.master)
        (coreTag rel s.cur.core)) s

/-- One atomic step on an operand: the old value and the state after it. -/
def State.atomicStep (s : State) (o : Operand) (op : AOp) (src cmp : Nat) (rel : Option Scope) : State × Nat :=
  let old := leNat (s.bytesAt o)
  match atomicNew op o.len old src cmp with
  | some v => (s.writeNow o (natLe o.len v) rel, old)
  | none => (s, old)

/-- An atomic of R213: its address, its checks, the atomic size, its waits, and then the bytes. -/
def State.atomic (s : State) (op : AOp) (gd : GReg) (sz : Size3) (addr : Word) (gs gc : GReg) (ord : MemOrd) (sp : Bool) :
    Effect :=
  let n := size3Bytes sz
  if addr.toNat % n ≠ 0 then .raise (plainFault .misaligned addr)
  else
    (s.operand sp .both addr n).effect (fun o =>
      if o.atomicSize < n then .raise (plainFault .misaligned addr)
      else
        let s := s.learnFrom o
        if s.sweepIn o then .wait s .sweep
        else
          let act (s : State) : Effect :=
            if s.copyOver o.ranges then .wait s .copies
            else if s.sentOver o.physical then .wait s .linkAcks
            else
              (s.touch .both [o]).effect (fun _ =>
                let s := (s.request [o]).acquire (acqScope ord) o.va o.pieces
                let r := s.atomicStep o op (s.pairValue gs n) (s.pairValue gc n) (relScope ord)
                .retire (r.1.setPair gd n r.2))
          match relScope ord with
          | some sc => afterDrain s (wideScope (o.scope sc)) act
          | none => (s.ready o.ranges s.me.wfloor).effect act)

def execAswap (gd : GReg) (sz : Size3) (gb gs : GReg) (ord : MemOrd) (sp : Bool) (off : BitVec 32) (s : State) :
    Host.Outcome State Fault Refusal :=
  issue (.aswap gd sz gb gs ord sp off) s (fun s => s.atomic .swap gd sz (s.addressOf gb off) gs 0 ord sp)

def execAcas (gd : GReg) (sz : Size3) (gb gs gc : GReg) (ord : MemOrd) (sp : Bool) (off : BitVec 32) (s : State) :
    Host.Outcome State Fault Refusal :=
  issue (.acas gd sz gb gs gc ord sp off) s (fun s => s.atomic .cas gd sz (s.addressOf gb off) gs gc ord sp)

def execAadd (gd : GReg) (sz : Size3) (gb gs : GReg) (ord : MemOrd) (sp : Bool) (off : BitVec 32) (s : State) :
    Host.Outcome State Fault Refusal :=
  issue (.aadd gd sz gb gs ord sp off) s (fun s => s.atomic .add gd sz (s.addressOf gb off) gs 0 ord sp)

def execAand (gd : GReg) (sz : Size3) (gb gs : GReg) (ord : MemOrd) (sp : Bool) (off : BitVec 32) (s : State) :
    Host.Outcome State Fault Refusal :=
  issue (.aand gd sz gb gs ord sp off) s (fun s => s.atomic .and gd sz (s.addressOf gb off) gs 0 ord sp)

def execAor (gd : GReg) (sz : Size3) (gb gs : GReg) (ord : MemOrd) (sp : Bool) (off : BitVec 32) (s : State) :
    Host.Outcome State Fault Refusal :=
  issue (.aor gd sz gb gs ord sp off) s (fun s => s.atomic .or gd sz (s.addressOf gb off) gs 0 ord sp)

def execAxor (gd : GReg) (sz : Size3) (gb gs : GReg) (ord : MemOrd) (sp : Bool) (off : BitVec 32) (s : State) :
    Host.Outcome State Fault Refusal :=
  issue (.axor gd sz gb gs ord sp off) s (fun s => s.atomic .xor gd sz (s.addressOf gb off) gs 0 ord sp)

def execAmin (gd : GReg) (sz : Size3) (gb gs : GReg) (ord : MemOrd) (sp : Bool) (off : BitVec 32) (s : State) :
    Host.Outcome State Fault Refusal :=
  issue (.amin gd sz gb gs ord sp off) s (fun s => s.atomic .min gd sz (s.addressOf gb off) gs 0 ord sp)

def execAmax (gd : GReg) (sz : Size3) (gb gs : GReg) (ord : MemOrd) (sp : Bool) (off : BitVec 32) (s : State) :
    Host.Outcome State Fault Refusal :=
  issue (.amax gd sz gb gs ord sp off) s (fun s => s.atomic .max gd sz (s.addressOf gb off) gs 0 ord sp)

def execAminu (gd : GReg) (sz : Size3) (gb gs : GReg) (ord : MemOrd) (sp : Bool) (off : BitVec 32) (s : State) :
    Host.Outcome State Fault Refusal :=
  issue (.aminu gd sz gb gs ord sp off) s (fun s => s.atomic .minu gd sz (s.addressOf gb off) gs 0 ord sp)

def execAmaxu (gd : GReg) (sz : Size3) (gb gs : GReg) (ord : MemOrd) (sp : Bool) (off : BitVec 32) (s : State) :
    Host.Outcome State Fault Refusal :=
  issue (.amaxu gd sz gb gs ord sp off) s (fun s => s.atomic .maxu gd sz (s.addressOf gb off) gs 0 ord sp)

def execAfadd (gd : GReg) (sz : Size3) (gb gs : GReg) (ord : MemOrd) (sp : Bool) (off : BitVec 32) (s : State) :
    Host.Outcome State Fault Refusal :=
  issue (.afadd gd sz gb gs ord sp off) s (fun s => s.atomic .fadd gd sz (s.addressOf gb off) gs 0 ord sp)

end Sys2Proof.Machine
end

