-- ==== Sys2Proof/Machine/Control.lean ====
section
/-! DEFINITION. Branches, calls, returns, jump tables, LPAD, EXIT and EDONE, classes 0x0C to 0x12 (R28, R34, R79,
R190 to R197, R287). -/

namespace Sys2Proof.Machine

/-- A branch condition on full registers (R190). -/
def condHolds (c : Cond) (a b : Word) : Bool :=
  match c with
  | .eq => a == b
  | .ne => a != b
  | .lt => decide (a.toInt < b.toInt)
  | .ge => decide (b.toInt ≤ a.toInt)
  | .ltu => decide (a.toNat < b.toNat)
  | .geu => decide (b.toNat ≤ a.toNat)

def execB (cond : Cond) (ga gb : GReg) (off : BitVec 27) (s : State) : Host.Outcome State Fault Refusal :=
  issue (.b cond ga gb off) s (fun s =>
    if condHolds cond (s.g ga) (s.g gb) then transfer s none (branchTarget s off) else .retire s)

/-- BRC (R63, R191): the main strand's rotation base steps back; a fault of the target check changes nothing. -/
def execBrc (gc : GReg) (off : BitVec 32) (s : State) : Host.Outcome State Fault Refusal :=
  issue (.brc gc off) s (fun s =>
    let c := s.g gc - 1
    let s' := s.setG gc c
    let s' := if s.cur.errand then s' else s'.setHere { s'.here with rot := s'.here.rot - 1 }
    if c ≠ 0 then transfer s' none (branchTarget s off) else .retire s')

def execJ (off : BitVec 32) (s : State) : Host.Outcome State Fault Refusal :=
  issue (.j off) s (fun s => transfer s none (branchTarget s off))

/-! The return store (R34, R79, R192, R287). -/

/-- The main strand's store in user mode has 32 entries and a spill area. -/
def State.spills (s : State) : Bool := !s.cur.errand && decide (s.me.mode = .user)

/-- A return address in the 8-entry stores: the oldest entry goes when there is a ninth. -/
def pushShort (l : List Word) (a : Word) : List Word := (if 8 ≤ l.length then l.drop 1 else l) ++ [a]

/-- The address of a spill entry. -/
def Strand.spillAt (t : Strand) (n : Nat) : Word := t.rspill + BitVec.ofNat 64 (8 * n)

/-- A return address in bits 56:0 (R79). -/
def linkOf (a : Word) : Word := BitVec.ofNat 64 (bitsOf a 56 0)

/-- The successor is pushed, with a spill write where the store is full; then the strand goes on at the target. -/
def State.call (s : State) (label : Option (BitVec 16)) (target : Word) : Effect :=
  match s.checkTarget label target with
  | some f => .raise f
  | none =>
    let t := s.me
    if t.mode = .supervisor then .goto (s.setMe { t with sret := pushShort t.sret t.npc }) target
    else if s.cur.errand then .goto (s.setMe { t with ret := pushShort t.ret t.npc }) target
    else if t.ret.length < 32 then .goto (s.setMe { t with ret := t.ret ++ [t.npc] }) target
    else
      (s.operand false .write (t.spillAt t.spilled.toNat) 8).effect (fun o =>
        let s := s.learnFrom o
        if s.sweepIn o then .wait s .sweep
        else
          let s := s.pushWrite o.range (o.segs (le8 (linkOf (t.ret.headD 0)))) none false
          .goto (s.setMe { s.me with ret := t.ret.drop 1 ++ [t.npc], spilled := t.spilled + 1 }) target)

def execCall (off : BitVec 32) (s : State) : Host.Outcome State Fault Refusal :=
  issue (.call off) s (fun s => s.call none (branchTarget s off))

def execJr (ga : GReg) (label : BitVec 16) (s : State) : Host.Outcome State Fault Refusal :=
  issue (.jr ga label) s (fun s => transfer s (some label) (s.g ga))

def execCallr (ga : GReg) (label : BitVec 16) (s : State) : Host.Outcome State Fault Refusal :=
  issue (.callr ga label) s (fun s => s.call (some label) (s.g ga))

/-- RET: the newest held entry, or else the last spilled one. -/
def execRet (s : State) : Host.Outcome State Fault Refusal :=
  issue .ret s (fun s =>
    let t := s.me
    if t.mode = .supervisor then
      match t.sret.getLast? with
      | some a => transfer (s.setMe { t with sret := t.sret.dropLast }) none a
      | none => .raise (plainFault .returnUnderflow 0)
    else
      match t.ret.getLast? with
      | some a => transfer (s.setMe { t with ret := t.ret.dropLast }) none a
      | none =>
        if s.cur.errand ∨ t.spilled = 0 then .raise (plainFault .returnUnderflow 0)
        else
          (s.load false (t.spillAt (t.spilled.toNat - 1)) 8 .nf none).effect (fun r =>
            transfer (r.1.setMe { r.1.me with spilled := t.spilled - 1 }) none (linkOf (wordOf r.2))))

/-- JT (R193): an entry of a table of signed offsets. -/
def execJt (gi : GReg) (bound label : BitVec 16) (off : BitVec 32) (s : State) : Host.Outcome State Fault Refusal :=
  issue (.jt gi bound label off) s (fun s =>
    let idx := (s.g gi).toNat
    if bound.toNat ≤ idx then .raise (plainFault .jtBound 0)
    else
      let tbl := folioBase s.me.pc + off.signExtend 64
      (s.load false (tbl + BitVec.ofNat 64 (4 * idx)) 4 .nf none).effect (fun r =>
        transfer r.1 (some label) (tbl + loadValue r.2 true)))

def execLpad (label : BitVec 16) (s : State) : Host.Outcome State Fault Refusal :=
  issue (.lpad label) s (fun s => .retire s)

/-! The end of a task and of an errand. -/

/-- The address that a batch failure reports (R319). -/
def batchAddr (f : FaultInfo) : Word := if f.cause = .peerAbsent ∨ f.cause = .dataUncorrectable then 0 else f.addr

/-- What a BWAIT or EXIT raises for a failed batch (R217): the first failure, with the batch's number for a row (R292, R319).
-/
def batchFault (n : Nat) (f : FaultInfo) : FaultInfo :=
  { f.atRow n with addr := batchAddr f, kind := 2, denied := none }

/-- How long ago a batch was sealed, in batches; the open one is the youngest. -/
def Core.batchAge (k : Core) (b : Batch) : Nat := (b.num.map (fun n => (k.batchCtr - n).toNat)).getD 0

/-- The earliest sealed of some failed batches (R217). -/
def Core.firstFailed (k : Core) (bs : List Batch) : Option Batch :=
  bs.foldl (fun best b => match best with
    | none => some b
    | some x => if k.batchAge x < k.batchAge b then some b else best) none

/-- The reported failure is forgotten: that batch alone is then counted complete (R217). -/
def Core.clearFailed (k : Core) (b : Batch) : Core := { k with batches := k.batches.filter (fun x => x.num != b.num) }

/-- EXIT (R28, R196, R217): waits for drains, copies and reply slots, raises failed batches, then ends the task. It waits
for the acknowledgements of the link too, since every event of the task comes before the completion record (R353), and for
faults of its earlier writes, which the boundary raises first (R322). Whether a failed batch is raised before the reply
slots have left PENDING the manual does not say: DESIGN CHOICE, it is (log entry 75). The open batch has no number: DESIGN
CHOICE, its failure reports the value of the batch counter, which sealing it would give (log entry 91). -/
def execExit (s : State) : Host.Outcome State Fault Refusal :=
  issue .exit s (fun s =>
    afterDrain s true (fun s =>
      let k := s.here
      if !k.copies.isEmpty || !k.deferred.isEmpty then .wait s .taskEnd
      else
        match k.firstFailed k.batches with
        | some b =>
          .became ((s.setHere (k.clearFailed b)).raise s.cur
            (batchFault (b.num.getD k.batchCtr).toNat b.fault))
        | none =>
          if k.slots.toList.any (fun x => x.status == .pending) then .wait s .taskEnd
          else
            let s := s.retire
            let s := s.setHere { s.here with task := s.here.task.map (fun r => { r with ended := true }) }
            .became (s.retireGang s.resident.key)))

/-- EDONE (R29, R38, R40, R197, R202): ENDED unless a REPLY has delivered; then the next errand. A fault of the errand's
writes that the main strand can no longer meet is raised first (R322). -/
def execEdone (s : State) : Host.Outcome State Fault Refusal :=
  issue .edone s (fun s =>
    afterDrain s true (fun s =>
      let run := s.here.run
      let key := s.resident.key
      if s.owesFault s.cur.core then .wait s .taskEnd
      else
        let s := s.retire
        let s := s.setHere s.here.endErrand
        let s := match run with
          | some r => if r.replied then s else s.send ⟨r.caller, .ended, 0⟩
          | none => s
        .became (s.retireGang key)))

end Sys2Proof.Machine
end

