-- ==== Sys2Proof/Machine/Operands.lean ====
section
/-! DEFINITION. Operand forms: elements, rows, masks and scales of tiles and accumulators (R64, R69 to R73, R230,
R251). -/

namespace Sys2Proof.Machine

/-! Elements of a row (R71). -/

/-- The lowest `n` elements of `bits` bits. -/
def splitCodes (bits : Nat) : Nat → Nat → List Nat
  | 0, _ => []
  | n + 1, x => x % 2 ^ bits :: splitCodes bits n (x / 2 ^ bits)

def packCodes (bits : Nat) : List Nat → Nat
  | [] => 0
  | c :: l => c % 2 ^ bits + 2 ^ bits * packCodes bits l

def typeBits (ty : Ty) : Nat := (Ty.fmt ty).bits

/-- The K element codes of a row. -/
def rowCodes (ty : Ty) (r : Row) : List Nat := splitCodes (typeBits ty) ty.elems r.toNat

/-- A row of element codes; MXFP6 padding is zero (R72). -/
def rowOf (ty : Ty) (l : List Nat) : Row := BitVec.ofNat 2048 (packCodes (typeBits ty) l)

/-- Element k of row i, as a code (R71). -/
def Tile.code (t : Tile) (ty : Ty) (i : Fin 64) (k : Nat) : Nat :=
  t.rows[i].toNat / 2 ^ (typeBits ty * k) % 2 ^ typeBits ty

def rowBytes (r : Row) : List Byte := natLe 256 r.toNat

def rowOfBytes (bs : List Byte) : Row := BitVec.ofNat 2048 (leNat bs)

/-! Scales (R73). -/

def scaleAt (x : ScaleRow) (b : Nat) : Nat := x.toNat / 2 ^ (8 * b) % 256

def scaleRowOf (l : List Nat) : ScaleRow := BitVec.ofNat 128 (packCodes 8 l)

/-- B of R233, the scale bytes of a row. -/
def scaleBytes (ty : Ty) : Nat := if ty = .e2m1 then 16 else if Ty.scaled ty then 8 else 0

/-- Values of a row's elements, with their block scales (R84). -/
def rowValues (ty : Ty) (r : Row) (x : ScaleRow) : List Val :=
  (rowCodes ty r).mapIdx (fun k c => elementValue ty (scaleAt x (k / 32)) c)

/-! Whole tiles. -/

/-- MXFP6 padding zero in every row (R72). -/
def clearPadding (ty : Ty) (r : Row) : Row := if ty = .e2m3 ∨ ty = .e3m2 then (r.setWidth 1536).setWidth 2048 else r

/-- The sidecar bytes that a written type leaves: none for an unscaled type, bytes 0 to 7 for MXFP8 and MXFP6
(R73). -/
def clearScales (ty : Ty) (x : ScaleRow) : ScaleRow := x &&& BitVec.ofNat 128 (2 ^ (8 * scaleBytes ty) - 1)

/-- The sidecar of a tile that is written as a type, in every row (R73, R234). -/
def Tile.clearSide (t : Tile) (ty : Ty) : Tile := { t with side := t.side.map (clearScales ty) }

/-- MXFP6 padding zero in every row, rows that a mask merges included (R72). -/
def Tile.clearPad (t : Tile) (ty : Ty) : Tile := { t with rows := t.rows.map (clearPadding ty) }

/-- A tile written as a type, with sidecar and MXFP6 padding by R72 and R73 in every row (R247, R263). -/
def Tile.asType (t : Tile) (ty : Ty) : Tile := (t.clearSide ty).clearPad ty

/-- Selected rows written; other rows and their sidecar bytes merged, except that an unscaled type leaves no sidecar
(R73, R230, R251, R261). -/
def Tile.merge (old : Tile) (ty : Ty) (m : Word) (f : Fin 64 → Row × ScaleRow) : Tile :=
  ⟨Vector.ofFn (fun i => if m.getLsbD i.val then clearPadding ty (f i).1 else old.rows[i]),
   Vector.ofFn (fun i =>
    if m.getLsbD i.val then clearScales ty (f i).2 else if Ty.scaled ty then old.side[i] else 0)⟩

/-- Selected rows of an unscaled type, from element codes. -/
def Tile.mergeCodes (old : Tile) (ty : Ty) (m : Word) (f : Fin 64 → List Nat) : Tile :=
  old.merge ty m (fun i => (rowOf ty (f i), 0))

/-! Accumulators (R69, R70). -/

/-- Element (i, j). -/
def accCode (a : Acc) (i j : Fin 64) : Nat := a[i].toNat / 2 ^ (32 * j.val) % 2 ^ 32

def accCodes (r : Row) : List Nat := splitCodes 32 64 r.toNat

/-- Selected elements written, others kept. -/
def accMerge (old : Acc) (mr mc : Word) (f : Fin 64 → List Nat) : Acc :=
  Vector.ofFn (fun i =>
    if mr.getLsbD i.val then
      BitVec.ofNat 2048 (packCodes 32 (((accCodes old[i]).zip (f i)).mapIdx (fun j p => if mc.getLsbD j then p.2 else p.1)))
    else old[i])

/-- Replace the part of a list from `at_` on. -/
def splice {α : Type} (l : List α) (at_ : Nat) (new : List α) : List α :=
  l.take at_ ++ new ++ l.drop (at_ + new.length)

end Sys2Proof.Machine
end

