-- ==== Sys2Proof/Machine/Convert.lean ====
section
/-! DEFINITION. Conversions of class 0x28 and the mask-register forms of class 0x29 (R91, R262 to R264). -/

namespace Sys2Proof.Machine

/-- Where the block scales of a scaled target come from (R262). -/
inductive ScaleFrom where
  | previous
  | chosen
  | given (t : Tile)
  deriving DecidableEq, Repr

/-- Consecutive parts of `n` elements. -/
def chunks {α : Type} (n : Nat) : Nat → List α → List (List α)
  | 0, _ => []
  | k + 1, l => l.take n :: chunks n k (l.drop n)

/-- Whole blocks of a scaled row written from element position `at_` on: `scale` answers the scale of a block from
its number and its values (R91). -/
def writeBlocks (ty : Ty) (old : Row) (side : ScaleRow) (at_ : Nat) (vs : List Val) (scale : Nat → List Val → Nat)
    (rm : Round) (sat : Bool) : Row × ScaleRow :=
  let blocks := (chunks 32 (vs.length / 32) vs).mapIdx (fun j b => (scale (at_ / 32 + j) b, b))
  (rowOf ty (splice (rowCodes ty old) at_ (blocks.flatMap (fun p => p.2.map (fun v => encodeScaled ty p.1 v rm sat)))),
   scaleRowOf (splice (splitCodes 8 16 side.toNat) (at_ / 32) (blocks.map (·.1))))

/-- .sat of a conversion to an unscaled type. One between a type and itself returns infinities unchanged (R263, whose chapter
decides for its instruction), so that .sat does nothing there (log entry 27). -/
def plainSat (ty tys : Ty) (sat : Bool) : Bool := sat && ty != tys

/-- TCVT of R263. -/
def convertTile (i : Instr) (td ta : TReg) (ty tys : Ty) (h : Nat) (mode : State → ScaleFrom) (m : MReg) (rm : Round)
    (sat : Bool) (s : State) : Host.Outcome State Fault Refusal :=
  issue i s (fun s =>
    let n := tys.elems
    let p := ty.elems
    let at_ := if n ≤ p then n * h else 0
    let src (r : Fin 64) : List Val :=
      let vs := rowValues tys (s.tile ta).rows[r] (s.tile ta).side[r]
      if n ≤ p then vs else (vs.drop (p * h)).take p
    .retire (s.setTile td (((s.tile td).merge ty (s.mask m) (fun r =>
      let old := (s.tile td).rows[r]
      let side := (s.tile td).side[r]
      if Ty.scaled ty then
        match mode s with
        | .previous => writeBlocks ty old side at_ (src r) (fun b _ => scaleAt side b) rm sat
        | .chosen => writeBlocks ty old side at_ (src r) (fun _ vs => chooseScale ty vs) rm true
        | .given t => writeBlocks ty old side at_ (src r) (fun b _ => scaleAt t.side[r] b) rm sat
      else (rowOf ty (splice (rowCodes ty old) at_ ((src r).map (fun v => encodeVal (Ty.fmt ty) v rm (plainSat ty tys sat)))), 0))).asType ty)))

def execTcvt (td ta : TReg) (ty tys : Ty) (h : Fin 16) (m : MReg) (rm : Round) (sat : Bool) (s : State) :
    Host.Outcome State Fault Refusal :=
  convertTile (.tcvt td ta ty tys h m rm sat) td ta ty tys h.val (fun _ => .previous) m rm sat s

def execTcvtChoose (td ta : TReg) (ty tys : Ty) (h : Fin 16) (m : MReg) (rm : Round) (sat : Bool) (s : State) :
    Host.Outcome State Fault Refusal :=
  convertTile (.tcvtChoose td ta ty tys h m rm sat) td ta ty tys h.val (fun _ => .chosen) m rm sat s

def execTcvtGiven (td ta : TReg) (ty tys : Ty) (tx : TReg) (m : MReg) (rm : Round) (sat : Bool) (s : State) :
    Host.Outcome State Fault Refusal :=
  convertTile (.tcvtGiven td ta ty tys tx m rm sat) td ta ty tys 0 (fun s => .given (s.tile tx)) m rm sat s

/-! Mask registers (R264). -/

def execMand (md ma mb : MReg) (s : State) : Host.Outcome State Fault Refusal :=
  issue (.mand md ma mb) s (fun s => .retire (s.setMask md (s.mask ma &&& s.mask mb)))

def execMor (md ma mb : MReg) (s : State) : Host.Outcome State Fault Refusal :=
  issue (.mor md ma mb) s (fun s => .retire (s.setMask md (s.mask ma ||| s.mask mb)))

def execMxor (md ma mb : MReg) (s : State) : Host.Outcome State Fault Refusal :=
  issue (.mxor md ma mb) s (fun s => .retire (s.setMask md (s.mask ma ^^^ s.mask mb)))

def execMnot (md ma : MReg) (s : State) : Host.Outcome State Fault Refusal :=
  issue (.mnot md ma) s (fun s => .retire (s.setMask md (~~~(s.mask ma))))

def execMset (md : MReg) (gs : GReg) (s : State) : Host.Outcome State Fault Refusal :=
  issue (.mset md gs) s (fun s => .retire (s.setMask md (s.g gs)))

def execMget (gd : GReg) (ma : MReg) (s : State) : Host.Outcome State Fault Refusal :=
  issue (.mget gd ma) s (fun s => .retire (s.setG gd (s.mask ma)))

/-- The 1 bits of a word. -/
def onesIn (v : Word) : Nat := ((List.range 64).map (fun i => v.toNat / 2 ^ i % 2)).sum

def execMpopc (gd : GReg) (ma : MReg) (s : State) : Host.Outcome State Fault Refusal :=
  issue (.mpopc gd ma) s (fun s => .retire (s.setG gd (BitVec.ofNat 64 (onesIn (s.mask ma)))))

end Sys2Proof.Machine
end

