-- ==== Sys2Proof/Machine/Reduce.lean ====
section
/-! DEFINITION. Reductions, transposes, broadcasts and shuffles, classes 0x26 and 0x27 (R258 to R261). -/

namespace Sys2Proof.Machine

/-- The sum of element codes, in the fixed order, rounded to the type (R260). -/
def sumCodes (ty : Ty) (rm : Round) (l : List Nat) : Nat :=
  let t := treeSum (l.map (fun c => convert (Ty.fmt ty) .fp32 c .rne false))
  if ty = .fp32 then t else convert .fp32 (Ty.fmt ty) t rm false

/-- The largest or smallest of element codes (R260). -/
def extremeCodes (ty : Ty) (max : Bool) (l : List Nat) : Nat :=
  if ty = .i8 then
    let v := (l.map (twos 8)).foldl (fun a b => if max then Max.max a b else Min.min a b) (if max then -128 else 127)
    intCode 8 false v
  else
    match l.filter (fun c => !(Ty.fmt ty).isNan c) with
    | [] => canonical (Ty.fmt ty)
    | c :: rest => rest.foldl (extremeCode (Ty.fmt ty) max) c

/-- A row form: element 0 is the reduction of the row (R259). -/
def rowReduce (i : Instr) (ty : Ty) (td ta : TReg) (m : MReg) (f : List Nat → Nat) (s : State) :
    Host.Outcome State Fault Refusal :=
  issue i s (fun s =>
    .retire (s.setTile td ((s.tile td).mergeCodes ty (s.mask m) (fun r =>
      f (rowCodes ty (s.tile ta).rows[r]) :: List.replicate (ty.elems - 1) 0))))

/-- The rows that a mask selects, in ascending order. -/
def selectedRows (m : Word) : List (Fin 64) := (List.finRange 64).filter (fun r => m.getLsbD r.val)

/-- A column form: row 0 is the reduction of the contributing rows, the others are zero (R259). -/
def columnReduce (i : Instr) (ty : Ty) (td ta : TReg) (m : MReg) (f : List Nat → Nat) (s : State) :
    Host.Outcome State Fault Refusal :=
  issue i s (fun s =>
    let rows := (selectedRows (s.mask m)).map (fun r => rowCodes ty (s.tile ta).rows[r])
    let first := (List.range ty.elems).map (fun k => f (rows.map (fun l => l.getD k 0)))
    .retire (s.setTile td ⟨(Vector.replicate 64 0).set 0 (rowOf ty first), Vector.replicate 64 0⟩))

def execTrsum (td ta : TReg) (ty : Ty) (m : MReg) (rm : Round) (s : State) : Host.Outcome State Fault Refusal :=
  rowReduce (.trsum td ta ty m rm) ty td ta m (sumCodes ty rm) s

def execTcsum (td ta : TReg) (ty : Ty) (m : MReg) (rm : Round) (s : State) : Host.Outcome State Fault Refusal :=
  columnReduce (.tcsum td ta ty m rm) ty td ta m (sumCodes ty rm) s

def execTrmax (td ta : TReg) (ty : Ty) (m : MReg) (s : State) : Host.Outcome State Fault Refusal :=
  rowReduce (.trmax td ta ty m) ty td ta m (extremeCodes ty true) s

def execTcmax (td ta : TReg) (ty : Ty) (m : MReg) (s : State) : Host.Outcome State Fault Refusal :=
  columnReduce (.tcmax td ta ty m) ty td ta m (extremeCodes ty true) s

def execTrmin (td ta : TReg) (ty : Ty) (m : MReg) (s : State) : Host.Outcome State Fault Refusal :=
  rowReduce (.trmin td ta ty m) ty td ta m (extremeCodes ty false) s

def execTcmin (td ta : TReg) (ty : Ty) (m : MReg) (s : State) : Host.Outcome State Fault Refusal :=
  columnReduce (.tcmin td ta ty m) ty td ta m (extremeCodes ty false) s

/-! Class 0x27 (R261). -/

def execTtr (td ta : TReg) (ty : Ty) (m : MReg) (s : State) : Host.Outcome State Fault Refusal :=
  issue (.ttr td ta ty m) s (fun s =>
    .retire (s.setTile td ((s.tile td).mergeCodes ty (s.mask m) (fun r =>
      (List.range ty.elems).map (fun k => (s.tile ta).code ty (Fin.ofNat 64 k) (k / 64 * 64 + r.val))))))

/-- TROWB (R261): the padding of an MXFP6 tile is zero in every row (R72), its sidecar merged with the rows (R251; log entry
28). -/
def execTrowb (td ta : TReg) (ty : Ty) (r : BitVec 8) (m : MReg) (s : State) : Host.Outcome State Fault Refusal :=
  issue (.trowb td ta ty r m) s (fun s =>
    let src := Fin.ofNat 64 r.toNat
    .retire (s.setTile td (((s.tile td).merge ty (s.mask m)
      (fun _ => ((s.tile ta).rows[src], (s.tile ta).side[src]))).clearPad ty)))

def execTcolb (td ta : TReg) (ty : Ty) (c : BitVec 8) (m : MReg) (s : State) : Host.Outcome State Fault Refusal :=
  issue (.tcolb td ta ty c m) s (fun s =>
    .retire (s.setTile td ((s.tile td).mergeCodes ty (s.mask m) (fun r =>
      List.replicate ty.elems ((s.tile ta).code ty r c.toNat)))))

def execTrot (td ta : TReg) (ty : Ty) (c : BitVec 8) (m : MReg) (s : State) : Host.Outcome State Fault Refusal :=
  issue (.trot td ta ty c m) s (fun s =>
    .retire (s.setTile td ((s.tile td).mergeCodes ty (s.mask m) (fun r =>
      (List.range ty.elems).map (fun k => (s.tile ta).code ty r ((k + c.toNat) % ty.elems))))))

def execTshuf (td ta tb : TReg) (ty : Ty) (r : BitVec 8) (m : MReg) (s : State) : Host.Outcome State Fault Refusal :=
  issue (.tshuf td ta tb ty r m) s (fun s =>
    let q := rowBytes (s.tile tb).rows[Fin.ofNat 64 r.toNat]
    .retire (s.setTile td ((s.tile td).mergeCodes ty (s.mask m) (fun r =>
      (List.range ty.elems).map (fun k => (s.tile ta).code ty r ((q.getD k 0).toNat % ty.elems))))))

end Sys2Proof.Machine
end

