-- ==== Sys2Proof/Machine/TileMove.lean ====
section
/-! DEFINITION. Tile loads and stores, TGATHER, ALD and AST, classes 0x1C to 0x1E and 0x21 (R55, R60, R112, R113,
R231 to R240, R246). -/

namespace Sys2Proof.Machine

/-! Row geometry (R233). -/

/-- L: data bytes of a row in memory. -/
def dataBytes (ty : Ty) : Nat := if ty = .e2m3 ∨ ty = .e3m2 then 192 else 256

/-- A piece of a tile move in memory: the row that a fault reports, its address and length, and the base whose
bits 63:20 it must keep when local. -/
structure MemUnit where
  row : Nat
  addr : Word
  len : Nat
  base : Word
  deriving DecidableEq, Repr

def strided (a stride : Word) (i : Nat) : Word := a + stride * BitVec.ofNat 64 i

/-- The rows of TLD, TST, TLDX and TSTX. -/
def rowUnit (a stride : Word) (len : Nat) (i : Nat) : MemUnit := ⟨i, strided a stride i, len, a⟩

/-- The scales of TLD and TST, reported as row 64 (R234). -/
def scaleUnit (gx : Word) (ty : Ty) (i : Nat) : MemUnit := ⟨64, strided gx (BitVec.ofNat 64 (scaleBytes ty)) i, scaleBytes ty, gx⟩

/-- Consecutive selected positions from `i` on, as starts and lengths. -/
def maskRuns (m : Word) : Nat → Nat → List (Nat × Nat)
  | _, 0 => []
  | i, n + 1 =>
    if m.getLsbD i then
      match maskRuns m (i + 1) n with
      | (j, k) :: rest => if j = i + 1 then (i, k + 1) :: rest else (i, 1) :: (j, k) :: rest
      | [] => [(i, 1)]
    else maskRuns m (i + 1) n

/-- Bits 63:20 of the first byte differ from those of the base (R216, R233): the address that is reported. Where only a
later byte differs, the row leaves the store before it (R109), and that fault names the lower address. -/
def MemUnit.outside (u : MemUnit) : Option Word :=
  if bitsOf u.addr 63 20 ≠ bitsOf u.base 63 20 then some u.addr else none

/-- The operand of a row: what it meets later names the row too. -/
def Got.atRow (g : Got Operand) (row : Nat) : Got Operand :=
  match g with
  | .fault f => .fault (f.atRow row)
  | .ok o => .ok { o with row := row }
  | .wait s w => .wait s w

/-- Check one unit; a fault names its row, and the lowest address in it that fails (R60, R109). Of a byte that both leaves
the base's store and resolves to PEER_ABSENT the manual does not say which it raises: DESIGN CHOICE, TRANSLATION (log entry
90). -/
def State.unit (s : State) (sp : Bool) (kind : Kind) (u : MemUnit) : Got Operand :=
  match sp, u.outside with
  | true, some a => .fault ((localFault a).atRow u.row)
  | _, _ => (s.operand sp kind u.addr u.len).atRow u.row

/-- Check units in order: the first that fails decides. -/
def State.units (s : State) (sp : Bool) (kind : Kind) : List MemUnit → Got (List Operand)
  | [] => .ok []
  | u :: us => (s.unit sp kind u).andThen (fun o => (s.units sp kind us).andThen (fun os => .ok (o :: os)))

/-- The range of R237 of `count` rows of `n` bytes; none where a local base names no store. -/
def State.rangeOf (s : State) (sp : Bool) (a stride : Word) (count n : Nat) : List (Space × Nat × Nat) :=
  let span := ((count : Int) - 1) * stride.toInt
  let interval (space : Space) (b : Nat) : List (Space × Nat × Nat) :=
    let lo := (b : Int) + min 0 span
    let hi := (b : Int) + max 0 span + n
    if lo < 0 ∨ 2 ^ 64 < hi then [(space, 0, 2 ^ 64)] else [(space, lo.toNat, hi.toNat)]
  if sp then
    match resolveLocal s.resident (s.gangCount s.resident) a 1 false with
    | .ok l => interval (.store l.peer) l.off
    | .error _ => []
  else interval .virt a.toNat

def State.learnAll (s : State) (os : List Operand) : State := os.foldl State.learnFrom s

def allRows : List (Fin 64) := List.finRange 64

/-- The row that some bytes fill, and the scales that others do. -/
def scaleRowOfBytes (bs : List Byte) : ScaleRow := BitVec.ofNat 128 (leNat bs)

/-! Full/empty units of rows (R113, R236). -/

/-- A row's bytes split into scales (first) and data. -/
def splitRow (b : Nat) (bs : List Byte) : Row × ScaleRow := (rowOfBytes (bs.drop b), scaleRowOfBytes (bs.take b))

/-- The granules that a row's unit has acted on are claimed for the task: it may still fault (R60). -/
def State.claim (s : State) (c : CoreId) (off n : Nat) : State :=
  s.mapCore c (fun k => k.claim off n s.resident.key s.resident.peer)

/-- One row's unit of a qualified load, when its granules are FULL. -/
def State.rowTake (s : State) (q : Fe) (i : Fin 64) (o : Operand) : Option (State × RowUnit) :=
  match o.loc with
  | .store c l =>
    (s.unitRead c l.off o.len q).map (fun t =>
      (if q = .fec then t.claim c l.off o.len else t, ⟨i, l.key, l.peer, l.off, q, s.bytesAt o, s.bytesAt o⟩))
  | .mem _ => none

/-- One row's unit of a qualified store, when its granules are EMPTY; a row that is masked off moves no bytes. -/
def State.rowPut (s : State) (i : Fin 64) (o : Operand) (bs : Option (List Byte)) : Option (State × RowUnit) :=
  match o.loc with
  | .store c l =>
    if (s.core c).allEmpty l.off o.len then
      some ((s.mapCore c (fun k =>
        (match bs with
          | some b => k.writeLocal l.off b false
          | none => k).setFull l.off o.len true)).claim c l.off o.len, ⟨i, l.key, l.peer, l.off, .ef, s.bytesAt o, bs.getD (s.bytesAt o)⟩)
    else none
  | .mem _ => none

/-- The unit of a row has been performed. -/
def Core.rowDone (k : Core) (i : Fin 64) : Bool := k.rowUnits.any (fun d => d.row == i)

def State.addUnit (s : State) (x : RowUnit) : State := s.setHere { s.here with rowUnits := s.here.rowUnits ++ [x] }

/-- Perform the units of the rows that are not performed yet and can be; the data of a row that the mask selects may meet a
fault then. R113 lets them be performed in any order: DESIGN CHOICE, those that can be performed in one turn are taken in
ascending row order (log entry 73). -/
def State.takeRows (s : State) (q : Fe) (m : Word) : List (Fin 64 × Operand) → Got State
  | [] => .ok s
  | (i, o) :: rows =>
    match s.here.rowDone i, s.rowTake q i o with
    | false, some (t, x) =>
      match m.getLsbD i.val, s.dataFault .read o with
      | true, some f => .fault f
      | _, _ => (t.addUnit x).takeRows q m rows
    | _, _ => s.takeRows q m rows

/-- The units of a qualified store, in the same order (log entry 73). -/
def State.putRows (s : State) (rows : List (Fin 64 × Operand × Option (List Byte))) : State :=
  rows.foldl (fun s p =>
    match s.here.rowDone p.1, s.rowPut p.1 p.2.1 p.2.2 with
    | false, some (t, x) => t.addUnit x
    | _, _ => s) s

def State.clearUnits (s : State) : State := s.setHere { s.here with rowUnits := [] }

/-- What a row's unit read. -/
def Core.rowData (k : Core) (b : Nat) : List (Fin 64 × Row × ScaleRow) :=
  k.rowUnits.map (fun x => (x.row, splitRow b x.after))

/-! Loads by row: TLD and TLDX. -/

/-- The rows of an unqualified load: read now. -/
def State.readRows (s : State) (b : Nat) (rows : List (Fin 64 × Operand)) : List (Fin 64 × Row × ScaleRow) :=
  rows.map (fun p => (p.1, splitRow b (s.bytesAt p.2)))

/-- TLD and TLDX (R234). `b` scale bytes lead each memory row; `scales` are the scale units of TLD. A qualified move checks
the address of every row, since a masked-off row waits on its granules too (R236): DESIGN CHOICE, R234 speaks of selected
units (log entry 72). A masked-off row is not read (R133). -/
def State.loadRows (s : State) (td : TReg) (ty : Ty) (a stride : Word) (b : Nat) (scales : Option Word) (m : Word)
    (q : Fe) (sp : Bool) : Effect :=
  let len := b + dataBytes ty
  let rows := if q = .nf then selectedRows m else allRows
  let scaled := match scales with
    | some gx => (selectedRows m).map (fun i => scaleUnit gx ty i.val)
    | none => []
  let ranges := s.rangeOf sp a stride 64 len ++ (match scales with
    | some gx => s.rangeOf sp gx (BitVec.ofNat 64 (scaleBytes ty)) 64 (scaleBytes ty)
    | none => [])
  (s.units sp .read (rows.map (fun i => rowUnit a stride len i.val))).effect (fun os =>
    (s.units sp .read scaled).effect (fun xs =>
      ((s.learnAll (os ++ xs)).ready ranges (s.unitFloor q)).effect (fun s =>
        (if q = .nf then (s.touch .read os).andThen (fun _ => .ok s)
          else if s.copyReading ranges then .wait s .copies
          else s.takeRows q m (rows.zip os)).effect (fun s =>
          if q ≠ .nf ∧ s.here.rowUnits.length < 64 then .wait s .fullEmpty
          else
            (s.touch .read xs).effect (fun _ =>
              let got := if q = .nf then s.readRows b (rows.zip os) else s.here.rowData b
              let side := (selectedRows m).zip (xs.map (fun o => scaleRowOfBytes (s.bytesAt o)))
              let s := (s.request (os ++ xs)).clearUnits
              .retire (s.setTile td (((s.tile td).merge ty m (fun i =>
                let r := (assocGet got i).getD (0, 0)
                (r.1, match scales with
                  | some _ => (assocGet side i).getD 0
                  | none => r.2))).clearSide ty)))))))

def execTld (td : TReg) (ty : Ty) (gb gs gx : GReg) (m : MReg) (q : Fe) (sp : Bool) (off : BitVec 32) (s : State) :
    Host.Outcome State Fault Refusal :=
  issue (.tld td ty gb gs gx m q sp off) s (fun s =>
    s.loadRows td ty (s.addressOf gb off) (s.g gs) 0 (if Ty.scaled ty then some (s.g gx) else none) (s.mask m) q sp)

def execTldx (td : TReg) (ty : Ty) (gb gs : GReg) (m : MReg) (q : Fe) (sp : Bool) (off : BitVec 32) (s : State) :
    Host.Outcome State Fault Refusal :=
  issue (.tldx td ty gb gs m q sp off) s (fun s =>
    s.loadRows td ty (s.addressOf gb off) (s.g gs) (scaleBytes ty) none (s.mask m) q sp)

/-! Stores by row: TST and TSTX. -/

/-- The bytes of a row as memory holds them. -/
def storedRow (t : Tile) (ty : Ty) (b : Nat) (i : Fin 64) : List Byte :=
  natLe b t.side[i].toNat ++ natLe (dataBytes ty) t.rows[i].toNat

/-- The parts of one store; where two write one byte, which one it keeps is not defined (R235). -/
def State.anyOrder (s : State) (segs : List Seg) : List Seg := if Config.laterWins s.ticks then segs else segs.reverse

/-- A retired store of several operands over a range. -/
def State.pushRows (s : State) (range : List (Space × Nat × Nat)) (rows : List (Operand × List Byte)) : State :=
  match range with
  | r :: _ => s.pushWrite r (s.anyOrder (rows.flatMap (fun p => p.1.segs p.2))) none false
  | [] => s

/-- The checks of some units of a tile store in row order: translation and write permission for every one, frozen frames
for those that are selected (R58, R235). -/
def State.storeUnits (s : State) (sp : Bool) : List (Bool × MemUnit) → Got (List Operand)
  | [] => .ok []
  | (sel, u) :: us =>
    (s.unit sp (if sel then .write else .lateWrite) u).andThen (fun o =>
      (s.storeUnits sp us).andThen (fun os => .ok (o :: os)))

/-- Every row of a store with whether the mask selects it. -/
def maskedUnits (m : Word) (unit : Nat → MemUnit) : List (Bool × MemUnit) :=
  allRows.map (fun i => (m.getLsbD i.val, unit i.val))

/-- TST and TSTX (R58, R235, R236): every row is checked, selected rows are written. Where scale bytes of a TST lie over its
own data bytes the manual does not say which stay: DESIGN CHOICE, the scales do, a write of their own behind the rows (log
entry 9). -/
def State.storeRows (s : State) (ts : TReg) (ty : Ty) (a stride : Word) (b : Nat) (scales : Option Word) (m : Word)
    (q : Fe) (sp : Bool) : Effect :=
  let len := b + dataBytes ty
  let t := s.tile ts
  let scaled := match scales with
    | some gx => maskedUnits m (scaleUnit gx ty)
    | none => []
  let range := s.rangeOf sp a stride 64 len
  let srange := match scales with
    | some gx => s.rangeOf sp gx (BitVec.ofNat 64 (scaleBytes ty)) 64 (scaleBytes ty)
    | none => []
  (s.storeUnits sp (maskedUnits m (rowUnit a stride len))).effect (fun os =>
    (s.storeUnits sp scaled).effect (fun xs =>
      let s := s.learnAll (os ++ xs)
      let pick (os : List Operand) : List (Fin 64 × Operand) := (allRows.zip os).filter (fun p => m.getLsbD p.1.val)
      let rows := pick os
      let side := (pick xs).map (fun p => (p.2, natLe (scaleBytes ty) t.side[p.1].toNat))
      let finish (s : State) : Effect := .retire (if side.isEmpty then s else s.pushRows srange side)
      if ((rows ++ pick xs).map (·.2)).any s.sweepIn then .wait s .sweep
      else if q = .nf then
        finish (if rows.isEmpty then s else s.pushRows range (rows.map (fun p => (p.2, storedRow t ty b p.1))))
      else
        afterDrain s false (fun s =>
          if s.copyOver range then .wait s .copies
          else
            let s := s.putRows ((allRows.zip os).map (fun p =>
              (p.1, p.2, if m.getLsbD p.1.val then some (storedRow t ty b p.1) else none)))
            if s.here.rowUnits.length < 64 then .wait s .fullEmpty else finish s.clearUnits)))

def execTst (ts : TReg) (ty : Ty) (gb gs gx : GReg) (m : MReg) (q : Fe) (sp : Bool) (off : BitVec 32) (s : State) :
    Host.Outcome State Fault Refusal :=
  issue (.tst ts ty gb gs gx m q sp off) s (fun s =>
    s.storeRows ts ty (s.addressOf gb off) (s.g gs) 0 (if Ty.scaled ty then some (s.g gx) else none) (s.mask m) q sp)

def execTstx (ts : TReg) (ty : Ty) (gb gs : GReg) (m : MReg) (q : Fe) (sp : Bool) (off : BitVec 32) (s : State) :
    Host.Outcome State Fault Refusal :=
  issue (.tstx ts ty gb gs m q sp off) s (fun s =>
    s.storeRows ts ty (s.addressOf gb off) (s.g gs) (scaleBytes ty) none (s.mask m) q sp)

/-! Transposed moves: TLDT and TSTT. -/

/-- The selected parts of memory row k. -/
def columnUnits (a stride : Word) (ty : Ty) (m : Word) : List (Nat × Nat × MemUnit) :=
  let e := typeBits ty / 8
  (List.range ty.elems).flatMap (fun k =>
    (maskRuns m 0 64).map (fun p => (k, p.1, ⟨k, strided a stride k + BitVec.ofNat 64 (p.1 * e), p.2 * e, a⟩)))

/-- The element code that column units hold for row i, column k. -/
def columnCode (e : Nat) (got : List (Nat × Nat × List Byte)) (i k : Nat) : Nat :=
  match got.find? (fun p => decide (p.1 = k ∧ p.2.1 ≤ i ∧ i * e < p.2.1 * e + p.2.2.length)) with
  | some p => leNat ((p.2.2.drop ((i - p.2.1) * e)).take e)
  | none => 0

def execTldt (td : TReg) (ty : Ty) (gb gs : GReg) (m : MReg) (sp : Bool) (off : BitVec 32) (s : State) :
    Host.Outcome State Fault Refusal :=
  issue (.tldt td ty gb gs m sp off) s (fun s =>
    let a := s.addressOf gb off
    let e := typeBits ty / 8
    let us := columnUnits a (s.g gs) ty (s.mask m)
    (s.units sp .read (us.map (·.2.2))).effect (fun os =>
      ((s.learnAll os).ready (s.rangeOf sp a (s.g gs) ty.elems (64 * e)) 0).effect (fun s =>
        (s.touch .read os).effect (fun _ =>
          let s := s.request os
          let got := (us.zip os).map (fun p => (p.1.1, p.1.2.1, s.bytesAt p.2))
          let byColumn := (List.range ty.elems).map (fun k => got.filter (fun g => g.1 == k))
          .retire (s.setTile td ((s.tile td).mergeCodes ty (s.mask m) (fun i =>
            byColumn.mapIdx (fun k g => columnCode e g i.val k))))))))

/-- The checks of a TSTT: each memory row whole, and then its selected parts for frozen frames (R58, R233, R235). -/
def tsttChecks (a stride : Word) (ty : Ty) (us : List (Nat × Nat × MemUnit)) : List (Bool × MemUnit) :=
  (List.range ty.elems).flatMap (fun k =>
    (false, ⟨k, strided a stride k, 64 * (typeBits ty / 8), a⟩) :: (us.filter (fun u => u.1 == k)).map (fun u => (true, u.2.2)))

def execTstt (ts : TReg) (ty : Ty) (gb gs : GReg) (m : MReg) (sp : Bool) (off : BitVec 32) (s : State) :
    Host.Outcome State Fault Refusal :=
  issue (.tstt ts ty gb gs m sp off) s (fun s =>
    let a := s.addressOf gb off
    let e := typeBits ty / 8
    let us := columnUnits a (s.g gs) ty (s.mask m)
    let checks := tsttChecks a (s.g gs) ty us
    let t := s.tile ts
    (s.storeUnits sp checks).effect (fun xs =>
      let s := s.learnAll xs
      let os := ((checks.zip xs).filter (fun p => p.1.1)).map (·.2)
      if os.any s.sweepIn then .wait s .sweep
      else
        let bytes (p : Nat × Nat × MemUnit) : List Byte :=
          (List.range (p.2.2.len / e)).flatMap (fun j => natLe e (t.code ty (Fin.ofNat 64 (p.2.1 + j)) p.1))
        .retire (if os.isEmpty then s
          else s.pushRows (s.rangeOf sp a (s.g gs) ty.elems (64 * e)) (os.zip (us.map bytes)))))

/-! TGATHER (R238 to R240). -/

/-- idx[i]: four bytes of the index row. -/
def gatherIndex (r : Row) (i : Nat) : Nat := r.toNat / 2 ^ (32 * i) % 2 ^ 32

/-- The local address of a row, by its index (R239). -/
def gatherLocal (a : Word) (idx : Nat) : Word :=
  (a &&& ~~~(BitVec.ofNat 64 (0xFF * 2 ^ 30))) + BitVec.ofNat 64 (idx / 2 ^ 24 * 2 ^ 30 + 256 * (idx % 2 ^ 12))

/-- The unit of a selected row; a local form's address and index are checked first. Where A's window or bits 23:12 of the
index are at fault, no row address exists to report: DESIGN CHOICE, CR.SFADDR receives A (log entry 77). -/
def State.gatherUnit (s : State) (a : Word) (sp : Bool) (idx : Nat) (i : Nat) : Got Operand :=
  if sp then
    if (bitsOf a 63 62 = 1 ∨ bitsOf a 63 62 = 2) ∧ idx / 2 ^ 12 % 2 ^ 12 = 0 then
      (s.operand true .read (gatherLocal a idx) 256).atRow i
    else .fault ((localFault a).atRow i)
  else (s.operand false .read (a + BitVec.ofNat 64 (256 * idx)) 256).atRow i

def State.gatherUnits (s : State) (a : Word) (sp : Bool) (ix : Row) : List (Fin 64) → Got (List Operand)
  | [] => .ok []
  | i :: is =>
    (s.gatherUnit a sp (gatherIndex ix i.val) i.val).andThen (fun o =>
      (s.gatherUnits a sp ix is).andThen (fun os => .ok (o :: os)))

/-- A row of a gather is read at its store: its bytes, and whether they were uncorrectable then (R60, R240). -/
def GatherRow.read (r : GatherRow) (k : Core) : GatherRow :=
  { r with data := some (rowOfBytes (k.readLocal r.off 256)), bad := k.badLocal r.off 256 }

/-- A row of a local gather: read at once from the own store, asked for elsewhere. -/
def State.gatherRow (s : State) (i : Fin 64) (o : Operand) : Option GatherRow :=
  match o.loc with
  | .store c l =>
    let r : GatherRow := ⟨i, l.key, l.peer, l.off, none, none⟩
    some (if c = s.cur.core then r.read s.here else r)
  | .mem _ => none

/-- The first row, in row order, whose data was uncorrectable when it was read (R240). -/
def gatherFault (rows : List (GatherRow × Operand)) : Option FaultInfo :=
  rows.findSome? (fun p => p.1.bad.map (fun off =>
    (plainFault .dataUncorrectable (p.2.va + BitVec.ofNat 64 (off - p.1.off))).atRow p.1.row.val))

/-- The rows that an answered or answering gather has. -/
def gatherDone (rows : List GatherRow) : Option (List (Fin 64 × Row)) :=
  if rows.all (fun r => r.data.isSome) then some (rows.map (fun r => (r.row, r.data.getD 0))) else none

/-- TGATHER (R239, R240). No row is read before an older copy's read of the same bytes that a fence puts first (R126). -/
def execTgather (td : TReg) (ty : Ty) (ti : TReg) (row : Fin 64) (gb : GReg) (m : MReg) (sp : Bool) (off : BitVec 32)
    (s : State) : Host.Outcome State Fault Refusal :=
  issue (.tgather td ty ti row gb m sp off) s (fun s =>
    let a := s.addressOf gb off
    let rows := selectedRows (s.mask m)
    let finish (s : State) (got : List (Fin 64 × Row)) : Effect :=
      let s := s.setHere { s.here with gather := none }
      .retire (s.setTile td ((s.tile td).merge ty (s.mask m) (fun i => ((assocGet got i).getD 0, 0))))
    (s.gatherUnits a sp (s.tile ti).rows[row] rows).effect (fun os =>
      let ranges := if sp then os.map (fun o => (o.space, 0, 2 ^ 64)) else [(Space.virt, 0, 2 ^ 64)]
      ((s.learnAll os).ready ranges 0).effect (fun s =>
        if sp then
          let asked := s.here.gather.getD ((rows.zip os).filterMap (fun p => s.gatherRow p.1 p.2))
          if s.here.gather.isNone && s.copyReading (os.flatMap Operand.ranges) then .wait s .copies
          else
          match gatherDone asked, gatherFault (asked.zip os) with
          | some _, some f => .raise f
          | some got, none => finish s got
          | none, _ => .wait (s.setHere { s.here with gather := some asked }) .gatherRows
        else
          (s.touch .read os).effect (fun _ =>
            finish (s.request os) ((rows.zip os).map (fun p => (p.1, rowOfBytes (s.bytesAt p.2))))))))

/-! ALD and AST (R246). -/

/-- The selected parts of the 16 KiB of an accumulator, in ascending address order; a fault names no row. R58 has every byte
checked and R246 has selected elements alone read or written: DESIGN CHOICE, a page that holds no selected element is not
checked (log entry 101). -/
def accUnits (a : Word) (mr mc : Word) : List (Nat × Nat × MemUnit) :=
  (selectedRows mr).flatMap (fun i => (maskRuns mc 0 64).map (fun p =>
    (i.val, p.1, ⟨0xFF, a + BitVec.ofNat 64 (256 * i.val + 4 * p.1), 4 * p.2, a⟩)))

/-- A local range must lie in one store below 640 KiB, whatever is selected. -/
def accRange (a : Word) : Option FaultInfo :=
  if bitsOf a 63 62 = 3 ∨ bitsOf a 29 20 ≠ 0 then some (localFault a)
  else if 0xA_0000 < bitsOf a 19 0 + 16384 then some (localFault (a + BitVec.ofNat 64 (0xA_0000 - bitsOf a 19 0)))
  else none

def accBad (sp : Bool) (a : Word) : Option FaultInfo := if sp then accRange a else none

def execAld (ad : AReg) (gb : GReg) (mr mc : MReg) (sp : Bool) (off : BitVec 32) (s : State) :
    Host.Outcome State Fault Refusal :=
  issue (.ald ad gb mr mc sp off) s (fun s =>
    let a := s.addressOf gb off
    let us := accUnits a (s.mask mr) (s.mask mc)
    match accBad sp a with
    | some f => .raise f
    | none =>
      (s.units sp .read (us.map (·.2.2))).effect (fun os =>
        ((s.learnAll os).ready (s.rangeOf sp a 0 1 16384) 0).effect (fun s =>
          (s.touch .read os).effect (fun _ =>
            let s := s.request os
            let got := (us.zip os).map (fun p => (p.1.1, p.1.2.1, s.bytesAt p.2))
            .retire (s.setAcc ad (accMerge (s.acc ad) (s.mask mr) (s.mask mc) (fun i =>
              (List.range 64).map (fun j => columnCode 4 (got.filter (fun g => g.1 == i.val)) j i.val))))))))

/-- AST (R246). Its parts are checked one after another, so that the fault names the lowest address that fails: DEDUCED
where a lower page is frozen and a higher one is not mapped, since R207 lists the frozen check after every page's
translation (log entry 78). -/
def execAst (as : AReg) (gb : GReg) (mr mc : MReg) (sp : Bool) (off : BitVec 32) (s : State) :
    Host.Outcome State Fault Refusal :=
  issue (.ast as gb mr mc sp off) s (fun s =>
    let a := s.addressOf gb off
    let us := accUnits a (s.mask mr) (s.mask mc)
    match accBad sp a with
    | some f => .raise f
    | none =>
      (s.units sp .write (us.map (·.2.2))).effect (fun os =>
        let s := s.learnAll os
        if os.any s.sweepIn then .wait s .sweep
        else
          let bytes (p : Nat × Nat × MemUnit) : List Byte :=
            (List.range (p.2.2.len / 4)).flatMap (fun j =>
              natLe 4 (accCode (s.acc as) (Fin.ofNat 64 p.1) (Fin.ofNat 64 (p.2.1 + j))))
          .retire (if os.isEmpty then s else s.pushRows (s.rangeOf sp a 0 1 16384) (os.zip (us.map bytes)))))

end Sys2Proof.Machine
end

