-- ==== Sys2Proof/Machine/Copy.lean ====
section
/-! DEFINITION. Copies, reduce-writes, DISCARD and batches, classes 0x2C and 0x2D, and the streamer's pieces (R134 to
R136, R140, R214 to R222, R329). -/

namespace Sys2Proof.Machine

/-! The affine block (R215). -/

/-- N2, N1 and LEN0 of a descriptor. -/
def planes (d : Vector Word 3) : Nat := bitsOf d[0] 63 48
def rowsPer (d : Vector Word 3) : Nat := bitsOf d[0] 47 32
def rowBytesOf (d : Vector Word 3) : Nat := bitsOf d[0] 31 0

/-- A signed 32-bit stride. -/
def strideOf (w : Word) (hi : Bool) : Int := twos 32 (if hi then bitsOf w 63 32 else bitsOf w 31 0)

/-- Start of row `r` counted over all planes; `w` is the word of strides. -/
def rowStart (d : Vector Word 3) (base w : Word) (r : Nat) : Word :=
  base + BitVec.ofInt 64 ((r / rowsPer d : Nat) * strideOf w true + (r % rowsPer d : Nat) * strideOf w false)

def rowTotal (d : Vector Word 3) : Nat := planes d * rowsPer d

/-- The block has no byte. -/
def emptyBlock (d : Vector Word 3) : Bool := decide (rowTotal d * rowBytesOf d = 0)

/-- The bounding interval of a block of at least one byte, from an address (R55, R215). -/
def blockRange (space : Space) (b : Nat) (d : Vector Word 3) (w : Word) : Space × Nat × Nat :=
  let s2 := ((planes d : Int) - 1) * strideOf w true
  let s1 := ((rowsPer d : Int) - 1) * strideOf w false
  let lo := (b : Int) + min 0 s2 + min 0 s1
  let hi := (b : Int) + max 0 s2 + max 0 s1 + rowBytesOf d
  if lo < 0 ∨ 2 ^ 64 < hi then (space, 0, 2 ^ 64) else (space, lo.toNat, hi.toNat)

/-- The range of one side of a copy. -/
def State.copyRange (s : State) (loc : Bool) (base : Word) (d : Vector Word 3) (w : Word) : Space × Nat × Nat :=
  if loc then
    match resolveLocal s.resident (s.gangCount s.resident) base 1 false with
    | .ok l => blockRange (.store l.peer) l.off d w
    | .error _ => (.virt, 0, 0)
  else blockRange .virt base.toNat d w

/-- Insertion by address, for checks in ascending address order. -/
def insertUnit (u : MemUnit) : List MemUnit → List MemUnit
  | [] => [u]
  | v :: l => if u.addr.toNat ≤ v.addr.toNat then u :: v :: l else v :: insertUnit u l

/-- A unit cut at multiples of 32 KiB: what decides a check (a page, a frame, the end of a store, bits 63:20) is the same
for every byte of a part. -/
def MemUnit.byPage (u : MemUnit) : List MemUnit :=
  (cutAt u.addr.toNat u.len 0x8000).map (fun p => { u with addr := u.addr + BitVec.ofNat 64 p.1, len := p.2 })

/-- The parts of one side by page, in ascending address order, so that checks come byte by byte (R216); a fault names no
row. -/
def blockUnits (d : Vector Word 3) (base w : Word) : List MemUnit :=
  ((List.range (rowTotal d)).flatMap (fun r =>
    MemUnit.byPage ⟨0xFF, rowStart d base w r, rowBytesOf d, base⟩)).foldr insertUnit []

/-! COPY and COPYR at issue and retirement (R216, R221, R329). -/

/-- The element size of a COPYR; 1 for a COPY. -/
def formSize : CopyForm → Nat
  | .copy => 1 | .fp32 | .fp32Lossy => 4 | .bf16 => 2

/-- The address that MISALIGNED reports, when a COPYR is misaligned (R216, R319). -/
def copyMisaligned (form : CopyForm) (dst src : Word) (d : Vector Word 3) : Option Word :=
  let n : Nat := formSize form
  if src.toNat % n ≠ 0 then some src
  else if dst.toNat % n ≠ 0 then some dst
  else if rowBytesOf d % n ≠ 0 ∨ (d[1].toNat % n ≠ 0 ∨ bitsOf d[1] 63 32 % n ≠ 0)
      ∨ (d[2].toNat % n ≠ 0 ∨ bitsOf d[2] 63 32 % n ≠ 0) then some src
  else none

/-- The three registers of a descriptor. -/
def State.descriptor (s : State) (gq : GReg) : Vector Word 3 :=
  #v[s.g gq, s.g (Fin.ofNat 32 (gq.val + 1)), s.g (Fin.ofNat 32 (gq.val + 2))]

/-- The number of pieces of a copy (R329). -/
def pieceCount (x : CopyOp) : Nat := (rowTotal x.dsc * rowBytesOf x.dsc + 0xFFFF) / 0x10000

/-- A copy's unit has failed, and its batch with it, with its first failure (R217). -/
def Core.failCopy (k : Core) (n : Nat) (b : Option (BitVec 32)) (f : FaultInfo) : Core :=
  { k with
    copies := k.copies.map (fun x => if x.seq = n then { x with failed := true } else x)
    batches := if k.batches.any (fun x => x.num == b) then k.batches else k.batches ++ [⟨b, f, []⟩] }

/-- A copy completes; one that has failed is kept with its batch until that is raised (R329, R333). -/
def Core.finishCopy (k : Core) (n : Nat) (b : Option (BitVec 32)) : Core :=
  let failed := (k.copies.filter (fun x => x.seq == n && x.failed)).map (fun x => { x with pieces := pieceCount x })
  { k with
    copies := k.copies.filter (fun x => x.seq != n)
    batches := k.batches.map (fun x => if x.num = b then { x with failed := x.failed ++ failed } else x) }

/-- Copies that are not complete, or have failed and are not raised (R329). -/
def Core.copyCount (k : Core) : Nat := k.copies.length + (k.batches.map (·.failed.length)).sum

/-- COPY and COPYR at issue (R216, R329). A COPYR whose block is empty and whose base or stride is misaligned completes at
once by R215 and raises MISALIGNED by R216: DESIGN CHOICE, it raises (log entry 89). -/
def State.copy (s : State) (form : CopyForm) (dst src : Word) (d : Vector Word 3) (dsp ssp : Bool) : Effect :=
  match copyMisaligned form dst src d with
  | some a => .raise (plainFault .misaligned a)
  | none =>
    if emptyBlock d then .retire s
    else
      (s.units ssp .early (blockUnits d src d[1])).effect (fun os =>
        (s.units dsp .write (blockUnits d dst d[2])).effect (fun xs =>
          let s := s.learnAll (os ++ xs)
          let k := s.here
          match os.findSome? (s.dataFault .early) with
          | some f => .raise f
          | none =>
          if 64 ≤ k.copyCount then .wait s .copySlot
          else
            .retire (s.setHere { k with
              order := k.order + 1
              copies := k.copies ++ [{ dst := dst, src := src, dsc := d, form := form, dsp := dsp, ssp := ssp,
                                       batch := none, pieces := 0, failed := false, srange := s.copyRange ssp src d d[1],
                                       drange := s.copyRange dsp dst d d[2],
                                       sphys := os.flatMap Operand.physical, dphys := xs.flatMap Operand.physical,
                                       seq := k.order,
                                       floor := s.me.wfloor, rfloor := s.me.rfloor }] })))

def execCopy (gd gs gq : GReg) (dsp ssp : Bool) (s : State) : Host.Outcome State Fault Refusal :=
  issue (.copy gd gs gq dsp ssp) s (fun s => s.copy .copy (s.g gd) (s.g gs) (s.descriptor gq) dsp ssp)

def reduceForm (bf16 lossy : Bool) : CopyForm := if bf16 then .bf16 else if lossy then .fp32Lossy else .fp32

def execCopyr (gd gs gq : GReg) (bf16 lossy dsp ssp : Bool) (s : State) : Host.Outcome State Fault Refusal :=
  issue (.copyr gd gs gq bf16 lossy dsp ssp) s (fun s =>
    s.copy (reduceForm bf16 lossy) (s.g gd) (s.g gs) (s.descriptor gq) dsp ssp)

/-! DISCARD (R219). -/

/-- The checks of a page: mapped, writable, device memory. -/
def State.discardPages (s : State) : List (Nat × Nat × Nat) → Except FaultInfo Access
  | [] => .ok ⟨[], []⟩
  | (at_, va, len) :: ps =>
    match s.translate s.here s.resident s.me.mode .write va with
    | .error f => .error f
    | .ok (pa, fo) =>
      if memType pa ≠ .device then .error (plainFault .permWrite (BitVec.ofNat 64 va))
      else
        match s.discardPages ps with
        | .error f => .error f
        | .ok a => .ok ⟨⟨at_, pa, len⟩ :: a.pieces, fo :: a.found⟩

/-- DISCARD (R219). A frame with an open sweep is waited for (R58, R157). Where the lowest frozen frame begins below the
region, R319's lowest address of it is not of the region: DESIGN CHOICE, the lowest byte of the region in it is reported (log
entry 115). -/
def execDiscard (gd gs : GReg) (s : State) : Host.Outcome State Fault Refusal :=
  issue (.discard gd gs) s (fun s =>
    let base := s.g gd
    let len := (s.g gs).toNat
    if base.toNat % 32 ≠ 0 ∨ len % 32 ≠ 0 then .raise (plainFault .misaligned base)
    else if len = 0 then .retire s
    else
      match s.discardPages (pageParts base.toNat len (len / 0x8000 + 2)) with
      | .error f => .raise f
      | .ok a =>
        match a.firstBad (fun p => if 0 < (s.attrAt p.pa).fcount then some p.pa else none) with
        | some p => .raise (plainFault .discardFrozen (base + BitVec.ofNat 64 p.1))
        | none =>
          let s := s.learnFrom { va := base, space := .virt, lo := base.toNat, len := len, loc := .mem a }
          if s.sweepOpen a then .wait s .sweep
          else .retire (s.pushWrite (.virt, base.toNat, base.toNat + len)
            (a.pieces.map (fun p => ⟨.phys p.pa, List.replicate p.len 0⟩)) none true))

/-! Batches (R221, R222). -/

def execBseal (gd : GReg) (s : State) : Host.Outcome State Fault Refusal :=
  issue (.bseal gd) s (fun s =>
    let k := s.here
    let n := k.batchCtr
    let k := { k with
      copies := k.copies.map (fun x => if x.batch = none then { x with batch := some n } else x)
      batches := k.batches.map (fun b => if b.num = none then { b with num := some n } else b)
      batchCtr := n + 1 }
    .retire ((s.setHere k).setG gd (n.setWidth 64)))

/-- The sealed batches that have a copy outstanding. -/
def Core.unfinished (k : Core) : List (BitVec 32) := (k.copies.filterMap (·.batch)).eraseDups

def execBwait (gd : GReg) (n : BitVec 16) (s : State) : Host.Outcome State Fault Refusal :=
  issue (.bwait gd n) s (fun s =>
    let k := s.here
    if n.toNat < k.unfinished.length then .wait s .batches
    else
      match k.firstFailed (k.batches.filter (fun b => b.num.isSome && !k.unfinished.any (fun u => b.num == some u))) with
      | some b =>
        raiseOnce s (batchFault (b.num.getD 0).toNat b.fault) (fun s => s.setHere (s.here.clearFailed b))
      | none => .retire (s.setG gd (BitVec.ofNat 64 k.unfinished.length)))

/-! Pieces (R216 to R218, R329). -/

/-- reduce_element of R218. -/
def reduceElement (form : CopyForm) (old a : Nat) : Nat :=
  match form with
  | .copy => a
  | .fp32 => codeAdd .fp32 .rne false old a
  | .fp32Lossy => codeAdd .fp32 .rne false old (convert .bf16 .fp32 (convert .fp32 .bf16 a .rne false) .rne false)
  | .bf16 => codeAdd .bf16 .rne false old a

/-- New destination bytes from old ones and source bytes, element by element. -/
def reduceBytes (form : CopyForm) (old src : List Byte) : List Byte :=
  match form with
  | .copy => src
  | _ =>
    let n : Nat := formSize form
    (List.range (src.length / n)).flatMap (fun i =>
      natLe n (reduceElement form (leNat ((old.drop (i * n)).take n)) (leNat ((src.drop (i * n)).take n))))

/-- The size of a side's units: a 128-byte line, or a 64-byte block of a local store, which fails on its own (R107, R115,
R217; log entry 33). -/
def unitSize (loc : Bool) : Nat := if loc then 64 else 128

/-- The parts of piece `p`: source, destination and length, each inside one unit of the source and one of the destination. -/
def pieceParts (x : CopyOp) (p : Nat) : List (Word × Word × Nat) :=
  let len := rowBytesOf x.dsc
  let lo := 0x10000 * p
  let hi := min (rowTotal x.dsc * len) (lo + 0x10000)
  if hi ≤ lo then []
  else
    (List.range ((hi - 1) / len + 1 - lo / len)).flatMap (fun i =>
      let r := lo / len + i
      let b := max lo (r * len) - r * len
      let n := min hi ((r + 1) * len) - (r * len + b)
      let src := rowStart x.dsc x.src x.dsc[1] r + BitVec.ofNat 64 b
      let dst := rowStart x.dsc x.dst x.dsc[2] r + BitVec.ofNat 64 b
      (cutAt src.toNat n (unitSize x.ssp)).flatMap (fun q =>
        (cutAt (dst + BitVec.ofNat 64 q.1).toNat q.2 (unitSize x.dsp)).map (fun u =>
          (src + BitVec.ofNat 64 (q.1 + u.1), dst + BitVec.ofNat 64 (q.1 + u.1), u.2))))

/-- A core's task as its copies act for it: in user mode whatever the strand does now. -/
def State.asUser (s : State) (c : CoreId) : State :=
  ({ s with cur := ⟨c, false⟩ }).mapCore c (fun k => { k with main := { k.main with mode := .user } })

/-- A copy's place in a local store: a gang of the launch window that is being saved or is saved takes none (R329).
While its tasks are still halting, accesses from other gangs are served (R327). -/
def State.copyStore (s : State) (l : LocalAddr) : Bool :=
  l.key == s.resident.key || (match s.gang l.key with
    | some g => g.state != .saved
    | none => false)

/-- Find one part; the answer is the operand, a failure of the unit, or none where it must wait: for a sweep (R157), or a
write over the link to the same bytes or line (R56, R126). A COPYR reads its destination, and R217 lists uncorrectable data
of a source read alone: DESIGN CHOICE, uncorrectable destination data of a COPYR fails the unit and its batch too (log entry
113). -/
def State.copySide (s : State) (c : CoreId) (loc : Bool) (kind : Kind) (a : Word) (n : Nat) :
    Option (Except FaultInfo Operand) :=
  let read (o : Operand) : Option (Except FaultInfo Operand) :=
    match (s.asUser c).dataFault kind o with
    | some f => some (.error f)
    | none => some (.ok o)
  match (s.asUser c).operand loc kind a n with
  | .ok o =>
    match o.loc with
    | .store _ l =>
      if kind.writes && !(s.asUser c).copyStore l then some (.error (plainFault .peerAbsent 0)) else read o
    | .mem acc =>
      if if kind.writes then s.sweepOpen acc || s.sentOver o.physical else s.sentTo o.physical then none
      else if acc.pieces.any (fun p => decide (memType p.pa = .peer))
          && s.unreachable (((s.core c).task).getD Resident.idle).ctx then some (.error (plainFault .peerAbsent 0))
      else read o
  | .fault f => some (.error f)
  | .wait _ _ => none

/-- The destination write of one part: a denied piece of it is dropped and reported (R317); the addition of a COPYR is
an atomic, which needs both rights (R136, R316). -/
def State.copyPut (s : State) (c : CoreId) (o : Operand) (bs : List Byte) (reads : Bool) : State :=
  match o.loc with
  | .store d l => s.mapCore d (·.writeLocal l.off bs true)
  | .mem a =>
    let m := (((s.core c).task).getD Resident.idle).master
    a.pieces.foldl (fun s p =>
      (cutAt p.pa p.len 128).foldl (fun s q =>
        let pa := p.pa + q.1
        if reads && !s.granted m pa .read then (s.logDenied m pa .read).mapCore c (·.defer .permWrite 0)
        else if s.granted m pa .write then s.writePhys pa (((bs.drop p.at_).drop q.1).take q.2) (some m) none
        else (s.logDenied m pa .write).mapCore c (·.defer .permWrite 0)) s) s

/-- One part of a copy. Its source bytes are those from before the piece, or those in memory now (R216). A part that fails
writes nothing; a denied read of its source is logged (R317). R317 reports a read at its instruction, which has retired, and
R217 does not list the failure: DESIGN CHOICE, a source read or a walk that a target denies fails the unit and its batch with
that cause (log entry 114). -/
def State.copyPart (s : State) (c : CoreId) (x : CopyOp) (src dst : Except FaultInfo Operand) (past : State) : State :=
  match src, dst with
  | .error f, _ | _, .error f =>
    (s.logFault (((s.core c).task).getD Resident.idle).master f).mapCore c (·.failCopy x.seq x.batch f)
  | .ok so, .ok d =>
    let bs := if Config.copyReadsNew s.ticks then s.bytesAt so else past.bytesAt so
    s.copyPut c d (reduceBytes x.form (s.bytesAt d) bs) (decide (x.form ≠ .copy))

/-- A copy may not go on yet: older writes and copies of the task come first where ranges of R55 meet, or bytes that both
write (R56, R59, R126), or where a fence put them first (R134), which also puts an older copy's reads of the same bytes first
(R126). -/
def Core.copyHeld (k : Core) (x : CopyOp) : Bool :=
  k.writes.any (fun w => !w.errand && decide (w.seq < x.seq)
    && (w.meets (x.srange :: x.dests) || decide (w.seq < x.floor)))
  || k.copies.any (fun y => decide (y.seq < x.seq)
    && (rangesMeet y.drange x.srange || anyMeet (y.sources ++ y.dests) x.dests
      || (decide (y.seq < x.rfloor) && anyMeet y.sources x.sources)))

def Core.setCopies (k : Core) (l : List CopyOp) : Core := { k with copies := l }

/-- The kinds of a copy's destination: a COPYR reads it too. Denials there are met at the write (R317). -/
def destKind (form : CopyForm) : Kind := if form = .copy then .lateWrite else .lateBoth

/-- The next piece of a copy: done, and the copy with it when it was the last. -/
def State.doPiece (s : State) (c : CoreId) (x : CopyOp) : State :=
  let sides := (pieceParts x x.pieces).map (fun p =>
    (s.copySide c x.ssp .lateRead p.1 p.2.2, s.copySide c x.dsp (destKind x.form) p.2.1 p.2.2))
  if (s.core c).copyHeld x || sides.any (fun p => p.1.isNone || p.2.isNone) then s
  else
    let todo : List (Except FaultInfo Operand × Except FaultInfo Operand) := sides.filterMap (fun p => match p with
      | (some a, some b) => some (a, b)
      | _ => none)
    let os := todo.flatMap (fun p => (match p.1 with | .ok o => [o] | .error _ => [])
      ++ (match p.2 with | .ok o => [o] | .error _ => []))
    let todo := if Config.laterWins s.ticks then todo else todo.reverse
    let s' := todo.foldl (fun t p => t.copyPart c x p.1 p.2 s) (s.request os)
    if pieceCount x ≤ x.pieces + 1 then s'.mapCore c (·.finishCopy x.seq x.batch)
    else s'.mapCore c (fun k => k.setCopies (k.copies.map (fun y =>
      if y.seq = x.seq then { y with pieces := x.pieces + 1 } else y)))

/-- COPY_PIECE: the streamer performs the next piece of the copy numbered `n` of a core that has not halted. -/
def execCopyPiece (c : CoreId) (n : Nat) (s : State) : Host.Outcome State Fault Refusal :=
  .next (match (s.core c).copies.find? (fun x => x.seq == n) with
    | some x => if (s.core c).halted then s else s.doPiece c x
    | none => s)

end Sys2Proof.Machine
end

