-- ==== Sys2Proof/Machine/Errand.lean ====
section
/-! DEFINITION. CALLAT, REPLY and WAITRP, class 0x34, the arrival of errands, the delivery of outcomes, and the
errand budget (R33, R35 to R38, R138, R198 to R202). -/

namespace Sys2Proof.Machine

def State.slot (s : State) (n : Fin 16) : Slot := s.here.slots[n]

def State.setSlot (s : State) (n : Fin 16) (x : Slot) : State :=
  s.setHere { s.here with slots := s.here.slots.set n x }

/-- CALLAT (R199): a release at DEVICE scope (R202). -/
def execCallat (ga gp : GReg) (slot : Fin 16) (s : State) : Host.Outcome State Fault Refusal :=
  issue (.callat ga gp slot) s (fun s =>
    if (s.slot slot).status = .pending then .wait s .slot
    else
      let r := s.resident
      match resolveLocal r (s.gangCount r) (s.g gp) 1 false with
      | .error f => .raise f
      | .ok l =>
        afterDrain s false (fun s =>
          let msg : ErrandMsg := ⟨⟨r.key, r.peer, slot⟩, s.g ga, #v[s.g 10, s.g 11, s.g 12, s.g 13]⟩
          let s := s.setSlot slot ⟨.pending, 0⟩
          .retire { s with posts := s.posts ++ [⟨msg, l.key, l.peer⟩] }))

/-- REPLY (R38, R200): the first of an errand delivers. -/
def execReply (gs : GReg) (s : State) : Host.Outcome State Fault Refusal :=
  issue (.reply gs) s (fun s =>
    afterDrain s false (fun s =>
      match s.here.run with
      | some r =>
        if r.replied then .retire s
        else .retire ((s.setHere { s.here with run := some { r with replied := true } }).send ⟨r.caller, .value, s.g gs⟩)
      | none => .retire s))

/-- WAITRP (R138, R201). -/
def execWaitrp (gd ga : GReg) (slot : Fin 16) (s : State) : Host.Outcome State Fault Refusal :=
  issue (.waitrp gd ga slot) s (fun s =>
    let x := s.slot slot
    if x.status = .pending then .wait s .slot
    else .retire (((s.setSlot slot ⟨.empty, 0⟩).setG ga (BitVec.ofNat 64 x.status.code)).setG gd x.value))

/-! Arrival at the target (R33, R37). -/

/-- What becomes of an errand at its target. -/
inductive Arrived where
  | accept (c : CoreId)
  | refuse
  | absent
  deriving DecidableEq, Repr

/-- A gang that the device does not know any more has retired or been killed; one of a running launch that no unit has
reached is not placed yet. -/
def State.unplaced (s : State) (k : GangKey) : Bool :=
  match s.launch k.launch with
  | some l => decide (l.placed ≤ k.gang)
  | none => false

def State.arriving (s : State) (p : Post) : Arrived :=
  match s.gang p.key with
  | none => if s.unplaced p.key then .refuse else .absent
  | some g =>
    if s.allEnded g then .absent
    else
      match s.peerAt p.key p.peer with
      | .core c =>
        if g.state = .placed then .refuse
        else if min 16 (((s.core c).task.map (·.depth)).getD 0) ≤ (s.core c).mbox.length then .refuse
        else .accept c
      | .dead _ | .absent => .absent
      | .moving _ | .saved _ => .refuse

/-- An earlier post of the same task to the same target comes first (R37). -/
def State.postHeld (s : State) (n : Nat) (p : Post) : Bool :=
  (s.posts.take n).any (fun q => q.msg.caller.key == p.msg.caller.key && q.msg.caller.peer == p.msg.caller.peer
    && q.key == p.key && q.peer == p.peer)

/-- CALLAT_ARRIVAL of the post at place `n`. -/
def execCallatArrival (n : Nat) (s : State) : Host.Outcome State Fault Refusal :=
  .next (match s.posts[n]? with
    | none => s
    | some p =>
      if s.postHeld n p then s
      else
        let s := { s with posts := s.posts.eraseIdx n }
        match s.arriving p with
        | .accept c => s.mapCore c (fun k => Core.startErrand { k with mbox := k.mbox ++ [p.msg] })
        | .refuse => s.send ⟨p.msg.caller, .refused, 0⟩
        | .absent => s.send ⟨p.msg.caller, .absent, 0⟩)

/-- REPLY_DELIVERY of the outcome at place `n`. -/
def execReplyDelivery (n : Nat) (s : State) : Host.Outcome State Fault Refusal :=
  .next (match s.replies[n]? with
    | none => s
    | some r => ({ s with replies := s.replies.eraseIdx n }).deliver r)

/-- ERRAND_BUDGET (R36): due before the instruction after the 4096th retired one, whatever it is. -/
def State.budgetSpent (s : State) (c : CoreId) : Bool :=
  decide ((s.core c).err.mode = .user) && ((s.core c).run.map (fun r => decide (4096 ≤ r.count))).getD false

def execErrandBudget (c : CoreId) (s : State) : Host.Outcome State Fault Refusal :=
  .next (if s.budgetSpent c && s.runnable ⟨c, true⟩ && !s.atFend ⟨c, true⟩ then s.raise ⟨c, true⟩ (plainFault .errandBudget 0) else s)

end Sys2Proof.Machine
end

