-- ==== Sys2Proof/Machine/Receive.lean ====
section
/-! DEFINITION. The order in which the link's receiver performs the transactions of one engine while some of them, lost
with a voided slot, are still to come again (R33, R362, R363; log entry 66). -/

namespace Sys2Proof.Machine

/-- What R362 looks at in a transaction of the peer device: its sender and tag, what it touches, and whether it is a release
or an atomic, or what a fence of its own orders. -/
structure Incoming where
  origin : Origin
  tag : Nat
  target : Option (LinkTarget × Nat)
  ordered : Bool
  deriving DecidableEq, Repr

/-- FREEZE, THAW and BARARR order what comes before them (R152, R155, R225), and their messages with it. -/
def incoming : LinkTransaction → Incoming
  | .read m pa len tag => ⟨m, tag, some (.home pa, len), false⟩
  | .write m pa bytes rel tag => ⟨m, tag, some (.home pa, bytes.length), rel.isSome⟩
  | .atomic m _ n pa _ _ _ tag => ⟨m, tag, some (.home pa, size3Bytes n), true⟩
  | .copyWrite m t bytes tag => ⟨m, tag, some (t, bytes.length), false⟩
  | .reduceWrite m t bf16 _ elems tag => ⟨m, tag, some (t, (if bf16 then 2 else 4) * elems.length), false⟩
  | .freeze m tag _ => ⟨m, tag, none, true⟩
  | .sweep m tag _ => ⟨m, tag, none, true⟩
  | .arrival k _ => ⟨k.origin, k.tag, none, true⟩

/-- Two ranges of link targets touch one 128-byte line. -/
def sameLine : LinkTarget × Nat → LinkTarget × Nat → Bool
  | (.home a, n), (.home b, m) => (blocksOf a n 128).any (blocksOf b m 128).contains
  | (.store k p a, n), (.store l q b, m) => k == l && p == q && (blocksOf a n 128).any (blocksOf b m 128).contains
  | _, _ => false

/-- Two transactions have one originating engine. -/
def sameEngine (a b : Origin) : Bool := a.core == b.core && a.engine == b.engine

/-- A transaction is the one that is awaited. -/
def Awaited.is (x : Awaited) (y : Incoming) : Bool := sameEngine x.lost.origin y.origin && y.tag == x.lost.tag

/-- An awaited transaction has come and is performed, at a home after its open sweep (R157). -/
def State.performed (s : State) (x : Awaited) : Bool := x.came && !s.mem.waiting.any (fun w => w.ack == some ⟨x.lost.origin, x.lost.tag⟩)

/-- R362: a transaction that is not performed yet holds a later one of its engine. -/
def State.holdsLater (s : State) (x : Awaited) (y : Incoming) : Bool :=
  !s.performed x && sameEngine x.lost.origin y.origin
    && (y.ordered || y.origin.fenced || y.target.any (fun t => x.lost.target.any (fun a => sameLine (a, x.lost.len) t)))

/-- The task of a local store is in mid-migration, or its gang is halting with that task already saved: accesses wait
(R31, R33). -/
def State.storeWaits (s : State) (k : GangKey) (peer : Nat) : Bool :=
  match s.peerAt k peer with
  | .moving _ => true
  | .saved _ => (s.gang k).any (fun g => g.state == .halting)
  | _ => false

/-- A transaction waits at the receiver: for one that was lost before it (R362), or for its target's task (R33). -/
def State.mustKeep (s : State) (y : Incoming) : Bool :=
  (s.link.awaited.takeWhile (fun x => !x.is y)).any (fun x => s.holdsLater x y)
    || (match y.target with
        | some (.store k p _, _) => s.storeWaits k p
        | _ => false)

/-- A transaction that is itself kept, as later ones wait for it. -/
def Incoming.awaited (y : Incoming) : Awaited :=
  ⟨⟨y.origin, y.tag, y.target.map (·.1), (y.target.map (·.2)).getD 0⟩, false⟩

/-- A transaction is kept until nothing holds it. -/
def State.keepBack (s : State) (x : LinkTransaction) : State :=
  let y := incoming x
  { s with link := { s.link with
      kept := s.link.kept ++ [x]
      awaited := s.link.awaited ++ (if s.link.awaited.any (·.is y) then [] else [y.awaited]) } }

/-- A transaction has come: an awaited one is so no longer once it is performed. -/
def State.cameIn (s : State) (y : Incoming) : State :=
  let xs := s.link.awaited.map (fun x => if x.is y then { x with came := true } else x)
  { s with link := { s.link with awaited := xs.filter (fun x => !s.performed x) } }

/-- A transaction of the peer device is performed, or kept. -/
def State.received (s : State) (x : LinkTransaction) (body : State → State) : State :=
  if s.mustKeep (incoming x) then s.keepBack x else (body s).cameIn (incoming x)

/-- The oldest kept transaction that nothing holds any more. -/
def State.nextKept (s : State) : Option LinkTransaction := s.link.kept.find? (fun x => !s.mustKeep (incoming x))

/-- A kept transaction is taken out to be performed. -/
def State.unkeep (s : State) (x : LinkTransaction) : State := { s with link := { s.link with kept := s.link.kept.erase x } }

end Sys2Proof.Machine
end

