-- ==== Sys2Proof/Machine/Freeze.lean ====
section
/-! DEFINITION. FREEZE, THAW, THAWWAIT and PUBLISH, class 0x32, freeze events and thaw sweeps (R139, R144, R146,
R151 to R164, R227, R228, R363 to R365). -/

namespace Sys2Proof.Machine

/-! Regions (R151). -/

/-- A page of a region: its virtual address and its frame. -/
structure RegionPage where
  va : Word
  frame : Nat
  deriving DecidableEq, Repr

/-- The pages of a region, lowest first: mapped, writable and of device memory. -/
def State.regionPages (s : State) (base : Word) : Nat → Nat → Except FaultInfo (List RegionPage × List Found)
  | _, 0 => .ok ([], [])
  | i, n + 1 =>
    let va := base + BitVec.ofNat 64 (0x8000 * i)
    match s.translate s.here s.resident s.me.mode .write va.toNat with
    | .error f => .error f
    | .ok (pa, fo) =>
      if memType pa ≠ .device then .error (plainFault .permWrite va)
      else
        match s.regionPages base (i + 1) n with
        | .error f => .error f
        | .ok (ps, fs) => .ok (⟨va, frameOf pa⟩ :: ps, fo :: fs)

/-- The checks of FREEZE and THAW on their region, and what comes after them. -/
def State.region (s : State) (base len : Word) (body : State → List RegionPage → Effect) : Effect :=
  if base.toNat % 0x8000 ≠ 0 ∨ len.toNat % 0x8000 ≠ 0 then .raise (plainFault .misaligned base)
  else
    match s.regionPages base 0 (len.toNat / 0x8000) with
    | .error f => .raise f
    | .ok (ps, fs) => body (s.setHere (fs.foldl (fun k f => k.learn false f) s.here)) ps

def framesOf (ps : List RegionPage) : List Nat := (ps.map (·.frame)).eraseDups

/-- The ticket of R159. -/
def ticket (kind domain : Nat) (seq : BitVec 48) : Word := BitVec.ofNat 64 (kind * 2 ^ 62 + domain * 2 ^ 59 + seq.toNat)

/-- The next value of the freeze-event sequence (R159). -/
def State.takeSeq (s : State) : State := { s with frz := { s.frz with seq := s.frz.seq + 1 } }

/-! FREEZE (R151 to R154). -/

/-- FDOM with the parts of a domain added (R151). -/
def FrameAttr.withDomain (a : FrameAttr) (sc : Scope) (die : Nat) (spanned : Bool) : FrameAttr :=
  { a with
    die0 := a.die0 || sc != .die || die == 0
    die1 := a.die1 || sc != .die || die == 1
    peer := a.peer || (sc == .span && spanned) }

def State.frozenFrame (s : State) (sc : Scope) (f : Nat) : State :=
  let a := s.frame f
  s.setFrame f ({ a with fcount := a.fcount + 1 }.withDomain sc (dieOf s.cur.core) s.resident.spanned)

/-- The cores that must apply and acknowledge an event: a sleeping core counts as having done so (R152). -/
def State.wakefulCores (s : State) : List CoreId := allCores.filter (fun c => !(s.core c).asleep)

/-- The freeze point over some frames; the event goes to every core, and to the peer device of a spanned context. -/
def State.freezePoint (s : State) (sc : Scope) (fs : List Nat) : State :=
  let op : FreezeOp :=
    { id := s.frz.nextId, who := some s.cur, ticket := ticket 1 (scopeCode sc) s.frz.seq, foreign := none, frames := fs,
      toApply := s.wakefulCores, toAck := s.wakefulCores,
      peerWait := s.resident.spanned && s.link.state == .up }
  let s := (fs.foldl (fun s f => s.frozenFrame sc f) s).takeSeq
  let s := if op.peerWait then s.sendLines 1 else s
  { s with frz := { s.frz with nextId := s.frz.nextId + 1, ops := s.frz.ops ++ [op] } }

/-- The freeze event that the strand waits for. -/
def State.freezeOp (s : State) : Option FreezeOp := s.frz.ops.find? (fun o => decide (o.who = some s.cur))

def State.dropFreeze (s : State) (id : Nat) : State :=
  { s with frz := { s.frz with ops := s.frz.ops.filter (fun o => o.id != id) } }

def execFreeze (gd ga gl : GReg) (sc : Scope) (s : State) : Host.Outcome State Fault Refusal :=
  issue (.freeze gd ga gl sc) s (fun s =>
    match s.freezeOp with
    | some o => if o.done then .retire ((s.dropFreeze o.id).setG gd o.ticket) else .wait s .freezeAcks
    | none =>
      s.region (s.g ga) (s.g gl) (fun s ps =>
        if ps.any (fun p => (s.frame p.frame).sweep) then .wait s .freezePoint
        else if s.resident.spanned && s.link.state == .up && !s.linkCarries then .wait s .linkAcks
        else
          afterFence s (fun s =>
            match ps.find? (fun p => decide (15 ≤ (s.frame p.frame).fcount)) with
            | some p => .raise (plainFault .freezeOverflow p.va)
            | none =>
              if ps.isEmpty then .retire (s.takeSeq.setG gd (ticket 1 (scopeCode sc) s.frz.seq))
              else .wait (s.freezePoint sc (framesOf ps)) .freezeAcks)))

/-! THAW and THAWWAIT (R155 to R160). -/

/-- The caches of a frame's FDOM (R153). -/
def FrameAttr.caches (a : FrameAttr) : List CacheId :=
  let die (d : Nat) : List CacheId :=
    ((List.finRange 64).filter (fun n => decide (n.val / 32 = d))).map CacheId.slice
    ++ (allCores.filter (fun c => decide (dieOf c = d))).map CacheId.core
  (if a.die0 then die 0 else []) ++ (if a.die1 then die 1 else []) ++ (if a.peer then [.peer] else [])

/-- A cache that cannot acknowledge counts as having done so: a sleeping core, a peer beyond a lost link (R156). -/
def State.answers (s : State) : CacheId → Bool
  | .slice _ => true
  | .core c => !(s.core c).asleep
  | .peer => s.link.state == .up

/-- A core advances its check epoch (R58). -/
def Core.advanceEpoch (k : Core) : Core := { k with epoch := k.epoch + 1 }

/-- Every core applies the start or the end of a thaw sweep (R58). -/
def State.advanceEpochs (s : State) : State := { s with cores := s.cores.map Core.advanceEpoch }

/-- What a home makes of a write or an atomic that it performs: the new bytes, where there are any, and the answer that
the sender receives (R127, R136, R364). -/
def HomeOp.apply (op : HomeOp) (id : LinkId) (old bs : List Byte) : Option (List Byte) × LinkAnswer :=
  match op with
  | .copy form => (some (reduceBytes form old bs), .ack id)
  | .atomic op src cmp =>
    ((atomicNew op bs.length (leNat old) src cmp).map (natLe bs.length), .old id (BitVec.ofNat 128 (leNat old)))

/-- Of a write that owes no answer. -/
def noId : LinkId := ⟨⟨⟨0, 0⟩, 0, 0, false⟩, 0⟩

/-- A write or an atomic is performed at its home and answered. An atomic's `bytes` give its size alone. -/
def State.performHome (s : State) (w : HomeWrite) : State :=
  let r := w.form.apply (w.ack.getD noId) (s.mem.cells.read w.pa w.bytes.length) w.bytes
  let s := match r.1 with
    | some bs => s.writePhys w.pa bs w.master w.rel
    | none => s
  (match w.ack with
    | some _ => s.answer r.2
    | none => s).notify w.notify

/-- A transaction accepted at its home: it waits for an open sweep, or is performed (R157). -/
def State.acceptHome (s : State) (w : HomeWrite) : State :=
  if (s.attrAt w.pa).sweep then { s with mem := { s.mem with waiting := s.mem.waiting ++ [w] } } else s.performHome w

/-- SWEEP_CLOSE: the frame's attributes, the end of the sweep at every core, and the writes that waited at its home, with the
scheduler's that waited for these (R58, R156, R157). -/
def State.closeSweep (s : State) (f : Nat) : State :=
  let a := s.frame f
  let s := s.setFrame f { a with sweep := false, die0 := false, die1 := false, peer := false }
  let ready := s.mem.waiting.filter (fun w => decide (frameOf w.pa = f))
  (ready.foldl State.performHome
    { s.advanceEpochs with
      mem := { s.mem with waiting := s.mem.waiting.filter (fun w => decide (frameOf w.pa ≠ f)) }
      frz := { s.frz with sweeps := s.frz.sweeps.filter (fun w => w.frame != f) } }).flushOutbox

/-- One frame of a THAW: its count falls, and at zero its sweep starts, which every core applies (R58, R155). -/
def State.thawFrame (s : State) (f : Nat) : State :=
  let a := s.frame f
  if 1 < a.fcount then s.setFrame f { a with fcount := a.fcount - 1 }
  else
    let cs := a.caches.filter s.answers
    let s := (s.setFrame f { a with fcount := 0, sweep := true }).advanceEpochs
    let s := if cs.contains .peer then s.sendLines 1 else s
    let s := { s with frz := { s.frz with sweeps := s.frz.sweeps ++ [⟨s.frz.seq, f, cs, cs⟩] } }
    if cs.isEmpty then s.closeSweep f else s

def execThaw (gd ga gl : GReg) (s : State) : Host.Outcome State Fault Refusal :=
  issue (.thaw gd ga gl) s (fun s =>
    s.region (s.g ga) (s.g gl) (fun s ps =>
      afterFence s (fun s =>
        match ps.find? (fun p => decide ((s.frame p.frame).fcount = 0)) with
        | some p => .raise (plainFault .thawUnderflow p.va)
        | none =>
          let fs := framesOf ps
          if fs.any (fun f => (s.frame f).peer) && s.link.state == .up && !s.linkCarries then .wait s .linkAcks
          else
            let kind := if fs.any (fun f => decide ((s.frame f).fcount = 1)) then 2 else 3
            .retire (((fs.foldl State.thawFrame s).takeSeq).setG gd (ticket kind 0 s.frz.seq)))))

/-- THAWWAIT (R160): performed once, as the oldest instruction, it waits for the sweeps that had started by then, with a
SEQ at or below the ticket's. -/
def execThawwait (ga : GReg) (s : State) : Host.Outcome State Fault Refusal :=
  issue (.thawwait ga) s (fun s =>
    let n := bitsOf (s.g ga) 47 0
    let bound := s.here.thawBound.getD s.frz.seq
    if s.frz.sweeps.any (fun w => decide (w.seq.toNat ≤ n ∧ w.seq.toNat < bound.toNat)) then
      .wait (s.setHere { s.here with thawBound := some bound }) .thawTicket
    else .retire (s.setHere { s.here with thawBound := none }))

/-! PUBLISH (R146, R147, R163). -/

/-- Translation and permission of the widened range, page by page. -/
def State.publishRange (s : State) (base len : Word) : Except FaultInfo Access :=
  let lo := base.toNat / 128 * 128
  let n := (base.toNat + len.toNat + 127) / 128 * 128 - lo
  s.translateParts s.here s.resident s.me.mode .write (pageParts lo n (n / 0x8000 + 2))

/-- The lines of code frames of some pieces. -/
def State.codeLines (s : State) (ps : List Piece) : List Nat :=
  (ps.flatMap (fun p => blocksOf p.pa p.len 128)).filter (fun l => (s.attrAt (l * 128)).code)

/-- U bits cleared at the homes and in F copies. -/
def State.clearU (s : State) (ls : List Nat) : State :=
  { s with mem := { s.mem with
      ubits := s.mem.ubits.filter (fun l => !ls.contains l)
      fLines := s.mem.fLines.map (fun f => if ls.contains f.2.1 then (f.1, f.2.1, false) else f) } }

/-- A retired write of either strand to some lines is not performed yet. -/
def Core.writesTo (k : Core) (ls : List Nat) : Bool :=
  k.writes.any (fun w => w.segs.any (fun g => match g.dst with
    | .phys pa => (blocksOf pa g.bytes.length 128).any ls.contains
    | .store _ _ _ => false))

/-- A write that either strand of a core has sent over the link to some lines is not performed yet. -/
def State.sentLines (s : State) (c : CoreId) (ls : List Nat) : Bool :=
  s.link.unacked.any (fun u => u.core == some c && (blocksOf u.pa u.bytes.length 128).any ls.contains)

/-- The cores whose prefetched code a PUBLISH of a scope discards: SPAN and SYSTEM act as DEVICE, and the issuer's core is
always among them (R139, R146, R147). -/
def publishCores (sc : Scope) (c : CoreId) : List CoreId :=
  allCores.filter (fun d => match sc with
    | .core => d == c
    | .quire => quireOf d == quireOf c
    | .die => dieOf d == dieOf c
    | .device | .span | .system => true)

/-- Prefetched code of some lines is discarded. -/
def Core.discardCode (k : Core) (ls : List Nat) : Core :=
  { k with prefetched := k.prefetched.filter (fun l => !ls.contains l.line) }

def State.discardCode (s : State) (cs : List CoreId) (ls : List Nat) : State :=
  cs.foldl (fun s c => s.mapCore c (·.discardCode ls)) s

def execPublish (ga gl : GReg) (sc : Scope) (s : State) : Host.Outcome State Fault Refusal :=
  issue (.publish ga gl sc) s (fun s =>
    if s.g gl = 0 then .retire s
    else
      match s.publishRange (s.g ga) (s.g gl) with
      | .error f => .raise f
      | .ok a =>
        let s := (s.drainStrand ⟨s.cur.core, false⟩).drainStrand ⟨s.cur.core, true⟩
        let s := s.setHere (a.found.foldl (fun k f => k.learn false f) s.here)
        let lines := a.pieces.flatMap (fun p => blocksOf p.pa p.len 128)
        if s.here.writesTo lines then .wait s .sweep
        else if s.sentLines s.cur.core lines || (wideScope sc && !s.acknowledged s.cur) then .wait s .linkAcks
        else
          let ls := s.codeLines a.pieces
          .retire ((s.clearU ls).discardCode (publishCores sc s.cur.core) ls))

/-! Freeze events and their acknowledgements (R152). -/

def State.mapFreeze (s : State) (n : Nat) (f : FreezeOp → FreezeOp) : State :=
  { s with frz := { s.frz with ops := s.frz.ops.map (fun o => if o.id = n then f o else o) } }

/-- Events that no strand waits for are over once acknowledged; one of the peer device's is answered. -/
def State.endFreezes (s : State) : State :=
  let ended := s.frz.ops.filter (fun o => o.who.isNone && o.done)
  { s with
    frz := { s.frz with ops := s.frz.ops.filter (fun o => !(o.who.isNone && o.done)) }
    link := (ended.filterMap (·.foreign)).foldl (fun l t =>
      { l.send s.ticks with answers := l.answers ++ [.ack t] }) s.link }

/-- A freeze event of the peer device goes to every core that is awake; with none it is acknowledged at once (R152). -/
def State.peerFreeze (s : State) (id : LinkId) (fs : List Nat) : State :=
  State.endFreezes { s with frz := { s.frz with
      foreign := (s.frz.foreign ++ fs).eraseDups
      nextId := s.frz.nextId + 1
      ops := s.frz.ops ++ [{ id := s.frz.nextId, who := none, ticket := 0, foreign := some id, frames := fs,
                             toApply := s.wakefulCores, toAck := s.wakefulCores, peerWait := false }] } }

/-- FREEZE_EVENT (R152, R363). The frames that an event of the peer device names are frozen for this device's writes from
then until that device's thaw sweep (R151, R161). -/
def execFreezeEvent (m : FreezeMsg) (s : State) : Host.Outcome State Fault Refusal :=
  .next (match m with
    | .core c n =>
      if s.frz.ops.any (fun o => o.id == n && o.toApply.contains c) then
        (s.mapCore c Core.advanceEpoch).mapFreeze n (fun o => { o with toApply := o.toApply.filter (fun d => d != c) })
      else s
    | .peer m tag fs =>
      if s.link.state = .up ∧ fs.all (fun f => memType (f * 0x8000) == .peer) = true then
        s.received (.freeze m tag fs) (·.peerFreeze ⟨m, tag⟩ fs)
      else s)

/-- Some pending write of a core goes to one of the frames. -/
def Core.writesFrames (k : Core) (fs : List Nat) : Bool :=
  k.writes.any (fun w => w.segs.any (fun g => match g.dst with
    | .phys pa => (blocksOf pa g.bytes.length 0x8000).any fs.contains
    | .store _ _ _ => false))

/-- A retired copy of a core writes to one of the frames. -/
def State.copiesTouch (s : State) (c : CoreId) (fs : List Nat) : Bool :=
  (s.core c).copies.any (fun x => x.dphys.any (fun r => (blocksOf r.2.1 (r.2.2 - r.2.1) 0x8000).any fs.contains))

/-- A core may acknowledge: its strands' writes and its copies' writes to the region are performed at their home, those
sent over the link too; a halted core owes no copy (R152). HALT saves nothing (R303), and the manual does not say whether the
copies of the task that it holds go on: DESIGN CHOICE, they do, and every piece of them is waited for (log entry 98). -/
def State.mayAck (s : State) (c : CoreId) (o : FreezeOp) : Bool :=
  o.toAck.contains c && !o.toApply.contains c && !(s.core c).writesFrames o.frames
    && s.link.unacked.all (fun u => decide (u.core ≠ some c ∨ frameOf u.pa ∉ o.frames))
    && ((s.core c).halted || !s.copiesTouch c o.frames)

/-- FREEZE_ACKNOWLEDGEMENT of a core, or of the peer device, after which the link may carry what the scheduler has still to
send (R365). -/
def execFreezeAcknowledgement (c : FreezeAck) (n : Nat) (s : State) : Host.Outcome State Fault Refusal :=
  .next (match c, s.frz.ops.find? (fun o => o.id == n) with
    | .core c, some o =>
      if s.mayAck c o then
        (s.mapFreeze n (fun o => { o with toAck := o.toAck.filter (fun d => d != c) })).endFreezes
      else s
    | .peer _, some _ => ((s.mapFreeze n (fun o => { o with peerWait := false })).endFreezes).flushOutbox
    | _, none => s)

/-! Thaw sweeps (R156). -/

/-- A cache drops its F lines of a frame. -/
def State.dropF (s : State) (cache : CacheId) (f : Nat) : State :=
  let s := match cache with
    | .core c =>
      if s.mem.fLines.any (fun x => x.1 == cache && decide (frameOf (x.2.1 * 128) = f)) then
        s.mapCore c (fun k => { k with
          l1i := k.l1i.filter (fun l => decide (frameOf (l.line * 128) ≠ f))
          prefetched := k.prefetched.filter (fun l => decide (frameOf (l.line * 128) ≠ f)) })
      else s
    | _ => s
  { s with mem := { s.mem with fLines := s.mem.fLines.filter (fun x => !(x.1 == cache && decide (frameOf (x.2.1 * 128) = f))) } }

/-- Every cache of this device. -/
def ownCaches : List CacheId := (List.finRange 64).map CacheId.slice ++ allCores.map CacheId.core

def State.mapSweep (s : State) (f : Nat) (g : Sweep → Sweep) : State :=
  { s with frz := { s.frz with sweeps := s.frz.sweeps.map (fun w => if w.frame = f then g w else w) } }

/-- Every cache of this device drops its F lines of some frames of the peer device, which are frozen no more; the sweep is
acknowledged. -/
def State.peerSweep (s : State) (id : LinkId) (frames : List Nat) : State :=
  let s := frames.foldl (fun s f => ownCaches.foldl (fun s c => s.dropF c f) s) s
  ({ s with frz := { s.frz with foreign := s.frz.foreign.filter (fun f => !frames.contains f) } }).answer (.ack id)

/-- A cache of this device drops its F lines of a frame in an open sweep that asks it to. -/
def State.ownSweep (s : State) (cache : CacheId) (frame : Nat) : State :=
  if s.frz.sweeps.any (fun w => w.frame == frame && w.toDrop.contains cache) then
    (s.dropF cache frame).mapSweep frame (fun w => { w with toDrop := w.toDrop.filter (fun c => c != cache) })
  else s

/-- THAW_SWEEP: a cache of this device drops its F lines of some frames; from the peer device, every cache drops those of the
peer's frames, which are frozen no more, and the sweep is acknowledged (R363), once the link carries transactions (R365). -/
def execThawSweep (cache : SweepMsg) (frames : List Nat) (s : State) : Host.Outcome State Fault Refusal :=
  .next (match cache with
    | .peer m tag =>
      if s.linkReady = true ∧ frames.all (fun f => memType (f * 0x8000) == .peer) = true then
        s.received (.sweep m tag frames) (·.peerSweep ⟨m, tag⟩ frames)
      else s
    | .own cache => frames.foldl (fun s f => s.ownSweep cache f) s)

/-- The cache whose acknowledgement a message is. -/
def sweepCache : SweepMsg → CacheId
  | .own c => c
  | .peer _ _ => .peer

/-- A cache acknowledges the sweep of a frame; the last one closes it (R156, R157). The peer device's drop is its own. -/
def State.ackSweep (s : State) (cache : CacheId) (frame : Nat) : State :=
  match s.frz.sweeps.find? (fun w => w.frame == frame) with
  | some w =>
    if w.toAck.contains cache && (cache == .peer || !w.toDrop.contains cache) then
      let s' := s.mapSweep frame (fun w => { w with
        toAck := w.toAck.filter (fun c => c != cache)
        toDrop := w.toDrop.filter (fun c => c != cache) })
      if (w.toAck.filter (fun c => c != cache)).isEmpty then s'.closeSweep frame else s'
    else s
  | none => s

/-- SWEEP_ACKNOWLEDGEMENT, for some frames (R363). -/
def execSweepAcknowledgement (cache : SweepMsg) (frames : List Nat) (s : State) : Host.Outcome State Fault Refusal :=
  .next (frames.foldl (fun s f => s.ackSweep (sweepCache cache) f) s)

end Sys2Proof.Machine
end

