-- ==== Sys2Proof/Machine/Save.lean ====
section
/-! DEFINITION. Save areas: writing a task's state to memory and loading it (R148, R291, R296, R297, R327, R328,
R331 to R334). What the layout leaves open is in log entry 14. -/

namespace Sys2Proof.Machine

def areaSize : Nat := 0x12_0000

/-- The `n` bytes from `a` become those of another memory from 0 on. -/
def Memory.splice (m : Memory) (a n : Nat) (x : Memory) : Memory :=
  m.filter (fun c => decide (c.1 < a))
    ++ (x.filter (fun c => decide (c.1 < n))).map (fun c => (c.1 + a, c.2))
    ++ m.filter (fun c => decide (a + n ≤ c.1))

/-- The `n` bytes from `a` as a memory from 0 on. -/
def Memory.slice (m : Memory) (a n : Nat) : Memory :=
  (m.filter (fun c => decide (a ≤ c.1 ∧ c.1 < a + n))).map (fun c => (c.1 - a, c.2))

/-- Bytes written one after another. -/
def Memory.writeParts (m : Memory) : List (Nat × List Byte) → Memory
  | [] => m
  | p :: ps => Memory.writeParts (m.write p.1 p.2) ps

/-- A doubleword of an area. -/
def Memory.dword (m : Memory) (a : Nat) : Word := wordOf (m.read a 8)

/-- Consecutive doublewords. -/
def wordsLe (ws : List Word) : List Byte := ws.flatMap le8

/-! Writing an area (R331 to R333). -/

def packRun (run : Option ErrandRun) : Nat := (run.map (fun r => packCaller r.caller r.replied)).getD 0

def msgBytes (m : ErrandMsg) : List Byte :=
  wordsLe ([BitVec.ofNat 64 (packCaller m.caller false), m.entry] ++ m.args.toList) ++ List.replicate 16 0

/-- FLAGS of the header. -/
def flagsWord (k : Core) (r : Resident) : Word :=
  BitVec.ofNat 64 (k.run.isSome.toNat + r.ended.toNat * 2 + k.main.inBackoff.toNat * 4)

def headerBytes (k : Core) (r : Resident) : List Byte :=
  wordsLe [0x0007_0001, BitVec.ofNat 64 (r.part.toNat * 2 ^ 16 + r.ctx.toNat), r.ptroot, k.codegen.setWidth 64,
    BitVec.ofNat 64 (r.peer + r.key.gang * 2 ^ 24), r.policy.setWidth 64, BitVec.ofNat 64 r.depth, flagsWord k r]

def depthWord (t : Strand) : Word := BitVec.ofNat 64 (t.spilled.toNat * 2 ^ 32 + t.ret.length)

def mainBytes (k : Core) (resume : Word) : List Byte :=
  let t := k.main
  wordsLe (t.g.toList.drop 1) ++ List.replicate 8 0 ++ wordsLe t.f.toList ++ wordsLe (k.m.toList.drop 1)
    ++ List.replicate 8 0
    ++ wordsLe [resume, BitVec.ofNat 64 k.rot.val, t.rspill, depthWord t, k.scopemiss, k.fcause]
    ++ List.replicate 16 0
    ++ wordsLe (t.ret ++ List.replicate (32 - t.ret.length) 0)
    ++ wordsLe [k.batchCtr.setWidth 64, BitVec.ofNat 64 (t.retries + t.backoff * 2 ^ 32)]

def errandBytes (k : Core) : List Byte :=
  let t := k.err
  wordsLe ((t.g.toList.drop 1).take 15) ++ List.replicate 8 0 ++ wordsLe t.f.toList
    ++ wordsLe [t.pc, BitVec.ofNat 64 ((k.run.map (·.count)).getD 0)]
    ++ wordsLe (t.ret ++ List.replicate (8 - t.ret.length) 0)
    ++ wordsLe [BitVec.ofNat 64 (t.ret.length + t.retries * 2 ^ 8 + t.backoff * 2 ^ 24),
        BitVec.ofNat 64 (packRun k.run), BitVec.ofNat 64 k.mbox.length]

def formCode : CopyForm → Nat
  | .copy => 0x00 | .fp32 => 0x20 | .fp32Lossy => 0x24 | .bf16 => 0x28

def formOfCode (n : Nat) : CopyForm :=
  match n % 256 with
  | 0x20 => .fp32 | 0x24 => .fp32Lossy | 0x28 => .bf16 | _ => .copy

def batchWord (b : Option (BitVec 32)) : Nat := (b.map (·.toNat)).getD 0xFFFF_FFFF

/-- The failure cause of a batch, or 0. -/
def Core.batchCause (k : Core) (b : Option (BitVec 32)) : Nat :=
  ((k.batches.find? (fun x => x.num == b)).map (fun x => x.fault.cause.code)).getD 0

def copyBytes (x : CopyOp) (cause : Nat) : List Byte :=
  wordsLe ([x.dst, x.src] ++ x.dsc.toList)
    ++ natLe 4 (batchWord x.batch)
    ++ natLe 4 (formCode x.form + x.ssp.toNat * 2 ^ 15 + x.dsp.toNat * 2 ^ 16 + cause * 2 ^ 24)
    ++ wordsLe [BitVec.ofNat 64 x.pieces] ++ List.replicate 8 0

/-- The copy records (R333): outstanding copies, then the failed copies that have completed, whole as they were. -/
def copyRecords (k : Core) : List Byte :=
  k.copies.flatMap (fun x => copyBytes x (if x.failed then k.batchCause x.batch else 0))
    ++ k.batches.flatMap (fun b => b.failed.flatMap (fun x => copyBytes { x with batch := b.num } b.fault.cause.code))

def rowsBytes (rows : Vector Row 64) : List Byte := rows.toList.flatMap (fun r => natLe 256 r.toNat)

def sideBytes (rows : Vector ScaleRow 64) : List Byte := rows.toList.flatMap (fun r => natLe 16 r.toNat)

/-- A cell that the task does not host has an image of 0. -/
def cellImages (k : Core) (r : Resident) : List Byte :=
  (List.finRange 96).flatMap (fun n => natLe 4 (if n.val % r.peers = r.peer then (k.cells[n]).word else 0))

/-- The whole area of a task that will resume at an address. -/
def Core.saveArea (k : Core) (r : Resident) (resume : Word) : Memory :=
  let parts : List (Nat × List Byte) :=
    [(0x0000, headerBytes k r), (0x1000, mainBytes k resume), (0x2000, errandBytes k),
      (0x2400, k.mbox.flatMap msgBytes),
      (0x3000, k.slots.toList.flatMap (fun x => natLe 8 x.status.code ++ le8 x.value)),
      (0x3100, cellImages k r), (0x4000, copyRecords k), (0x5000, natLe 0x1400 k.full.toNat),
      (0x8000, k.a.toList.flatMap rowsBytes), (0x2_8000, k.t.toList.flatMap (fun t => rowsBytes t.rows)),
      (0x6_8000, k.t.toList.flatMap (fun t => sideBytes t.side))]
  Memory.splice (Memory.writeParts [] parts) 0x7_0000 0xA_0000 k.ls

/-- An area is written to device memory. -/
def State.writeArea (s : State) (pa : Nat) (m : Option Master) (a : Memory) : State :=
  let s := (s.noteWrite pa areaSize none).noteMaster pa areaSize m
  { s with mem := { s.mem with cells := s.mem.cells.splice pa areaSize a } }

/-! Loading an area. -/

def rowsOf (a : Memory) (off : Nat) : Vector Row 64 :=
  Vector.ofFn (fun i => BitVec.ofNat 2048 (leNat (a.read (off + 256 * i.val) 256)))

def sideOf (a : Memory) (off : Nat) : Vector ScaleRow 64 :=
  Vector.ofFn (fun i => BitVec.ofNat 128 (leNat (a.read (off + 16 * i.val) 16)))

def SlotStatus.ofCode : Nat → SlotStatus
  | 1 => .pending | 2 => .value | 3 => .refused | 4 => .ended | 5 => .faulted | 6 => .absent | _ => .empty

def causeOfCode : Nat → Option Cause
  | 0x01 => some .illegalInstruction | 0x02 => some .privilegedInstruction | 0x03 => some .translation
  | 0x04 => some .permRead | 0x05 => some .permWrite | 0x06 => some .permExec | 0x07 => some .writeFrozen
  | 0x08 => some .freezeOverflow | 0x09 => some .thawUnderflow | 0x0A => some .discardFrozen
  | 0x0B => some .fetchUnpublished | 0x0C => some .misaligned | 0x0D => some .jtBound | 0x0E => some .lpadMismatch
  | 0x0F => some .returnUnderflow | 0x10 => some .errandTile | 0x11 => some .errandBudget | 0x12 => some .peerAbsent
  | 0x13 => some .barrierCell | 0x14 => some .featureLevel | 0x15 => some .dataUncorrectable
  | _ => none

def batchOf (n : Nat) : Option (BitVec 32) := if n = 0xFFFF_FFFF then none else some (BitVec.ofNat 32 n)

/-- The failure cause of record `i`. -/
def recordCause (a : Memory) (i : Nat) : Option Cause := causeOfCode (leNat (a.read (0x4000 + 64 * i + 47) 1))

/-- The copy of record `i`, in the core's order from `n` on; its ranges are found once the task is in place. The area does
not say which copies a fence stood between: each reads its bytes after the earlier ones (R126, R333). -/
def recordedCopy (a : Memory) (n i : Nat) : CopyOp :=
  let o := 0x4000 + 64 * i
  let d : Vector Word 3 := #v[a.dword (o + 16), a.dword (o + 24), a.dword (o + 32)]
  let w := leNat (a.read (o + 44) 4)
  { dst := a.dword o, src := a.dword (o + 8), dsc := d, form := formOfCode w, dsp := entryBit w 16, ssp := entryBit w 15,
    batch := batchOf (leNat (a.read (o + 40) 4)), pieces := (a.dword (o + 48)).toNat,
    failed := (recordCause a i).isSome, srange := (.virt, 0, 0), drange := (.virt, 0, 0), sphys := [], dphys := [],
    seq := n + i, floor := 0, rfloor := n + i }

/-- The same where the record has bytes left to copy. -/
def recordCopy (a : Memory) (n i : Nat) : Option CopyOp :=
  let x := recordedCopy a n i
  if emptyBlock x.dsc ∨ pieceCount x ≤ x.pieces then none else some x

/-- The failed batches with record `i` taken in: its batch has failed, and a record with nothing left to copy is of a copy
that has completed. -/
def noteFail (a : Memory) (bs : List Batch) (i : Nat) : List Batch :=
  match recordCause a i with
  | none => bs
  | some c =>
    let num := batchOf (leNat (a.read (0x4000 + 64 * i + 40) 4))
    let ended := if (recordCopy a 0 i).isNone then [recordedCopy a 0 i] else []
    if bs.any (fun b => b.num == num) then
      bs.map (fun b => if b.num = num then { b with failed := b.failed ++ ended } else b)
    else bs ++ [⟨num, plainFault c 0, ended⟩]

def loadMsg (launch : Nat) (a : Memory) (i : Nat) : ErrandMsg :=
  let o := 0x2400 + 64 * i
  ⟨unpackCaller launch (a.dword o).toNat, a.dword (o + 8),
    #v[a.dword (o + 16), a.dword (o + 24), a.dword (o + 32), a.dword (o + 40)]⟩

def loadWords (a : Memory) (off n : Nat) : List Word := (List.range n).map (fun i => a.dword (off + 8 * i))

/-- What CR.SCOPEMISS can hold of a doubleword: reserved bits read 0, and a SCOPE that is never written is not taken (R7,
R80; log entry 81). -/
def scopemissField (v : Word) : Word :=
  let w := keepBits v 63 59 ||| keepBits v 56 0
  if 5 < bitsOf v 62 60 then w &&& ~~~(BitVec.ofNat 64 (7 * 2 ^ 60)) else w

/-- What CR.FCAUSE can hold of a doubleword. -/
def fcauseField (v : Word) : Word := keepBits v 63 63 ||| keepBits v 7 0

/-- The main strand's user state; its supervisor state stays the core's. -/
def Strand.loadMain (t : Strand) (a : Memory) : Strand :=
  { t with
    g := Vector.ofFn (fun i => if i.val = 0 then 0 else a.dword (0x1000 + 8 * (i.val - 1)))
    f := Vector.ofFn (fun i => a.dword (0x1100 + 8 * i.val))
    rspill := keepBits (a.dword 0x11D0) 56 3
    spilled := BitVec.ofNat 32 (bitsOf (a.dword 0x11D8) 63 32)
    ret := loadWords a 0x1200 (min 32 (bitsOf (a.dword 0x11D8) 5 0))
    retries := bitsOf (a.dword 0x1308) 31 0
    backoff := bitsOf (a.dword 0x1308) 63 32
    inBackoff := false
    lastFault := none
    wait := none
    wfloor := 0
    rfloor := 0 }

def Strand.loadErrand (t : Strand) (a : Memory) : Strand :=
  { t with
    g := Vector.ofFn (fun i => if i.val = 0 ∨ 16 ≤ i.val then 0 else a.dword (0x2000 + 8 * (i.val - 1)))
    f := Vector.ofFn (fun i => a.dword (0x2080 + 8 * i.val))
    pc := a.dword 0x2100
    npc := a.dword 0x2100
    mode := .user
    ret := loadWords a 0x2110 (min 8 (bitsOf (a.dword 0x2150) 7 0))
    retries := bitsOf (a.dword 0x2150) 23 8
    backoff := bitsOf (a.dword 0x2150) 63 24
    inBackoff := false
    lastFault := none
    wait := none
    wfloor := 0
    rfloor := 0 }

/-- The errand in progress. -/
def loadRun (launch : Nat) (a : Memory) : Option ErrandRun :=
  if entryBit (a.dword 0x38).toNat 0 then
    let n := (a.dword 0x2108).toNat
    some ⟨unpackCaller launch (a.dword 0x2158).toNat, entryBit (a.dword 0x2158).toNat 12, n, decide (n = 0)⟩
  else none

/-- The task that an area describes; what it does not hold is as in `r`. The manual does not say what CR.MBOXDEPTH is where
the area's MBOX names no depth: DESIGN CHOICE, bits 4:0 are taken and read back as they stand, 0 and 17 to 31 too (log entry
81). -/
def loadResident (r : Resident) (a : Memory) : Resident :=
  { r with
    key := ⟨r.key.launch, bitsOf (a.dword 0x20) 47 24⟩
    peer := bitsOf (a.dword 0x20) 7 0
    part := BitVec.ofNat 3 (bitsOf (a.dword 0x08) 18 16)
    ctx := BitVec.ofNat 12 (bitsOf (a.dword 0x08) 11 0)
    ptroot := keepBits (a.dword 0x10) 51 9
    policy := BitVec.ofNat 8 (a.dword 0x28).toNat
    depth := bitsOf (a.dword 0x30) 4 0
    ended := entryBit (a.dword 0x38).toNat 1 }

/-- Everything saved, on a core whose writes have drained; the main strand's pc is the caller's matter. What the core's fetch
logic had prefetched goes, since it may be older than what the task has published (R139). -/
def Core.loadArea (k : Core) (a : Memory) (r : Resident) (cg : BitVec 16) : Core :=
  { k with
    task := some r
    main := (k.main.loadMain a).fenceReads (k.order + 64)
    err := k.err.loadErrand a
    run := loadRun r.key.launch a
    mbox := (List.range (min 16 (a.dword 0x2160).toNat)).map (loadMsg r.key.launch a)
    m := Vector.ofFn (fun i => if i.val = 0 then 0 else a.dword (0x1180 + 8 * (i.val - 1)))
    t := Vector.ofFn (fun i => ⟨rowsOf a (0x2_8000 + 0x4000 * i.val), sideOf a (0x6_8000 + 0x400 * i.val)⟩)
    a := Vector.ofFn (fun i => rowsOf a (0x8000 + 0x4000 * i.val))
    rot := Fin.ofNat 8 (a.dword 0x11C8).toNat
    ls := (a.slice 0x7_0000 0xA_0000)
    bad := []
    full := BitVec.ofNat 40960 (leNat (a.read 0x5000 0x1400))
    claims := []
    cells := Vector.ofFn (fun i => BarCell.ofWord (leNat (a.read (0x3100 + 4 * i.val) 4)))
    slots := Vector.ofFn (fun i => ⟨SlotStatus.ofCode (a.dword (0x3000 + 16 * i.val)).toNat, a.dword (0x3008 + 16 * i.val)⟩)
    codegen := cg
    scopemiss := scopemissField (a.dword 0x11E0)
    fcause := fcauseField (a.dword 0x11E8)
    copies := (List.range 64).filterMap (recordCopy a k.order)
    batches := (List.range 64).foldl (noteFail a) []
    batchCtr := BitVec.ofNat 32 (a.dword 0x1300).toNat
    order := k.order + 64
    loading := false
    barPhase := none
    barCell := none
    barLost := false
    thawBound := none
    rowUnits := []
    gather := none
    deferred := []
    prefetched := [] }

/-- The ranges of a copy on the core where its task now is. -/
def State.placeCopy (s : State) (c : CoreId) (x : CopyOp) (os xs : List Operand) : CopyOp :=
  let s := s.asUser c
  { x with
    srange := s.copyRange x.ssp x.src x.dsc x.dsc[1]
    drange := s.copyRange x.dsp x.dst x.dsc x.dsc[2]
    sphys := os.flatMap Operand.physical
    dphys := xs.flatMap Operand.physical }

/-- The operands of a side of a reissued copy: its pages one by one, where a part that must wait has none yet. -/
def State.sideAgain (s : State) (sp : Bool) (kind : Kind) (us : List MemUnit) : Except FaultInfo (List Operand) :=
  us.foldr (fun u rest =>
    match s.unit sp kind u, rest with
    | .fault f, _ => .error f
    | _, .error f => .error f
    | .ok o, .ok os => .ok (o :: os)
    | .wait _ _, .ok os => .ok os) (.ok [])

/-- Reissue of one recorded copy: the checks of R216 are made again (R334). One that fails performs nothing more; a denied
walk is logged (R317). -/
def State.reissue (s : State) (c : CoreId) (x : CopyOp) : State :=
  let u := s.asUser c
  match u.sideAgain x.ssp .early (blockUnits x.dsc x.src x.dsc[1]), u.sideAgain x.dsp .write (blockUnits x.dsc x.dst x.dsc[2]) with
  | .error f, _ | _, .error f =>
    (s.logFault (((s.core c).task.getD Resident.idle).master) f).mapCore c (fun k =>
      (k.failCopy x.seq x.batch f).finishCopy x.seq x.batch)
  | .ok os, .ok xs =>
    s.mapCore c (fun k => k.setCopies (k.copies.map (fun y => if y.seq = x.seq then s.placeCopy c x os xs else y)))

/-- A task is loaded on a core and its copies are reissued (R334). -/
def State.loadTask (s : State) (c : CoreId) (pa : Nat) (r : Resident) : State :=
  let a := s.mem.cells.slice pa areaSize
  let s := s.mapCore c (fun k => k.loadArea a (loadResident r a) s.cg)
  (s.core c).copies.foldl (fun s x => s.reissue c x) s

/-- A task leaves its core for a save area: both strands' writes have drained (R327, R328). -/
def State.saveTask (s : State) (c : CoreId) (pa : Nat) (resume : Word) : State :=
  match (s.core c).task with
  | none => s
  | some r => s.writeArea pa (some r.master) ((s.core c).saveArea r resume)

end Sys2Proof.Machine
end

