-- ==== Sys2Proof/Machine/System.lean ====
section
/-! DEFINITION. TRAP, MFCR, MTCR and PAUSE, class 0x38, the control registers and the steps that write one (R6, R7,
R74 to R80, R148 to R150, R203 to R206, R286, R292 to R294). -/

namespace Sys2Proof.Machine

/-- TRAP (R204, R286): it retires, and the strand enters supervisor mode. -/
def execTrap (g : GReg) (imm : BitVec 16) (s : State) : Host.Outcome State Fault Refusal :=
  issue (.trap g imm) s (fun s =>
    afterDrain s true (fun s =>
      let s := s.count
      .became (s.setMe ((s.me.enter s.cur.errand 0 imm.toNat s.me.npc 0 0xFFFC g).fenceReads s.here.order))))

/-- PAUSE (R206). -/
def execPause (s : State) : Host.Outcome State Fault Refusal :=
  issue .pause s Effect.retire

/-! Reading (R75 to R78, R80, R292, R294). -/

/-- The device's partition bitmap for a core: CR.PARTQ. -/
def State.partQuires (s : State) (c : CoreId) : BitVec 32 :=
  match s.partitionOf c with
  | some p => s.conf.quires[p]
  | none => 0

/-- CR.RSDEPTH. -/
def rsdepth (t : Strand) (errand : Bool) : Word :=
  BitVec.ofNat 64 ((if errand then 0 else t.spilled.toNat) * 2 ^ 32 + t.ret.length)

/-- A user control register; none is a number that is not assigned. -/
def State.readUserCr (s : State) (n : Nat) : Option Word :=
  let r := s.resident
  let k := s.here
  match n with
  | 0x001 => some (BitVec.ofNat 64 (r.spanned.toNat * 2 ^ 8 + 7))
  | 0x002 => some 0x0810_2040
  | 0x010 => some (BitVec.ofNat 64 r.peer)
  | 0x011 => some (BitVec.ofNat 64 r.key.gang)
  | 0x012 => some (BitVec.ofNat 64 r.peers)
  | 0x013 => some (BitVec.ofNat 64 r.depth)
  | 0x020 => some s.clock
  | 0x021 => some (k.codegen.setWidth 64)
  | 0x030 => some (if s.cur.errand then 0 else BitVec.ofNat 64 k.rot.val)
  | 0x031 => some k.main.rspill
  | 0x032 => some (rsdepth s.me s.cur.errand)
  | 0x040 => some k.scopemiss
  | 0x041 => some k.fcause
  | _ => none

/-- A privileged control register. -/
def State.readPrivCr (s : State) (n : Nat) : Option Word :=
  let r := s.resident
  let t := s.me
  let c := s.cur.core
  match n with
  | 0x100 => some t.sstatus
  | 0x101 => some t.sepc
  | 0x102 => some t.svec
  | 0x103 => some t.scause
  | 0x104 => some t.sfaddr
  | 0x105 => some t.sfinfo
  | 0x106 => some t.sarg
  | 0x107 => some t.sscratch
  | 0x108 => some t.sdeleg
  | 0x110 => some (BitVec.ofNat 64 (r.part.toNat * 2 ^ 16 + r.ctx.toNat))
  | 0x111 => some r.ptroot
  | 0x112 => some ((s.partQuires c).setWidth 64)
  | 0x113 => some (BitVec.ofNat 64 (dieOf c * 2 ^ 8 + c.val))
  | 0x120 => some (s.cg.setWidth 64)
  | 0x121 => some (r.policy.setWidth 64)
  | _ =>
    if 0x140 ≤ n ∧ n ≤ 0x146 then some (s.here.counters[Fin.ofNat 7 (n - 0x140)])
    else if 0x181 ≤ n ∧ n ≤ 0x18F then some (t.g[Fin.ofNat 32 (n - 0x180)])
    else none

def State.readCr (s : State) (n : Nat) : Option Word := if n < 0x100 then s.readUserCr n else s.readPrivCr n

/-- A control register number that the strand may not use: privileged in user mode, or not assigned (R74, R292). -/
def State.crFault (s : State) (n : Nat) : Option FaultInfo :=
  if s.me.mode = .user ∧ 0x100 ≤ n then some (plainFault .privilegedInstruction s.me.pc)
  else if (s.readCr n).isNone then some (plainFault .illegalInstruction s.me.pc)
  else none

def execMfcr (gd : GReg) (crn : BitVec 12) (s : State) : Host.Outcome State Fault Refusal :=
  issue (.mfcr gd crn) s (fun s =>
    match s.crFault crn.toNat with
    | some f => .raise f
    | none => .retire (s.setG gd ((s.readCr crn.toNat).getD 0)))

/-! The code generation (R148 to R150, R293). -/

/-- The generations that saved contexts recorded. -/
def State.savedGenerations (s : State) : List (BitVec 16) :=
  s.sched.gangs.flatMap (fun g => g.peers.filterMap (fun p => match p with
    | .saved pa => some (BitVec.ofNat 16 (leNat (s.mem.cells.read (pa + 0x18) 2)))
    | .core _ => none))

/-- The generations of the cores that hold a task. -/
def State.coreGenerations (s : State) : List (BitVec 16) :=
  s.cores.toList.filterMap (fun k => if k.task.isSome then some k.codegen else none)

/-- Generation `a` has passed generation `b`. -/
def passed (a b : BitVec 16) : Bool := decide ((a - b).toNat < 2 ^ 15)

/-- An advance to `n` would leave a core or a saved context 2^15 or more behind (R149). -/
def State.lagging (s : State) (n : BitVec 16) : Bool :=
  (s.coreGenerations ++ s.savedGenerations).any (fun g => !passed n g)

/-- CG_ADVANCE: sleeping cores count it (R150). -/
def State.advanceCg (s : State) : State :=
  { s with
    cg := s.cg + 1
    cgHeld := none
    cores := s.cores.map (fun k => if k.asleep then { k with sleepAdvances := min 0x8000 (k.sleepAdvances + 1) } else k) }

/-- The write of CR.CGDEV: done, or held. -/
def State.writeCgdev (s : State) (v : Word) : State × Bool :=
  if v.setWidth 16 ≠ s.cg + 1 then (s, true)
  else if s.lagging (s.cg + 1) then ({ s with cgHeld := some (s.cgHeld.getD s.clock.toNat) }, false)
  else (s.advanceCg, true)

/-! Writing (R6, R7, R75, R78, R80, R205, R292 to R294). -/

/-- The fields of a privileged register of the strand that an MTCR writes. -/
def Strand.writeCr (t : Strand) (n : Nat) (v : Word) : Strand :=
  match n with
  | 0x100 => { t with sstatus := (t.sstatus &&& ~~~(BitVec.twoPow 64 10)) ||| (v &&& BitVec.twoPow 64 10) }
  | 0x101 => { t with sepc := keepBits v 56 1 }
  | 0x102 => { t with svec := keepBits v 51 1 }
  | 0x106 => { t with sarg := v }
  | 0x107 => { t with sscratch := v }
  | 0x108 => { t with sdeleg := v }
  | _ => if 0x181 ≤ n ∧ n ≤ 0x18F then t.writeUserG (Fin.ofNat 32 (n - 0x180)) v else t

/-- CR.RSPILL belongs to the main strand; an errand's write is ignored. -/
def Core.writeRspill (k : Core) (v : Word) : Core := { k with main := { k.main with rspill := keepBits v 56 3 } }

/-- A write of a control register but CR.CGDEV; fields that are read-only keep their values. -/
def State.writeCr (s : State) (n : Nat) (v : Word) : State :=
  let k := s.here
  match n with
  | 0x031 => if s.cur.errand then s else s.setHere (k.writeRspill v)
  | 0x040 => s.setHere { k with scopemiss := scopemissWrite k.scopemiss v }
  | 0x041 => s.setHere { k with fcause := fcauseWrite k.fcause v }
  | _ =>
    if 0x140 ≤ n ∧ n ≤ 0x146 then s.setHere { k with counters := k.counters.set (Fin.ofNat 7 (n - 0x140)) v }
    else if n < 0x100 then s
    else s.setMe (s.me.writeCr n v)

/-- MTCR (R205). Whether one of CR.EVRETIRED or CR.EVERRAND counts its own retirement beside the value that it sets the
manual does not say: DESIGN CHOICE, it does (log entry 80). -/
def execMtcr (crn : BitVec 12) (gs : GReg) (s : State) : Host.Outcome State Fault Refusal :=
  issue (.mtcr crn gs) s (fun s =>
    match s.crFault crn.toNat with
    | some f => .raise f
    | none =>
      if crn.toNat = 0x120 then
        match s.writeCgdev (s.g gs) with
        | (s, true) => .retire s
        | (s, false) => .wait s .generation
      else .retire (s.writeCr crn.toNat (s.g gs)))

/-! The same writes as steps of their own. -/

/-- CR_CGDEV (R149, R293). -/
def execCrCgdev (val : Word) (s : State) : Host.Outcome State Fault Refusal := .next (s.writeCgdev val).1

/-- CR_SCOPEMISS (R80). -/
def execCrScopemiss (c : CoreId) (val : Word) (s : State) : Host.Outcome State Fault Refusal :=
  .next (s.mapCore c (fun k => { k with scopemiss := scopemissWrite k.scopemiss val }))

/-- CR_FCAUSE (R80). -/
def execCrFcause (c : CoreId) (val : Word) (s : State) : Host.Outcome State Fault Refusal :=
  .next (s.mapCore c (fun k => { k with fcause := fcauseWrite k.fcause val }))

/-- CR_RSPILL (R78, R79). -/
def execCrRspill (c : CoreId) (val : Word) (s : State) : Host.Outcome State Fault Refusal :=
  .next (s.mapCore c (·.writeRspill val))

end Sys2Proof.Machine
end

