-- ==== Sys2Proof/Machine/Privileged.lean ====
section
/-! DEFINITION. The privileged instructions, class 0x3C (R58, R288, R289, R295 to R303, R311 to R314, R323, R380). -/

namespace Sys2Proof.Machine

/-- Every privileged form acts as a fence.system.rw (R295). -/
def privilegedIssue (i : Instr) (s : State) (body : State → Effect) : Host.Outcome State Fault Refusal :=
  issue i s (fun s => afterFence s body)

/-- An ILLEGAL_INSTRUCTION of the instruction itself. -/
def illegalHere (s : State) : Effect := .raise (plainFault .illegalInstruction s.me.pc)

/-- The frame is device memory of the issuing core's partition (R380). -/
def State.ownFrame (s : State) (f : Nat) : Bool :=
  decide (memType (f * 0x8000) = .device) &&
    (match s.partitionOf s.cur.core with
      | some p => s.inPartition (BitVec.ofNat 3 p.val) f
      | none => false)

/-- The first of `n` frames from `f` that a check names. -/
def findFrame (p : Nat → Bool) (f n : Nat) : Option Nat := ((List.range n).map (· + f)).find? p

/-- The physical address of a frame, for a report. -/
def frameAddr (f : Nat) : Word := BitVec.ofNat 64 (f * 0x8000)

/-! CSAVE and CLOAD (R296, R297). -/

def areaFrames : Nat := areaSize / 0x8000

/-- The checks of a save area, with the permission fault of the form. -/
def State.areaFault (s : State) (c : Cause) (pa : Word) : Option FaultInfo :=
  if pa.toNat % 0x1_0000 ≠ 0 then some (plainFault .misaligned pa)
  else (findFrame (fun f => !s.ownFrame f) (frameOf pa.toNat) areaFrames).map (fun f => plainFault c (frameAddr f))

/-- An uncorrectable error in a save or a restore (R323). -/
def areaError : FaultInfo := { plainFault .dataUncorrectable 0 with kind := 3 }

/-- The fault of `n` bytes of an area whose access table denies the save or the restore (R290, R316, R317; log entry 95). -/
def State.areaDenied (s : State) (m : Master) (pa n : Nat) (right : Right) : Option FaultInfo :=
  (s.deniedLine m pa n right).map (fun x =>
    { plainFault (if right = .write then .permWrite else .permRead) (BitVec.ofNat 64 x) with denied := s.refusal m x right })

/-- CSAVE (R296). The errand strand's writes are performed first, over the link too (R62, R328). One that meets an
uncorrectable error is contained as R323 gives. -/
def execCsave (gd ga : GReg) (s : State) : Host.Outcome State Fault Refusal :=
  privilegedIssue (.csave gd ga) s (fun s =>
    let pa := s.g ga
    let c := s.cur.core
    match s.areaFault .permWrite pa with
    | some f => .raise f
    | none =>
      match findFrame (fun f => decide (0 < (s.frame f).fcount)) (frameOf pa.toNat) areaFrames with
      | some f => .raise (plainFault .writeFrozen (frameAddr f))
      | none =>
        if s.here.err.mode = .supervisor then .wait s .otherStrand
        else if !s.here.bad.isEmpty then .retire (s.consult s.cur areaError .gang false)
        else
          let s := s.drainStrand ⟨c, true⟩
          if (findFrame (fun f => (s.frame f).sweep) (frameOf pa.toNat) areaFrames).isSome
              || !s.drained ⟨c, true⟩ then .wait s .sweep
          else if !s.settled c then .wait s .linkAcks
          else
            match s.areaDenied s.resident.master pa.toNat areaSize .write with
            | some f => .raise f
            | none =>
              let s := s.writeArea pa.toNat (some s.resident.master) (s.here.saveArea s.resident s.me.sepc)
              .retire (s.setG gd 0))

/-- What CLOAD does to the outgoing state once its writes are performed: a kill's end without replies (R297). -/
def State.outgoing (s : State) (c : CoreId) : State :=
  (s.leaveWaits c).mapCore c (fun k => { k.forget with copies := [], batches := [], deferred := [], run := none, mbox := [] })

/-- The context's entry decides whether the loaded task reads CR.FEAT.SPANNED as 1. -/
def State.withBinding (s : State) (r : Resident) : Resident :=
  match s.binding r.ctx with
  | some b => { r with spanned := b.spanned }
  | none => r

/-- What stands against reading `n` bytes of an area: an access table, precise; an uncorrectable error, contained (R323). -/
def State.areaRefuses (s : State) (pa n : Nat) : Option Effect :=
  match s.areaDenied s.resident.master pa n .read with
  | some f => some (.raise f)
  | none => if (s.badLine pa n).isSome then some (.retire (s.consult s.cur areaError .gang false)) else none

/-- CLOAD (R297): the FORMAT of the header decides before the rest of the area is read. The loaded task, its errand too, runs
from the next SRET with k = 0. -/
def execCload (gd ga : GReg) (s : State) : Host.Outcome State Fault Refusal :=
  privilegedIssue (.cload gd ga) s (fun s =>
    let pa := s.g ga
    let c := s.cur.core
    match s.areaFault .permRead pa with
    | some f => .raise f
    | none =>
      match s.areaRefuses pa.toNat 8 with
      | some e => e
      | none =>
        if s.mem.cells.dword pa.toNat ≠ 0x0007_0001 then .retire (s.setG gd 1)
        else
          match s.areaRefuses pa.toNat areaSize with
          | some e => e
          | none =>
            if s.here.err.mode = .supervisor then .wait s .otherStrand
            else
              let s := s.drainStrand ⟨c, true⟩
              if !s.settled c then .wait s .sweep
              else
                let s := (s.outgoing c).loadTask c pa.toNat s.resident
                let s := s.mapCore c (fun k => { k with
                  loading := true
                  task := k.task.map s.withBinding
                  main := { k.main with sepc := keepBits (s.mem.cells.dword (pa.toNat + 0x11C0)) 56 1 } })
                .retire (s.setG gd 0))

/-! Translation caches (R298, R313, R314). -/

/-- Two ranges of addresses share one. -/
def meets (a n b m : Nat) : Bool := decide (a < b + m ∧ b < a + n)

/-- A translation of a context that a range of addresses touches. -/
def TlbEntry.hit (e : TlbEntry) (ctx : Nat) (lo n : Nat) : Bool :=
  decide (e.ctx.toNat = ctx) && meets e.va (2 ^ e.bits) lo n

def WalkEntry.hit (e : WalkEntry) (ctx : Nat) (lo n : Nat) : Bool :=
  decide (e.ctx.toNat = ctx) && meets (e.tag * 2 ^ levelLow e.level) (2 ^ levelLow e.level) lo n

/-- A core may still make an access of a context by a translation it has used: retired writes and copies. -/
def Core.usesContext (k : Core) (ctx : Nat) : Bool :=
  k.writes.any (fun w => decide (w.space = .virt) && decide (w.master.ctx.toNat = ctx))
    || (!k.halted && decide ((k.task.map (·.ctx.toNat)) = some ctx) && k.copies.any (fun x => !x.dsp || !x.ssp))

def State.drainContext (s : State) (ctx : Nat) : State :=
  allCores.foldl (fun s c =>
    if (s.core c).writes.any (fun w => decide (w.master.ctx.toNat = ctx)) then
      (s.drainStrand ⟨c, false⟩).drainStrand ⟨c, true⟩
    else s) s

/-- The form of a removal from every core's caches: once every access that used an entry is performed, over the link too,
every core
applies it and advances its check epoch. -/
def State.invalidate (s : State) (ctx : Word) (remove : Core → Core) : Effect :=
  if 4095 < ctx.toNat then illegalHere s
  else
    let s := s.drainContext ctx.toNat
    if s.cores.toList.any (fun k => k.usesContext ctx.toNat) then .wait s .copies
    else if s.link.unacked.any (fun u => u.core.any (fun c => decide ((s.core c).task.map (·.ctx.toNat) = some ctx.toNat))) then
      .wait s .linkAcks
    else .retire { s with cores := s.cores.map (fun k => (remove k).advanceEpoch) }

def pageBase (a : Word) : Nat := a.toNat / 0x8000 * 0x8000

def execTlbinv (ga gb : GReg) (n : BitVec 17) (s : State) : Host.Outcome State Fault Refusal :=
  privilegedIssue (.tlbinv ga gb n) s (fun s =>
    let lo := pageBase (s.g ga)
    let ctx := (s.g gb).toNat
    s.invalidate (s.g gb) (fun k => { k with
      tlb := k.tlb.filter (fun e => !e.hit ctx lo (n.toNat * 0x8000))
      itlb := k.itlb.filter (fun e => !e.hit ctx lo (n.toNat * 0x8000)) }))

def execTlbinvc (gb : GReg) (s : State) : Host.Outcome State Fault Refusal :=
  privilegedIssue (.tlbinvc gb) s (fun s =>
    let ctx := (s.g gb).toNat
    s.invalidate (s.g gb) (fun k => { k with
      tlb := k.tlb.filter (fun e => decide (e.ctx.toNat ≠ ctx))
      itlb := k.itlb.filter (fun e => decide (e.ctx.toNat ≠ ctx))
      walks := k.walks.filter (fun e => decide (e.ctx.toNat ≠ ctx)) }))

def execWcinv (ga gb : GReg) (n : BitVec 17) (s : State) : Host.Outcome State Fault Refusal :=
  privilegedIssue (.wcinv ga gb n) s (fun s =>
    let lo := pageBase (s.g ga)
    let ctx := (s.g gb).toNat
    s.invalidate (s.g gb) (fun k => { k with
      walks := k.walks.filter (fun e => !e.hit ctx lo (n.toNat * 0x8000)) }))

/-! FRAMESET (R299). -/

/-- The L1I copies of a frame's lines go, prefetched ones too. -/
def State.dropFrame (s : State) (f : Nat) : State :=
  let keep (l : CodeLine) : Bool := decide (frameOf (l.line * 128) ≠ f)
  { s with cores := s.cores.map (fun k => { k with l1i := k.l1i.filter keep, prefetched := k.prefetched.filter keep }) }

/-- One frame's CODE bit; a change leaves no U bit of the frame. -/
def State.setCode (s : State) (f : Nat) (v : Bool) : State :=
  let a := s.frame f
  if a.code = v then s
  else
    let s := if v then s else s.dropFrame f
    let s := s.setFrame f { a with code := v }
    { s with mem := { s.mem with ubits := s.mem.ubits.filter (fun l => decide (frameOf (l * 128) ≠ f)) } }

/-- Every write retired so far to one of the frames is performed at its home; false where one cannot be yet. -/
def State.drainFrames (s : State) (fs : List Nat) : State × Bool :=
  let s := allCores.foldl (fun s c =>
    if (s.core c).writesFrames fs then (s.drainStrand ⟨c, false⟩).drainStrand ⟨c, true⟩ else s) s
  (s, !s.cores.toList.any (fun k => k.writesFrames fs))

def execFrameset (ga gb : GReg) (n : BitVec 17) (s : State) : Host.Outcome State Fault Refusal :=
  privilegedIssue (.frameset ga gb n) s (fun s =>
    let pa := s.g ga
    let f := frameOf pa.toNat
    let fs := (List.range n.toNat).map (· + f)
    let v := entryBit (s.g gb).toNat 0
    if pa.toNat % 0x8000 ≠ 0 then .raise (plainFault .misaligned pa)
    else
      match findFrame (fun f => !s.ownFrame f) f n.toNat with
      | some x => .raise (plainFault .permWrite (frameAddr x))
      | none =>
        match findFrame (fun f => decide (0 < (s.frame f).fcount)) f n.toNat with
        | some x => .raise (plainFault .writeFrozen (frameAddr x))
        | none =>
          if (findFrame (fun f => (s.frame f).sweep) f n.toNat).isSome then .wait s .sweep
          else
            match s.drainFrames fs with
            | (s, true) => .retire (fs.foldl (fun s f => s.setCode f v) s)
            | (s, false) => .wait s .sweep)

/-! MBOXSET and POLSET (R300, R301). -/

def execMboxset (gd ga : GReg) (s : State) : Host.Outcome State Fault Refusal :=
  privilegedIssue (.mboxset gd ga) s (fun s =>
    let v := (s.g ga).toNat
    let old := s.resident.depth
    if v < 1 ∨ 16 < v then illegalHere s
    else
      .retire ((s.setHere { s.here with task := s.here.task.map (fun r => { r with depth := v }) }).setG gd
        (BitVec.ofNat 64 old)))

/-- A queue holds a pending or resident launch. -/
def State.queueBusy (s : State) (q : QueueId) : Bool :=
  s.sched.launches.any (fun l => l.queue == q) || decide ((s.queueAt q).unread ≠ 0)

/-- POLSET's answer (R301). A queue that is bound to no context has no row there: DESIGN CHOICE, its PART field alone decides
whether it belongs to the core's partition (log entry 93). -/
def State.polset (s : State) (q : Word) (p : Word) : State × Word :=
  match s.partitionOf s.cur.core with
  | none => (s, 2)
  | some part =>
    if 31 < q.toNat then (s, 2)
    else
      let i : QueueId := Fin.ofNat 32 q.toNat
      if (s.queueAt i).part.toNat ≠ part.val then (s, 2)
      else if s.queueBusy i then (s, 1)
      else (s.setQueue i { s.queueAt i with policy := p.setWidth 2 }, 0)

def execPolset (gd ga gb : GReg) (s : State) : Host.Outcome State Fault Refusal :=
  privilegedIssue (.polset gd ga gb) s (fun s =>
    let r := s.polset (s.g ga) (s.g gb)
    .retire (r.1.setG gd r.2))

/-! SRET (R286, R302). -/

/-- Return to user mode at CR.SEPC, with the result of a TRAP in its register. -/
def Strand.resumeUser (t : Strand) : Strand :=
  let treg : GReg := Fin.ofNat 32 (bitsOf t.sstatus 15 11)
  let u := t.leave
  let u := if bitsOf t.sstatus 9 8 = 0 then u.writeUserG treg t.sarg else u
  { u with pc := t.sepc, npc := t.sepc }

/-- The fault that the strand entered for. -/
def Strand.recorded (t : Strand) : FaultInfo :=
  t.lastFault.getD ⟨(causeOfCode (bitsOf t.scause 7 0)).getD .illegalInstruction, t.sfaddr, t.sfinfo.setWidth 16, 0, none⟩

/-- A frame of the pool of a partition that has been given to no context (R320). -/
def Conf.spare (c : Conf) (part : BitVec 3) (f : Nat) : Bool :=
  c.pools.any (fun p => decide (p.1 = part ∧ p.2.1 ≤ f ∧ f ≤ p.2.2)) && !c.given.any (fun g => g.2 == f)

/-- The address lies in a demand area of the context (R320). -/
def Conf.onDemand (c : Conf) (ctx : BitVec 12) (va : Nat) : Bool :=
  c.demand.any (fun d => decide (d.1 = ctx ∧ d.2.1 ≤ va ∧ va < d.2.1 + d.2.2))

/-- The runtime returns from a demand fault that it may resolve: TRANSLATION with REASON 0 at LEVEL 4. -/
def State.demandReturn (s : State) : Bool :=
  let f := s.me.recorded
  decide (bitsOf s.me.sstatus 9 8 = 1 ∧ f.cause = .translation ∧ f.info.toNat / 4 % 64 = 4 * 8)
    && s.conf.onDemand s.resident.ctx f.addr.toNat

/-- A frame of the pool that now backs the address of a demand fault stays with its context (R320). -/
def State.noteGiven (s : State) : State :=
  if s.demandReturn then
    match s.translate s.here s.resident .user .read s.me.recorded.addr.toNat with
    | .ok (pa, _) =>
      if s.conf.spare s.resident.part (frameOf pa) then
        { s with conf := { s.conf with given := (s.resident.ctx, frameOf pa) :: s.conf.given } }
      else s
    | .error _ => s
  else s

/-- The main strand's return starts a task that CLOAD has loaded (R297). -/
def State.afterLoad (s : State) : State :=
  if s.cur.errand || !s.here.loading then s else s.setHere (Core.startErrand { s.here with loading := false })

/-- SRET (R302). -/
def execSret (k : BitVec 17) (s : State) : Host.Outcome State Fault Refusal :=
  privilegedIssue (.sret k) s (fun s =>
    let t := s.me
    if k = 0 then .became (((s.noteGiven.count.setMe s.count.me.resumeUser)).afterLoad)
    else if bitsOf t.sstatus 9 8 = 0 then illegalHere s
    else
      let s := s.count
      .became ((s.setMe s.me.resumeUser).contain s.cur t.recorded))

/-! HALT and RESUME (R289, R303). -/

/-- The physical core that HALT and RESUME may act on. -/
def State.haltTarget (s : State) (v : Word) : Option CoreId :=
  if 255 < v.toNat then none
  else
    let c : CoreId := Fin.ofNat 256 v.toNat
    match s.partitionOf s.cur.core with
    | none => none
    | some p =>
      if s.partitionOf c = some p ∧ (s.core c).task.isSome = true ∧ c ≠ s.cur.core then some c else none

/-- A core can declare a halt: both strands are at user-mode boundaries, no FREEZE is past its freeze point, and the
retired writes are performed, over the link too (R125, R289, R327). -/
def State.quiet (s : State) (c : CoreId) : Bool :=
  decide ((s.core c).main.mode = .user) && decide ((s.core c).err.mode = .user)
    && !s.frz.ops.any (fun o => decide (o.who = some ⟨c, false⟩)) && s.settled c

/-- Waiting instructions are squashed (R62, R327). A back-off stands until the save has recorded it (R326, R332). -/
def Core.squash (k : Core) : Core :=
  { k with
    main := { k.main with wait := none }
    err := { k.err with wait := none }
    thawBound := none
    gather := none }

/-- Back-offs end (R326). -/
def Core.endBackoff (k : Core) : Core :=
  { k with main := { k.main with inBackoff := false }, err := { k.err with inBackoff := false } }

/-- The core that a number names. -/
def coreNamed (v : Word) : Option CoreId := if 255 < v.toNat then none else some (Fin.ofNat 256 v.toNat)

/-- A core that a HALT asked to stop and that is no target any more, since its quire has left the partition (R369) or its
task has gone, runs on, unless another request has asked it to halt. -/
def State.unask (s : State) (v : Word) : State :=
  match coreNamed v with
  | some c => if (s.core c).held then s else s.mapCore c (fun k => { k with halting := s.mustHalt c })
  | none => s

/-- HALT (R303): it waits until the target has declared its halt. -/
def execHalt (gd ga : GReg) (s : State) : Host.Outcome State Fault Refusal :=
  privilegedIssue (.halt gd ga) s (fun s =>
    match s.haltTarget (s.g ga) with
    | none => .retire ((if s.me.wait = some .otherStrand then s.unask (s.g ga) else s).setG gd 2)
    | some c =>
      if (s.core c).held then .retire (s.setG gd 1)
      else
        let s := (s.drainStrand ⟨c, false⟩).drainStrand ⟨c, true⟩
        if s.quiet c then
          .retire ((s.mapCore c (fun k => { k.squash.endBackoff with held := true, halting := s.mustHalt c })).setG gd 0)
        else .wait (s.mapCore c (fun k => { k with halting := true })) .otherStrand)

def execResume (gd ga : GReg) (s : State) : Host.Outcome State Fault Refusal :=
  privilegedIssue (.resume gd ga) s (fun s =>
    match s.haltTarget (s.g ga) with
    | none => .retire (s.setG gd 2)
    | some c =>
      if (s.core c).held then .retire ((s.mapCore c (fun k => Core.startErrand { k with held := false })).setG gd 0)
      else .retire (s.setG gd 1))

end Sys2Proof.Machine
end

