-- ==== Sys2Proof/Machine/Events.lean ====
section
/-! DEFINITION. The steps of a core's other agents: fetching ahead, draining, serving its store and its gathers, the
ends of waits and back-offs, faults without an instruction, sleep (R30, R36, R48, R49, R58, R59, R111 to R113, R121,
R139, R145, R150, R156, R240, R321 to R324, R326). -/

namespace Sys2Proof.Machine

/-- FETCH: the L1I is filled for a strand; a fault is raised only when the instruction is due (R62, R145). -/
def execFetch (c : CoreId) (errand : Bool) (s : State) : Host.Outcome State Fault Refusal :=
  .next (if s.runnable ⟨c, errand⟩ then
    (match s.fetch ⟨c, errand⟩ (s.strand ⟨c, errand⟩).pc with
      | .ok x => s.afterFetch c x
      | .error _ => s)
    else s)

/-- DRAIN: the next part of the retired write numbered `n` is performed, unless something comes before it (R115). -/
def execDrain (c : CoreId) (n : Nat) (s : State) : Host.Outcome State Fault Refusal :=
  .next (match (s.core c).writes.find? (fun w => w.seq == n) with
    | some w => s.performPart c w
    | none => s)

/-- WAIT_SATISFIED: a waiting instruction executes again at the next step, where it completes if its condition
holds. -/
def execWaitSatisfied (c : CoreId) (errand : Bool) (s : State) : Host.Outcome State Fault Refusal :=
  .next (if (s.strand ⟨c, errand⟩).wait.isSome then
    { s with agenda := .strand ⟨c, errand⟩ :: s.agenda } else s)

/-- FULL_EMPTY_UNIT: a qualified unit at its target store (R112, R113). -/
def execFullEmptyUnit (c : CoreId) (off len : Nat) (q : Fe) (data : List Byte) (s : State) :
    Host.Outcome State Fault Refusal :=
  .next (if (s.core c).task.isSome ∧ off + len ≤ 0xA_0000 then
    match q with
    | .nf => s
    | .fe | .fec => (s.unitRead c off len q).getD s
    | .ef =>
      if (s.core c).allEmpty off len ∧ data.length = len then
        s.mapCore c (fun k => (k.writeLocal off data false).setFull off len true)
      else s
    else s)

/-- LOCAL_STORE_ACCESS: bytes of one 64-byte block arrive at a store (R121). -/
def execLocalStoreAccess (c : CoreId) (off : Nat) (data : List Byte) (s : State) : Host.Outcome State Fault Refusal :=
  .next (if (s.core c).task.isSome ∧ off + data.length ≤ 0xA_0000 ∧ (blocksOf off data.length 64).length ≤ 1 then
    s.mapCore c (·.writeLocal off data false) else s)

/-- TGATHER_REQUEST: the owner with a peer index serves its rows of a waiting TGATHER (R240). -/
def execTgatherRequest (c : CoreId) (owner : Nat) (s : State) : Host.Outcome State Fault Refusal :=
  let serve (r : GatherRow) : GatherRow :=
    if r.owner = owner ∧ r.data.isNone then
      match s.peerAt r.key r.owner with
      | .core d => r.read (s.core d)
      | _ => r
    else r
  .next (s.mapCore c (fun k => { k with gather := k.gather.map (·.map serve) }))

/-- BACK_OFF: the wait ends, and the faulting instruction executes again (R48, R326). -/
def execBackOff (c : CoreId) (errand : Bool) (s : State) : Host.Outcome State Fault Refusal :=
  .next (s.mapStrand ⟨c, errand⟩ (fun t => { t with inBackoff := false }))

/-- The run of faults of a strand has reached 256 under a RETRY level (R48). -/
def Strand.spent (t : Strand) : Bool := decide (256 ≤ t.retries) && t.lastFault.isSome

/-- RETRY_EXHAUSTED: the consultation goes on above the RETRY level (R48, R326). -/
def execRetryExhausted (c : CoreId) (errand : Bool) (s : State) : Host.Outcome State Fault Refusal :=
  let w : Who := ⟨c, errand⟩
  .next (match (s.strand w).spent, (s.strand w).lastFault with
    | true, some f => (s.mapStrand w (fun t => { t with lastFault := none })).consult w f .task false
    | _, _ => s)

/-- The strand whose boundaries raise the faults of a task without an instruction: the main strand's, and once the task
has ended the errand strand's (R28, R322). -/
def State.faultStrand (s : State) (c : CoreId) : Who := ⟨c, ((s.core c).task.map (·.ended)).getD false⟩

/-- DEFERRED_FAULT: the first fault without an instruction is raised at an instruction boundary (R317, R322). -/
def execDeferredFault (c : CoreId) (s : State) : Host.Outcome State Fault Refusal :=
  .next (match (s.core c).deferred with
    | f :: fs =>
      if (s.strand (s.faultStrand c)).mode = .user ∧ (s.core c).task.isSome then
        (s.mapCore c (fun k => { k with deferred := fs })).contain (s.faultStrand c) f
      else s
    | [] => s)

/-! Sleep (R150, R152, R156, R336). -/

/-- Every core that belongs to a gang: those of its quires, those that its tasks have moved to, and the target of a
migration under way (R26, R339). -/
def Gang.allCores (g : Gang) : List CoreId :=
  g.quires.flatMap (fun q => (List.range 8).map (coreAt q.val)) ++ g.reserved ++ (g.moving.map (·.2.1)).toList

/-- A core that is reserved to a gang (R26, R28). -/
def State.reservedCore (s : State) (c : CoreId) : Bool := s.sched.gangs.any (fun g => g.allCores.contains c)

/-- A core that sleeps counts as having applied and acknowledged every freeze event and sweep. -/
def FreezeOp.without (o : FreezeOp) (c : CoreId) : FreezeOp :=
  { o with toApply := o.toApply.filter (fun d => d != c), toAck := o.toAck.filter (fun d => d != c) }

def Sweep.without (w : Sweep) (c : CoreId) : Sweep :=
  { w with toDrop := w.toDrop.filter (fun d => d != .core c), toAck := w.toAck.filter (fun d => d != .core c) }

def State.setFrz (s : State) (z : FreezeSys) : State := { s with frz := z }

/-- The sweeps that nobody has still to acknowledge close. -/
def State.closeSweeps (s : State) : State :=
  (s.frz.sweeps.filter (fun w => w.toAck.isEmpty)).foldl (fun s w => s.closeSweep w.frame) s

def State.withdraw (s : State) (c : CoreId) : State :=
  (s.setFrz { s.frz with
      ops := s.frz.ops.map (·.without c), sweeps := s.frz.sweeps.map (·.without c) }).closeSweeps.endFreezes

/-- RETENTION_SLEEP: a core that holds no task drops its F lines and sleeps. -/
def execRetentionSleep (c : CoreId) (s : State) : Host.Outcome State Fault Refusal :=
  .next (if (s.core c).task.isSome || s.reservedCore c || (s.core c).asleep || !(s.core c).writes.isEmpty then s
    else
      let fs := (s.mem.fLines.filter (fun x => x.1 == .core c)).map (fun x => frameOf (x.2.1 * 128))
      let s := fs.foldl (fun s f => s.dropF (.core c) f) s
      (s.mapCore c (fun k => { k with asleep := true, sleepAdvances := 0 })).withdraw c)

/-- WAKE (R150). -/
def Core.wake (k : Core) (cg : BitVec 16) : Core :=
  { k with
    asleep := false
    l1i := if 0x8000 ≤ k.sleepAdvances then [] else k.l1i
    prefetched := if 0x8000 ≤ k.sleepAdvances then [] else k.prefetched
    sleepAdvances := 0
    codegen := cg }

def execWake (c : CoreId) (s : State) : Host.Outcome State Fault Refusal :=
  .next (if (s.core c).asleep then s.mapCore c (·.wake s.cg) else s)

/-! Errors (R324) and kill requests (R321). -/

/-- A record that names no core: of a kill by request, by an error that nobody can be charged with, or by a hold. The manual
gives such fields for KIND 7 alone (R321): DESIGN CHOICE, PCORE, PEER, PC and ADDR are 0 and INFO is 0xFFFC here too (log
entry 94). -/
def killRecord (cause kind level gang ctx part queue : Nat) : Word × Word × Word × Word :=
  recordOf cause kind level Config.killPolicy.toNat 0 0 gang ctx part queue 0xFFFC 0 0

/-- The queue that the record of a context's kill names: the lowest that is killed (log entry 94). -/
def State.firstQueue (s : State) (ctx : BitVec 12) : Nat := ((s.queuesOf ctx).head?.map (·.val)).getD 0

/-- The record of an error in a dirty line (R324). -/
def State.lineRecord (s : State) (m : Master) : Word × Word × Word × Word :=
  killRecord 0x15 3 4 0 m.ctx.toNat m.part.toNat (s.firstQueue m.ctx)

/-- An address whose line an L2 may hold: device memory, and host memory (R107, R357). -/
def cachedType (a : Nat) : Bool := memType a == .device || memType a == .host

/-- The data of a dirty line is lost: the line is written back as zeros, good data from then on, and is dirty no more. -/
def State.loseLine (s : State) (line : Nat) : State :=
  { s.pokePhys (line * 128) (List.replicate 128 0) with
    mem := { (s.pokePhys (line * 128) (List.replicate 128 0)).mem with
      masters := s.mem.masters.filter (fun p => p.1 != line)
      ecc := s.mem.ecc.filter (fun l => l != line) } }

/-- SCRUBBING: an uncorrectable error is found in a dirty L2 line, whose data is lost, in a clean one, which is read again,
or in HBM data, which the next reader meets. A dirty line last written with the runtime master has no context whose queues
R324 could kill: DESIGN CHOICE, nothing is killed and no record is written (log entry 106). -/
def execScrubbing (line : Nat) (e : LineError) (s : State) : Host.Outcome State Fault Refusal :=
  .next (if cachedType (line * 128) = false then s
    else
      match e with
      | .clean => { s with mgmt := { s.mgmt with counters := { s.mgmt.counters with
          correctedErrors := satInc s.mgmt.counters.correctedErrors } } }
      | .hbm =>
        if memType (line * 128) = .device then
          { s with mem := { s.mem with ecc := line :: s.mem.ecc.filter (fun l => l != line) } }
        else s
      | .dirty =>
        match assocGet s.mem.masters line with
        | none => s
        | some none => s.loseLine line
        | some (some m) =>
          ((s.loseLine line).appendLog (s.lineRecord m)).killUnit (.context m.ctx) 0x15 (s.lineRecord m))

/-- The record of a kill request from the host: KIND 6. LEVEL 4 is R324's alone, so that a context's has LEVEL 3. -/
def State.requestRecord (s : State) (t : KillTarget) : Word × Word × Word × Word :=
  let ofLaunch (level gang l : Nat) :=
    match s.launch l with
    | some x => killRecord 0 6 level gang x.ctx.toNat x.part.toNat x.queue.val
    | none => killRecord 0 6 level gang 0 0 0
  match t with
  | .task k p =>
    match s.peerAt k p with
    | .core c => recordOf 0 6 0 Config.killPolicy.toNat c.val p k.gang
        (((s.core c).task.map (·.ctx.toNat)).getD 0) (((s.core c).task.map (·.part.toNat)).getD 0)
        (((s.launch k.launch).map (·.queue.val)).getD 0) 0xFFFC (recordPc (s.core c).main.pc) 0
    | _ => ofLaunch 0 k.gang k.launch
  | .gang k => ofLaunch 1 k.gang k.launch
  | .launch l => ofLaunch 2 0 l
  | .queue q => killRecord 0 6 3 0 (s.queueAt q).ctx.toNat (s.queueAt q).part.toNat q.val
  | .context ctx => killRecord 0 6 3 0 ctx.toNat (((s.binding ctx).map (·.part.toNat)).getD 0) (s.firstQueue ctx)

/-- The launch whose first record a kill request may be. R321 speaks of the first record of a launch: DESIGN CHOICE, the
record of a queue's or a context's kill is the first record of no launch that it ends, but for the one whose task's fault it
is (log entry 119). -/
def launchOf : KillTarget → Option Nat
  | .task k _ | .gang k => some k.launch
  | .launch l => some l
  | .queue _ | .context _ => none

/-- What a kill names is there to be killed. -/
def State.killable (s : State) : KillTarget → Bool
  | .task k p => (match s.gang k with
      | some g => decide (p < g.peers.length) && !g.dead.contains p
      | none => false)
  | .gang k => (s.gang k).isSome
  | .launch l => (s.launch l).isSome
  | .queue _ | .context _ => true

/-- KILL: a request from the host (R49, R321). The value that a caller receives with FAULTED when its errand is abandoned
by a kill with no fault the manual does not give: DESIGN CHOICE, it is 0 (log entry 71). -/
def execKill (t : KillTarget) (s : State) : Host.Outcome State Fault Refusal :=
  .next (if s.killable t then (s.report (launchOf t) (s.requestRecord t)).killUnit t 0 (s.requestRecord t) else s)

end Sys2Proof.Machine
end

