-- ==== Sys2Proof/Machine/Float.lean ====
section
/-! DEFINITION. Scalar floating point, classes 0x08 and 0x09 (R68, R186 to R189). -/

namespace Sys2Proof.Machine

def scalarFmt (d : Bool) : Fmt := if d then .fp64 else .fp32

/-- A code read from an f register: bits 31:0 for FP32 (R68). -/
def State.fcode (s : State) (r : FReg) (d : Bool) : Nat := (s.f r).toNat % 2 ^ (scalarFmt d).bits

/-- A code written to an f register: an FP32 result clears bits 63:32 (R68). -/
def State.setFcode (s : State) (r : FReg) (c : Nat) : State := s.setF r (BitVec.ofNat 64 c)

def State.fval (s : State) (r : FReg) (d : Bool) : Val := (scalarFmt d).value (s.fcode r d)

def execFadd (fd fa fb : FReg) (rm : Round) (d : Bool) (s : State) : Host.Outcome State Fault Refusal :=
  issue (.fadd fd fa fb rm d) s (fun s =>
    .retire (s.setFcode fd (codeAdd (scalarFmt d) rm false (s.fcode fa d) (s.fcode fb d))))

def execFsub (fd fa fb : FReg) (rm : Round) (d : Bool) (s : State) : Host.Outcome State Fault Refusal :=
  issue (.fsub fd fa fb rm d) s (fun s =>
    .retire (s.setFcode fd (codeSub (scalarFmt d) rm false (s.fcode fa d) (s.fcode fb d))))

def execFmul (fd fa fb : FReg) (rm : Round) (d : Bool) (s : State) : Host.Outcome State Fault Refusal :=
  issue (.fmul fd fa fb rm d) s (fun s =>
    .retire (s.setFcode fd (codeMul (scalarFmt d) rm false (s.fcode fa d) (s.fcode fb d))))

def execFdiv (fd fa fb : FReg) (rm : Round) (d : Bool) (s : State) : Host.Outcome State Fault Refusal :=
  issue (.fdiv fd fa fb rm d) s (fun s =>
    .retire (s.setFcode fd (resultCode (scalarFmt d) rm false (divVal (s.fval fa d) (s.fval fb d)))))

def execFsqrt (fd fa : FReg) (rm : Round) (d : Bool) (s : State) : Host.Outcome State Fault Refusal :=
  issue (.fsqrt fd fa rm d) s (fun s =>
    .retire (s.setFcode fd (resultCode (scalarFmt d) rm false (sqrtVal (s.fval fa d)))))

def execFma (fd fa fb fc : FReg) (rm : Round) (d : Bool) (s : State) : Host.Outcome State Fault Refusal :=
  issue (.fma fd fa fb fc rm d) s (fun s =>
    .retire (s.setFcode fd (codeFma (scalarFmt d) rm false (s.fcode fa d) (s.fcode fb d) (s.fcode fc d))))

def execFmin (fd fa fb : FReg) (d : Bool) (s : State) : Host.Outcome State Fault Refusal :=
  issue (.fmin fd fa fb d) s (fun s =>
    .retire (s.setFcode fd (extremeCode (scalarFmt d) false (s.fcode fa d) (s.fcode fb d))))

def execFmax (fd fa fb : FReg) (d : Bool) (s : State) : Host.Outcome State Fault Refusal :=
  issue (.fmax fd fa fb d) s (fun s =>
    .retire (s.setFcode fd (extremeCode (scalarFmt d) true (s.fcode fa d) (s.fcode fb d))))

def execFabs (fd fa : FReg) (d : Bool) (s : State) : Host.Outcome State Fault Refusal :=
  issue (.fabs fd fa d) s (fun s => .retire (s.setFcode fd (absCode (scalarFmt d) (s.fcode fa d))))

def execFneg (fd fa : FReg) (d : Bool) (s : State) : Host.Outcome State Fault Refusal :=
  issue (.fneg fd fa d) s (fun s => .retire (s.setFcode fd (negCode (scalarFmt d) (s.fcode fa d))))

def execFmvfg (fd : FReg) (gs : GReg) (d : Bool) (s : State) : Host.Outcome State Fault Refusal :=
  issue (.fmvfg fd gs d) s (fun s => .retire (s.setFcode fd ((s.g gs).toNat % 2 ^ (scalarFmt d).bits)))

def execFmvgf (gd : GReg) (fs : FReg) (d : Bool) (s : State) : Host.Outcome State Fault Refusal :=
  issue (.fmvgf gd fs d) s (fun s => .retire (s.setG gd (BitVec.ofNat 64 (s.fcode fs d))))

def execFcvtfi (fd : FReg) (gs : GReg) (rm : Round) (d : Bool) (s : State) : Host.Outcome State Fault Refusal :=
  issue (.fcvtfi fd gs rm d) s (fun s =>
    .retire (s.setFcode fd (encodeVal (scalarFmt d) (.ofRat (s.g gs).toInt) rm false)))

/-- A value rounded to a signed 64-bit integer and saturated; a NaN gives 0 (R189). -/
def toInt64 (v : Val) (rm : Round) : Int :=
  match v with
  | .nan _ => 0
  | .inf neg => if neg then -(2 ^ 63) else 2 ^ 63 - 1
  | .num _ v => clampI (roundTo .i32 v rm).floor (-(2 ^ 63)) (2 ^ 63 - 1)

def execFcvtif (gd : GReg) (fs : FReg) (rm : Round) (d : Bool) (s : State) : Host.Outcome State Fault Refusal :=
  issue (.fcvtif gd fs rm d) s (fun s => .retire (s.setG gd (BitVec.ofInt 64 (toInt64 (s.fval fs d) rm))))

def execFcvtsd (fd fs : FReg) (rm : Round) (s : State) : Host.Outcome State Fault Refusal :=
  issue (.fcvtsd fd fs rm) s (fun s => .retire (s.setFcode fd (convert .fp64 .fp32 (s.fcode fs true) rm false)))

def execFcvtds (fd fs : FReg) (s : State) : Host.Outcome State Fault Refusal :=
  issue (.fcvtds fd fs) s (fun s => .retire (s.setFcode fd (convert .fp32 .fp64 (s.fcode fs false) .rne false)))

/-- The register that follows the source of a compare (R188). -/
def nextF (r : FReg) : FReg := Fin.ofNat 16 (r.val + 1)

def flag (b : Bool) : Word := if b then 1 else 0

def execFcmpeq (gd : GReg) (fs : FReg) (d : Bool) (s : State) : Host.Outcome State Fault Refusal :=
  issue (.fcmpeq gd fs d) s (fun s => .retire (s.setG gd (flag (eqVal (s.fval fs d) (s.fval (nextF fs) d)))))

def execFcmplt (gd : GReg) (fs : FReg) (d : Bool) (s : State) : Host.Outcome State Fault Refusal :=
  issue (.fcmplt gd fs d) s (fun s => .retire (s.setG gd (flag (ltVal (s.fval fs d) (s.fval (nextF fs) d)))))

def execFcmple (gd : GReg) (fs : FReg) (d : Bool) (s : State) : Host.Outcome State Fault Refusal :=
  issue (.fcmple gd fs d) s (fun s => .retire (s.setG gd (flag (leVal (s.fval fs d) (s.fval (nextF fs) d)))))

/-- The bit that FCLASS sets (R189). -/
def classOf (f : Fmt) (c : Nat) : Nat :=
  let neg := f.signBit c
  if f.isNan c then (if f.sigField c / 2 ^ (f.sig - 1) = 0 then 8 else 9)
  else if f.isInf c then (if neg then 0 else 7)
  else if f.expField c = 0 then
    if f.sigField c = 0 then (if neg then 3 else 4) else (if neg then 2 else 5)
  else if neg then 1 else 6

def execFclass (gd : GReg) (fs : FReg) (d : Bool) (s : State) : Host.Outcome State Fault Refusal :=
  issue (.fclass gd fs d) s (fun s =>
    .retire (s.setG gd (BitVec.ofNat 64 (2 ^ classOf (scalarFmt d) (s.fcode fs d)))))

end Sys2Proof.Machine
end

