-- ==== Sys2Proof/Machine/Halt.lean ====
section
/-! DEFINITION. Pre-emption, saving and resuming gangs, migration, generation holds and the thermal table (R25, R26,
R31, R32, R149, R289, R323, R326 to R328, R334 to R339, R377). -/

namespace Sys2Proof.Machine

/-! Containment of a fault that belongs to no instruction (R323, R352). -/

/-- Consultation from the gang level on, with RETRY passed over; the gang is among what is killed. The error belongs to no
instruction, and R321 names no PC, PCORE and PEER for it: DESIGN CHOICE, PC is 0, PEER is the task's and PCORE its core, or
the one where it is restored or starts (log entry 105). -/
def State.consultGang (s : State) (r : Resident) (c : CoreId) (f : FaultInfo) : State :=
  let s := s.logFault r.master f
  let q := ((s.launch r.key.launch).map (·.queue)).getD 0
  let rec_ (l : Level) (p : Policy) := recordOf f.cause.code f.kind.toNat l.code p.code c.val r.peer r.key.gang
    r.ctx.toNat r.part.toNat q.val f.info.toNat 0 f.addr
  match absorber false (policiesFrom r.policy .gang) with
  | some (l, p) => (s.report (some r.key.launch) (rec_ l p)).killUnit (killTarget r q l p) f.cause.code (rec_ l p)
  | none => (s.report (some r.key.launch) (rec_ .queue .ignore)).killUnit (.queue q) f.cause.code (rec_ .queue .ignore)

/-! Temperatures (R338, R377). -/

/-- A core's temperature in sixteenths of a degree. -/
def State.temp (s : State) (c : CoreId) : Int := (BitVec.setWidth 16 s.mgmt.thermal[c]).toInt

def State.rank (s : State) (c : CoreId) : Nat := bitsOf (BitVec.setWidth 64 s.mgmt.thermal[c]) 23 16

/-- The core has reached 105 °C and has not fallen below the relief threshold since: it takes no task (R338; log entry
82). -/
def State.tooHot (s : State) (c : CoreId) : Bool := s.sched.hot.contains c

/-- The cores that are so once a table stands. -/
def State.hotCores (s : State) : List CoreId :=
  allCores.filter (fun c => decide (105 * 16 ≤ s.temp c)
    || (s.tooHot c && decide ((s.conf.relief : Int) * 16 ≤ s.temp c)))

def State.noteHot (s : State) : State := { s with sched := { s.sched with hot := s.hotCores } }

/-- The table for some temperatures: ties rank the lower core number first. -/
def thermalTable (ts : List (BitVec 16)) : Vector (BitVec 32) 256 :=
  let at_ (i : Nat) : Int := (ts.getD i 0).toInt
  Vector.ofFn (fun i =>
    let rank := ((List.range 256).filter (fun j => decide (at_ j < at_ i.val ∨ (at_ j = at_ i.val ∧ j < i.val)))).length
    BitVec.ofNat 32 (rank * 2 ^ 16 + (ts.getD i.val 0).toNat))

/-- The gang's tasks are on cores and nothing of it is being saved or waits for its start. -/
def GangState.active (g : GangState) : Bool := g == .running || g == .retiring

/-- The gang holds cores and is not on its way out: placed, running or retiring. -/
def GangState.here (g : GangState) : Bool := g.active || g == .placed

/-- FORCED_PREEMPTION: the gangs with a core that has reached 105 °C are to be pre-empted, be it one that a task has left or
is moving to (R26, R338). One that is placed and has not started is pre-empted as soon as its tasks are there. -/
def State.forced (s : State) : List GangKey :=
  (s.sched.gangs.filter (fun g => g.state.here && g.allCores.any s.tooHot && !s.sched.chosen.contains g.key)).map (·.key)

/-- THERMAL_TABLE_UPDATE: the table is rewritten whole. -/
def execThermalTableUpdate (temps : List (BitVec 16)) (s : State) : Host.Outcome State Fault Refusal :=
  .next (if temps.length = 256 ∧ s.mgmt.state = .running then
    let s := State.noteHot { s with mgmt := { s.mgmt with thermal := thermalTable temps } }
    { s with sched := { s.sched with chosen := s.sched.chosen ++ s.forced } }
    else s)

/-! Leaving a core (R327, R328, R331). -/

/-- A save area may be written: device memory outside the runtime region and the map backing, no frame frozen or
swept. -/
def areaPlace (pa n : Nat) : Bool := decide (pa % 0x1_0000 = 0 ∧ pa + n * areaSize ≤ 0x7F_FA00_0000)

def State.areaOpen (s : State) (pa : Nat) : Bool :=
  (findFrame (fun f => decide (0 < (s.frame f).fcount) || (s.frame f).sweep) (frameOf pa) areaFrames).isNone

/-- A core after its task has been saved or moved away. -/
def Core.vacate (k : Core) : Core :=
  { k.forget.endBackoff with
    task := none, held := false, halting := false, halted := false, loading := false, run := none, mbox := []
    copies := [], batches := [], deferred := [], claims := []
    main := { k.endBackoff.main with lastFault := none, retries := 0, backoff := 0 }
    err := { k.endBackoff.err with lastFault := none, retries := 0, backoff := 0 } }

/-- What goes with a saved task and has no place in its area. -/
def Core.keep (k : Core) (peer : Nat) : Kept :=
  ⟨peer, k.barPhase, k.barCell, k.barLost, k.rowUnits, k.deferred, k.claims, k.batches.map (fun b => (b.num, b.fault))⟩

/-- A failed batch of a restored task with its first failure as it was, where the area's cause is that one's. -/
def Batch.recall (b : Batch) (fs : List (Option (BitVec 32) × FaultInfo)) : Batch :=
  { b with fault := (assocGet (fs.filter (fun p => p.2.cause == b.fault.cause)) b.num).getD b.fault }

/-- The task of a peer leaves its core for an area. -/
def State.saveOut (s : State) (key : GangKey) (peer : Nat) (c : CoreId) (pa : Nat) : State :=
  let k := s.core c
  let s := (s.saveTask c pa k.main.pc).mapCore c Core.vacate
  match s.gang key with
  | none => s
  | some g => s.setGang { g with peers := g.peers.set peer (.saved pa), kept := g.kept ++ [k.keep peer] }

/-- Every task of a halted gang is saved, and its cores become free (R14, R31). -/
def State.saveGang (s : State) (g : Gang) : State :=
  let s := (List.range g.peers.length).foldl (fun s p =>
    match g.peers[p]? with
    | some (.core c) => s.saveOut g.key p c (g.save + p * areaSize)
    | _ => s) s
  match s.gang g.key with
  | none => s
  | some h => s.setGang { h with state := .saved, quires := [], reserved := [], moving := none }

/-- PREEMPTION_REQUEST: every core of the gang is to halt; `save` is the base of the save areas. A task in mid-migration
that is already saved keeps its area, and the reservation of the target ends (R339). -/
def execPreemptionRequest (k : GangKey) (save : Nat) (s : State) : Host.Outcome State Fault Refusal :=
  .next (match s.gang k with
    | none => s
    | some g =>
      if g.state.active = false ∨ areaPlace save g.peers.length = false then s
      else
        let s := g.cores.foldl (fun s c => s.mapCore c (fun k => { k with halting := true })) s
        let s := s.setGang { g with state := .halting, save := save, moving := none }
        { s with sched := { s.sched with chosen := s.sched.chosen.filter (fun x => x != k) } })

/-- A migration entry of the event log: source and target (R338). R375 leaves the layout of doublewords 1 to 3 to the entry:
DESIGN CHOICE, the source core, the target, 0 (log entry 116). -/
def migrationEntry (src dst : CoreId) : Word × Word × Word × Word :=
  otherEntry (BitVec.ofNat 64 src.val) (BitVec.ofNat 64 dst.val) 0

/-- A core declares its halt. -/
def State.declare (s : State) (c : CoreId) : State := s.mapCore c (fun k => { k.squash with halted := true })

/-- The cores of a gang that hold tasks, each with the save area of its task. -/
def State.savePlaces (s : State) (g : Gang) : List (CoreId × Nat) :=
  g.cores.filterMap (fun d => (s.core d).task.map (fun r => (d, g.save + r.peer * areaSize)))

/-- What stands against saving the task of a core: an uncorrectable error (R323), or an access table (R316; log entry 95). -/
def State.saveFault (s : State) (r : Resident) (c : CoreId) (pa : Nat) : Option FaultInfo :=
  if (s.core c).bad.isEmpty then s.areaDenied r.master pa areaSize .write else some areaError

/-- What stands against restoring a task from its area. -/
def State.restoreFault (s : State) (r : Resident) (pa : Nat) : Option FaultInfo :=
  if (s.badLine pa areaSize).isSome then some areaError else s.areaDenied r.master pa areaSize .read

/-- What a save of the tasks on some cores comes to: one that cannot be made is contained instead (R323; log entry 95). -/
def State.savedOr (s : State) (ps : List (CoreId × Nat)) (save : State → State) : State :=
  match ps.findSome? (fun p => (s.core p.1).task.bind (fun r => (s.saveFault r p.1 p.2).map (fun f => (r, p.1, f)))) with
  | some (r, d, f) => s.consultGang r d f
  | none => save s

/-- HALT_DECLARED: the last halt of a gang saves it; a task in mid-migration is saved alone (R327, R339). -/
def execHaltDeclared (c : CoreId) (s : State) : Host.Outcome State Fault Refusal :=
  .next (match (s.core c).task with
    | none => s
    | some r =>
      match s.gang r.key with
      | none => s
      | some g =>
        let s' := (s.drainStrand ⟨c, false⟩).drainStrand ⟨c, true⟩
        if s'.quiet c = false ∨ (s.core c).halted then s'
        else if g.state = .halting then
          let s' := s'.declare c
          if g.cores.all (fun d => (s'.core d).halted) then
            (if (s'.savePlaces g).all (fun p => s'.areaOpen p.2) then s'.savedOr (s'.savePlaces g) (·.saveGang g) else s)
          else s'
        else
          match g.moving with
          | some (p, target, pa) =>
            if p = r.peer ∧ s'.areaOpen pa then
              (s'.declare c).savedOr [(c, pa)] (fun s => (s.saveOut g.key p c pa).appendLog (migrationEntry c target))
            else s'
          | none => s')

/-! Coming back (R291, R297, R334). -/

/-- What a restored task is, before its header is read. -/
def State.restored (s : State) (g : Gang) (peer : Nat) : Resident :=
  let l := s.launch g.key.launch
  { Resident.idle with
    key := g.key
    peer := peer
    peers := g.peers.length
    spanned := g.spanned
    lpad := (l.map (·.lpad)).getD false
    callat := (l.map (·.callat)).getD false }

/-- A task that was killed while it was away is an ended one. -/
def Core.asDead (k : Core) : Core :=
  { k with
    run := none, mbox := [], copies := [], batches := []
    task := k.task.map (fun r => { r with ended := true }) }

/-- The saved strand goes on where it halted. -/
def Core.goOn (k : Core) (resume : Word) (kept : Option Kept) : Core :=
  { k with
    held := false, halting := false, halted := false
    main := { k.main with mode := .user, pc := resume, npc := resume }
    barPhase := kept.bind (·.barPhase)
    barCell := kept.bind (·.barCell)
    barLost := (kept.map (·.barLost)).getD false
    rowUnits := (kept.map (·.rowUnits)).getD []
    deferred := (kept.map (·.deferred)).getD []
    claims := (kept.map (·.claims)).getD []
    batches := k.batches.map (·.recall ((kept.map (·.faults)).getD [])) }

/-- Load one task from its area, from local store through to the mailbox. -/
def State.bringBack (s : State) (g : Gang) (peer : Nat) (c : CoreId) (pa : Nat) : State :=
  let a := s.mem.cells.slice pa areaSize
  s.mapCore c (fun k =>
    let k := (k.loadArea a (loadResident (s.restored g peer) a) s.cg).goOn (a.dword 0x11C0)
      (g.kept.find? (fun x => x.peer == peer))
    if g.dead.contains peer then k.asDead else k)

/-- The copies of a restored task go on, and its next errand starts. -/
def State.restart (s : State) (c : CoreId) : State :=
  ((s.core c).copies.foldl (fun s x => s.reissue c x) s).mapCore c Core.startErrand

/-- The core of a peer on some quires (R25). -/
def peerCore (qs : List (Fin 32)) (peer : Nat) : CoreId := coreAt ((qs.getD (peer / 8) 0).val) (peer % 8)

/-- The area of a saved peer. -/
def Gang.areaOf (g : Gang) (peer : Nat) : Option Nat :=
  match g.peers[peer]? with
  | some (.saved pa) => some pa
  | _ => none

/-- The task that a peer's area describes. -/
def State.savedTask (s : State) (g : Gang) (peer pa : Nat) : Resident :=
  loadResident (s.restored g peer) (s.mem.cells.slice pa areaSize)

/-- The first peer whose area cannot be read, with the fault. -/
def State.restoreFails (s : State) (g : Gang) (peers : List Nat) : Option (Nat × FaultInfo) :=
  peers.findSome? (fun p =>
    let pa := (g.areaOf p).getD 0
    (s.restoreFault (s.savedTask g p pa) pa).map (fun f => (p, f)))

/-- GANG_RESUME: a gang that has been placed again is restored whole before any of its tasks runs. -/
def execGangResume (k : GangKey) (s : State) : Host.Outcome State Fault Refusal :=
  .next (match s.gang k with
    | none => s
    | some g =>
      let peers := List.range g.peers.length
      let cores := peers.map (peerCore g.quires)
      if g.state ≠ .placed ∨ peers.any (fun p => (g.areaOf p).isNone) ∨ cores.any (fun c => (s.core c).asleep) then s
      else
        match s.restoreFails g peers with
        | some (p, f) => s.consultGang (s.savedTask g p ((g.areaOf p).getD 0)) (peerCore g.quires p) f
        | none =>
          let s := peers.foldl (fun s p => s.bringBack g p (peerCore g.quires p) ((g.areaOf p).getD 0)) s
          let s := s.setGang { g with
            state := .running, peers := cores.map Place.core, kept := [] }
          (cores.foldl State.restart s).retireGang k)

/-! Migration (R32, R338, R339). -/

/-- The partition of a gang's launch. -/
def State.gangPart (s : State) (g : Gang) : Option (BitVec 3) := (s.launch g.key.launch).map (·.part)

/-- A target that R26 allows a task of a gang, in the partition of its launch (R291), on which a task may be placed (R338).
-/
def State.migrationTarget (s : State) (g : Gang) (src c : CoreId) : Bool :=
  let local_ := ((s.launch g.key.launch).map (·.local_)).getD false
  (s.partitionOf c).map BitVec.ofFin == s.gangPart g && (!local_ || dieOf c == dieOf src) && !s.tooHot c
    && (if s.reservedCore c then g.allCores.contains c && !g.cores.contains c && (s.core c).task.isNone
        else true)

/-- Thermal relief asks for this migration: the source is above the threshold, the target is the coolest eligible one
and 8 °C cooler, and the limits on migrations hold. -/
def State.reliefWanted (s : State) (g : Gang) (peer : Nat) (src target : CoreId) : Bool :=
  s.migrationTarget g src target && decide ((s.conf.relief : Int) * 16 < s.temp src)
    && decide (s.temp target + 8 * 16 ≤ s.temp src)
    && (allCores.filter (s.migrationTarget g src)).all (fun c => decide (s.rank target ≤ s.rank c))
    && decide ((s.sched.gangs.filter (fun h => h.moving.isSome)).length < 4)
    && (match assocGet g.moved peer with
        | some t => decide (t + 20_000_000 ≤ s.clock.toNat)
        | none => true)

/-- The gang with a task of it restored on a core. -/
def Gang.moved_ (g : Gang) (peer : Nat) (target : CoreId) (now : Nat) : Gang :=
  { g with
    peers := g.peers.set peer (.core target), moving := none
    reserved := if ({ g with moving := none }.allCores).contains target then g.reserved else g.reserved ++ [target]
    moved := assocSet g.moved peer now, kept := g.kept.filter (fun x => x.peer != peer) }

/-- MIGRATION: the task is asked to halt; once it is saved, the same step restores it on the target, when that is awake and
may take a task (R338). A task whose gang has begun to retire meanwhile is restored too (R29). -/
def execMigration (k : GangKey) (peer : Nat) (target : CoreId) (save : Nat) (s : State) :
    Host.Outcome State Fault Refusal :=
  .next (match s.gang k with
    | none => s
    | some g =>
      if g.state.active = false then s
      else
        match g.moving, g.peers[peer]? with
        | none, some (.core c) =>
          if g.state = .running ∧ s.reliefWanted g peer c target ∧ areaPlace save 1 then
            (s.setGang { g with moving := some (peer, target, save) }).mapCore c (·.setHalting true)
          else s
        | some m, some (.saved pa) =>
          if m = (peer, target, save) ∧ (s.core target).asleep = false ∧ s.tooHot target = false then
            match s.restoreFault (s.savedTask g peer pa) pa with
            | some f => s.consultGang (s.savedTask g peer pa) target f
            | none =>
              let s := s.bringBack g peer target pa
              let s := s.setGang (g.moved_ peer target s.clock.toNat)
              (s.restart target).retireGang k
          else s
        | _, _ => s)

/-! Generation holds (R149, R334). -/

/-- The gang is saved and holds back the next advance of CG. -/
def State.holdsBack (s : State) (g : Gang) : Bool :=
  g.peers.any (fun p => match p with
    | .saved pa => !passed (s.cg + 1) (BitVec.ofNat 16 (leNat (s.mem.cells.read (pa + 0x18) 2)))
    | .core _ => false)

/-- The record of a hold: KIND 4, LEVEL 1. -/
def State.holdRecord (s : State) (k : GangKey) : Word × Word × Word × Word :=
  let l := s.launch k.launch
  killRecord 0 4 1 k.gang ((l.map (·.ctx.toNat)).getD 0) ((l.map (·.part.toNat)).getD 0) ((l.map (·.queue.val)).getD 0)

/-- GENERATION_HOLD: a saved context that has held back an advance for 1 s is killed, with KIND 4 and LEVEL 1. Callers
of its errands receive the value 0, as with a kill request (log entry 71). -/
def execGenerationHold (k : GangKey) (s : State) : Host.Outcome State Fault Refusal :=
  .next (match s.gang k, s.cgHeld with
    | some g, some t =>
      if s.holdsBack g ∧ t + 1_000_000_000 ≤ s.clock.toNat then
        (s.report (some k.launch) (s.holdRecord k)).killUnit (.gang k) 0 (s.holdRecord k)
      else s
    | _, _ => s)

end Sys2Proof.Machine
end

