-- ==== Sys2Proof/Machine/Sched.lean ====
section
/-! DEFINITION. Queues, launch records, arbitration, victims, placement and task start (R22 to R27, R148, R180, R323,
R325, R341 to R353, R366, R369). -/

namespace Sys2Proof.Machine

/-! Queue descriptors (R342). -/

/-- Doubleword 0. -/
def Queue.dw0 (q : Queue) : Word :=
  BitVec.ofNat 64 (q.enable.toNat * 2 ^ 63 + q.err.toNat * 2 ^ 62 + q.prio.toNat * 2 ^ 59 + q.weight.toNat * 2 ^ 51
    + q.policy.toNat * 2 ^ 49 + q.log2n.toNat * 2 ^ 45 + q.ctx.toNat * 2 ^ 33 + q.part.toNat * 2 ^ 30
    + q.minres.toNat * 2 ^ 20)

def nonzeroWeight (w : BitVec 8) : BitVec 8 := if w = 0 then 1 else w

/-- PRIO and WEIGHT, which may always be written. -/
def Queue.withShares (q : Queue) (v : Word) : Queue :=
  { q with prio := BitVec.ofNat 3 (bitsOf v 61 59), weight := nonzeroWeight (BitVec.ofNat 8 (bitsOf v 58 51)) }

/-- The fields that only a disabled queue takes. -/
def Queue.withSetup (q : Queue) (v : Word) : Queue :=
  { q with
    policy := BitVec.ofNat 2 (bitsOf v 50 49), log2n := BitVec.ofNat 4 (bitsOf v 48 45)
    ctx := BitVec.ofNat 12 (bitsOf v 44 33), part := BitVec.ofNat 3 (bitsOf v 32 30)
    minres := BitVec.ofNat 10 (bitsOf v 29 20) }

def Queue.ringFits (q : Queue) : Bool := decide (4 ≤ q.log2n.toNat ∧ q.log2n.toNat ≤ 12)

/-- ENABLE goes from 0 to 1: HEAD is 0 and the credit is 0 (R342, R349). -/
def Queue.start (q : Queue) : Queue := { q with enable := true, head := 0, tailRead := false, credit := 0 }

/-- ENABLE is written, with either value: the tail is ignored no more (R344). -/
def Queue.heed (q : Queue) : Queue := { q with tailRead := q.tailRead && !q.tailIgnored, tailIgnored := false }

/-- ENABLE is written as 0, which clears ERR. -/
def Queue.stop (q : Queue) : Queue := { q with enable := false, err := false }

/-- A write of doubleword 0; `bit` says whether it carries the ENABLE bit. -/
def Queue.writeDw0 (q : Queue) (v : Word) (bit : Bool) : Queue :=
  let q := if bit then q.heed else q
  if q.enable then
    let q := q.withShares v
    if bit && !v.getLsbD 63 then q.stop else q
  else
    let q := (q.withShares v).withSetup v
    if bit && v.getLsbD 63 then (if q.ringFits then q.start else q)
    else if bit then q.stop
    else q

/-! Units (R349). -/

/-- A queue's next unit, with the partition and the context of its launch. -/
structure SchedUnit where
  queue : QueueId
  part : BitVec 3
  ctx : BitVec 12
  key : GangKey
  prio : BitVec 3
  quires : Nat
  local_ : Bool
  /-- A pre-empted gang whose save has completed. -/
  saved : Bool
  deriving DecidableEq, Repr

/-- The queue's context is bound to its partition. -/
def State.bound (s : State) (ctx : BitVec 12) (part : BitVec 3) : Option Binding :=
  (s.binding ctx).filter (fun b => decide (b.part = part))

/-- Earlier in ring order, then by gang index. -/
def keyBefore (a b : GangKey) : Bool := decide (a.launch < b.launch ∨ (a.launch = b.launch ∧ a.gang < b.gang))

def oldestSaved (gs : List Gang) : Option Gang :=
  gs.foldl (fun best g => match best with
    | none => some g
    | some b => if keyBefore g.key b.key then some g else best) none

/-- The head launch: the oldest with gangs not yet placed (R348). -/
def State.headLaunch (s : State) (q : QueueId) : Option Launch :=
  (s.sched.launches.filter (fun l => l.queue == q && decide (l.placed < l.gangs))).foldl (fun best l => match best with
    | none => some l
    | some b => if l.id < b.id then some l else best) none

def State.nextUnit (s : State) (q : QueueId) : Option SchedUnit :=
  match oldestSaved (s.sched.gangs.filter (fun g => g.queue == q && g.state == .saved)) with
  | some g =>
    (s.launch g.key.launch).map (fun l => ⟨q, l.part, l.ctx, g.key, g.prio, g.peers.length / 8, l.local_, true⟩)
  | none =>
    if (s.queueAt q).enable then
      (s.headLaunch q).map (fun l => ⟨q, l.part, l.ctx, ⟨l.id, l.placed⟩, (s.queueAt q).prio, l.quires, l.local_, false⟩)
    else none

/-- A queue with its next unit noted, and the time from which it is the next unit. -/
def State.notedQueue (s : State) (q : QueueId) : Queue :=
  let x := s.queueAt q
  let u := (s.nextUnit q).map (·.key)
  if x.unit = u then x else { x with unit := u, since := s.clock.toNat }

/-- Each queue's next unit is noted with the time at which it became so (R349; log entry 51). -/
def State.noteUnits (s : State) : State :=
  { s with sched := { s.sched with queues := Vector.ofFn s.notedQueue } }

/-- The effective priority (R349). -/
def State.effective (s : State) (u : SchedUnit) : Nat :=
  min 7 (u.prio.toNat + (s.clock.toNat - (s.queueAt u.queue).since) / 2_000_000)

/-- The order in which R349 chooses: effective priority, credit, lowest number. -/
def State.unitBefore (s : State) (a b : SchedUnit) : Bool :=
  decide (s.effective b < s.effective a
    ∨ (s.effective a = s.effective b ∧ ((s.queueAt b.queue).credit < (s.queueAt a.queue).credit
      ∨ ((s.queueAt a.queue).credit = (s.queueAt b.queue).credit ∧ a.queue.val < b.queue.val))))

def State.firstUnit (s : State) (us : List SchedUnit) : Option SchedUnit :=
  us.foldl (fun best u => match best with
    | none => some u
    | some b => if s.unitBefore u b then some u else best) none

/-! Quires (R24, R351). -/

def quireCores (q : Fin 32) : List CoreId := (List.range 8).map (coreAt q.val)

/-- The quires of a partition, lowest first. -/
def State.partition (s : State) (part : BitVec 3) : List (Fin 32) :=
  (List.finRange 32).filter (fun q => (s.conf.quires[part.toNat]'(part.isLt)).getLsbD q.val)

/-- No core is reserved to a gang and none is too hot (R338, R351). -/
def State.quireFree (s : State) (q : Fin 32) : Bool :=
  (quireCores q).all (fun c => !s.reservedCore c && !s.tooHot c)

/-- Free for a unit: not held for another. -/
def State.freeFor (s : State) (part : BitVec 3) (u : SchedUnit) : List (Fin 32) :=
  (s.partition part).filter (fun q => s.quireFree q
    && s.sched.holds.all (fun h => !h.2.2.contains q || (h.1 == u.queue && h.2.1 == u.key)))

/-- R351's choice of `n` quires among free ones. -/
def chooseQuires (local_ : Bool) (n : Nat) (free : List (Fin 32)) : Option (List (Fin 32)) :=
  let d0 := free.filter (fun q => decide (q.val < 16))
  let d1 := free.filter (fun q => decide (16 ≤ q.val))
  let take (l : List (Fin 32)) : Option (List (Fin 32)) := if n ≤ l.length then some (l.take n) else none
  if local_ then take (if d0.length < d1.length then d1 else d0)
  else if n ≤ d0.length then take d0
  else if n ≤ d1.length then take d1
  else take free

/-- The kernel header of a unit's launch lies where a write is under way over the link: it is read again before placement,
which comes later (log entry 41). -/
def State.khdrWaits (s : State) (u : SchedUnit) : Bool :=
  match s.launch u.key.launch, s.binding u.ctx with
  | some l, some b => !u.saved && s.ctxWaits b l.khdr 64
  | _, _ => false

/-- A unit whose context is not bound to its partition is not placed (R291, R369). -/
def State.placeable (s : State) (part : BitVec 3) (u : SchedUnit) : Bool := (s.bound u.ctx part).isSome && !s.khdrWaits u

/-- The quires that a unit fits on. -/
def State.fit (s : State) (part : BitVec 3) (u : SchedUnit) : Option (List (Fin 32)) :=
  if s.placeable part u then chooseQuires u.local_ u.quires (s.freeFor part u) else none

/-! Reports about launches (R321, R325, R348). -/

/-- A KIND 7 record; it goes to the launch's completion record alone, for R321 names no KIND 7 record among those of
the event log (log entry 15). -/
def launchRecord (cause gang ctx part queue info : Nat) (addr : Word) : Word × Word × Word × Word :=
  recordOf cause 7 2 0 0 0 gang ctx part queue info 0 addr

/-! Placement (R25, R348, R351). -/

/-- VALID of the kernel header, read again before each gang. The manual speaks of VALID being 0 alone: DESIGN CHOICE, a read
that faults counts as VALID 0, and its KIND 7 record has CAUSE 0 and ADDR 0 (R348; log entry 112). -/
def State.stillValid (s : State) (l : Launch) : Bool :=
  match s.binding l.ctx with
  | some b =>
    match s.ctxRead b l.khdr 64 with
    | .ok bs => entryBit (leNat ((bs.drop 8).take 8)) 63
    | .error _ => false
  | none => false

/-- The log entry of a read of VALID that a table denies (R317). -/
def State.logValid (s : State) (l : Launch) : State :=
  match s.binding l.ctx with
  | some b =>
    match s.ctxRead b l.khdr 64 with
    | .ok _ => s
    | .error f => s.logFault ⟨b.part, b.ctx⟩ f
  | none => s

/-- The remaining gangs of an unloaded launch are counted as killed. -/
def State.unload (s : State) (l : Launch) : State :=
  let rec_ := launchRecord 0 l.placed l.ctx.toNat l.part.toNat l.queue.val 0xFFFC 0
  (s.setLaunch { l with
    firstFault := l.firstFault.orElse (fun _ => some rec_)
    killed := l.killed + (l.gangs - l.placed)
    placed := l.gangs
    status := 2 }).launchDone l.id

/-- A gang that has just been placed. -/
def newGang (u : SchedUnit) (qs : List (Fin 32)) (b : Binding) (now : Nat) : Gang where
  key := u.key
  queue := u.queue
  state := .placed
  prio := u.prio
  quires := qs
  reserved := []
  root := b.root
  spanned := b.spanned
  peers := (List.range (8 * u.quires)).map (fun p => .core (peerCore qs p))
  dead := []
  save := 0
  placedAt := now
  minresOver := false
  moving := none
  moved := []
  kept := []

/-- The cells of a gang that is placed for the first time are uninitialised (R27). -/
def Core.clearCells (k : Core) : Core := { k with cells := Vector.replicate 96 ⟨0, 0, 0⟩ }

/-- A new gang takes its cores. -/
def State.addGang (s : State) (g : Gang) : State :=
  let s := g.cores.foldl (fun s c => s.mapCore c Core.clearCells) s
  { s with sched := { s.sched with gangs := s.sched.gangs ++ [g] } }

/-- A saved gang on new quires, with the SPANNED flag of its context's binding at this placement (R369). -/
def State.replaced (s : State) (g : Gang) (qs : List (Fin 32)) : Gang :=
  { g with
    state := .placed, quires := qs, placedAt := s.clock.toNat, minresOver := false
    spanned := (((s.launch g.key.launch).bind (fun l => s.binding l.ctx)).map (·.spanned)).getD g.spanned }

/-- PLACEMENT of a unit on some quires: a saved gang waits for its restore, a new one for its hampers. -/
def State.placeUnit (s : State) (u : SchedUnit) (qs : List (Fin 32)) : State :=
  let s := { s with sched := { s.sched with holds := s.sched.holds.filter (fun h => !(h.1 == u.queue && h.2.1 == u.key)) } }
  if u.saved then
    match s.gang u.key with
    | some g => s.setGang (s.replaced g qs)
    | none => s
  else
    match s.launch u.key.launch with
    | none => s
    | some l =>
      match s.stillValid l, s.binding l.ctx with
      | true, some b =>
        (s.setLaunch { l with
          placed := l.placed + 1, tstart := if l.placed = 0 then s.clock else l.tstart }).addGang
          (newGang u qs b s.clock.toNat)
      | _, _ => (s.logValid l).unload l

/-- Credits of the queues that share the chosen unit's effective priority. -/
def State.charge (s : State) (e : List SchedUnit) (u : SchedUnit) : State :=
  let peers := e.filter (fun v => s.effective v == s.effective u)
  let total : Int := (peers.map (fun v => ((s.queueAt v.queue).weight.toNat : Int))).sum
  let s' := peers.foldl (fun t v =>
    let x := t.queueAt v.queue
    t.setQueue v.queue { x with credit := x.credit + x.weight.toNat * u.quires }) s
  let x := s'.queueAt u.queue
  s'.setQueue u.queue { x with credit := x.credit - u.quires * total }

/-- The next units that belong to a partition. -/
def State.units_ (s : State) (part : BitVec 3) : List SchedUnit :=
  ((List.finRange 32).filterMap s.nextUnit).filter (fun u => u.part == part)

/-- arbitrate of R349; `n` bounds the placements. -/
def State.arbitrate (s : State) (part : BitVec 3) : Nat → State
  | 0 => s
  | n + 1 =>
    let e := (s.units_ part).filter (fun u => (s.fit part u).isSome)
    match s.firstUnit e with
    | none => s
    | some u =>
      match s.fit part u with
      | none => s
      | some qs => (((s.charge e u).placeUnit u qs).noteUnits).arbitrate part n

/-! Victims (R350). -/

/-- The sublists of a length, in order of position. -/
def choose {α : Type} : Nat → List α → List (List α)
  | 0, _ => [[]]
  | _ + 1, [] => []
  | n + 1, x :: xs => (choose n xs).map (x :: ·) ++ choose (n + 1) xs

def topQuire (g : Gang) : Nat := g.quires.foldl (fun m q => max m q.val) 0

/-- Preference among victims. -/
def preferred (a b : Gang) : Bool :=
  decide (a.prio.toNat < b.prio.toNat
    ∨ (a.prio = b.prio ∧ (b.placedAt < a.placedAt ∨ (a.placedAt = b.placedAt ∧ topQuire b < topQuire a))))

def insertGang (g : Gang) : List Gang → List Gang
  | [] => [g]
  | h :: l => if preferred g h then g :: h :: l else h :: insertGang g l

/-- The gang holds cores. -/
def GangState.resident (g : GangState) : Bool := g != .saved

/-- The resident gangs of the partition below a unit's priority, in order of preference. -/
def State.victims (s : State) (part : BitVec 3) (u : SchedUnit) : List Gang :=
  (s.sched.gangs.filter (fun g => g.state.resident
    && s.gangPart g == some part && decide (g.prio.toNat < u.prio.toNat))).foldr insertGang []

/-- The residency since the last placement is at least the MINRES of the queue (R350). -/
def State.minresPast (s : State) (g : Gang) : Bool :=
  decide (g.placedAt + (s.queueAt g.queue).minres.toNat * 1000 ≤ s.clock.toNat)

/-- Minimum residency since the last placement is over and nothing of the gang is being saved. -/
def State.eligible (s : State) (g : Gang) : Bool :=
  g.state.resident && g.state != .halting && g.moving.isNone && !s.sched.chosen.contains g.key
    && s.minresPast g

/-- A quire is held for a unit. -/
def State.heldFor (s : State) (u : SchedUnit) (q : Fin 32) : Bool :=
  s.sched.holds.any (fun h => h.1 == u.queue && h.2.1 == u.key && h.2.2.contains q)

/-- A gang is on its way out: chosen to be pre-empted, or being saved. -/
def State.leaving (s : State) (g : Gang) : Bool := g.state == .halting || s.sched.chosen.contains g.key

/-- A unit fits on the quires that are free for it, with those that are held for it and those of some gangs once these and
the gangs on their way out are gone. -/
def State.roomWith (s : State) (part : BitVec 3) (u : SchedUnit) (gs : List Gang) : Bool :=
  let freed := (s.partition part).filter (fun q =>
    (s.freeFor part u).contains q
      || ((s.heldFor u q || gs.any (fun g => g.quires.contains q))
          && (quireCores q).all (fun c => !s.tooHot c
            && s.sched.gangs.all (fun g =>
              gs.any (fun h => h.key == g.key) || (s.heldFor u q && s.leaving g) || !g.allCores.contains c))))
  s.placeable part u && (chooseQuires u.local_ u.quires freed).isSome

/-- The set of eligible gangs to pre-empt for a unit. -/
def State.victimSet (s : State) (part : BitVec 3) (u : SchedUnit) : Option (List Gang) :=
  let es := (s.victims part u).filter s.eligible
  ((List.range es.length).map (· + 1)).findSome? (fun n => (choose n es).find? (s.roomWith part u))

/-- A unit is still its queue's next unit. -/
def State.stillNext (s : State) (q : QueueId) (k : GangKey) : Bool := decide ((s.nextUnit q).map (·.key) = some k)

/-- Holds of units that have ceased to be next units are released, and such a unit is the current U no more. -/
def State.releaseHolds (s : State) : State :=
  { s with sched := { s.sched with
      holds := s.sched.holds.filter (fun h => s.stillNext h.1 h.2.1)
      wanting := s.sched.wanting.filter (fun w => s.stillNext w.2.1 w.2.2) } }

/-- The current U of a partition, or the one that is taken now. -/
def State.unitU (s : State) (part : BitVec 3) : Option SchedUnit :=
  match assocGet s.sched.wanting part with
  | some w => (s.units_ part).find? (fun u => u.queue == w.1 && u.key == w.2)
  | none => s.firstUnit ((s.units_ part).filter (fun u =>
      (s.fit part u).isNone && s.roomWith part u (s.victims part u)))

/-- VICTIM_SELECTION: one unit at a time, which stays the current one until it is placed or ceases to be a next unit. Victims
are chosen for it, at each decision, where what is free and what is held for it do not suffice. -/
def State.selectVictims (s : State) (part : BitVec 3) : State :=
  match s.unitU part with
  | none => s
  | some u =>
    let s := { s with sched := { s.sched with wanting := assocSet s.sched.wanting part (u.queue, u.key) } }
    if (s.fit part u).isSome || s.roomWith part u [] then s
    else
      match s.victimSet part u with
      | none => s
      | some gs =>
        { s with sched := { s.sched with
            holds := s.sched.holds ++ [(u.queue, u.key, gs.flatMap (·.quires))]
            chosen := s.sched.chosen ++ gs.map (·.key) } }

/-- A decision of the scheduler for a partition. -/
def State.decide_ (s : State) (part : BitVec 3) : State :=
  (s.noteUnits.releaseHolds.arbitrate part 32).releaseHolds.selectVictims part

/-- ARBITRATE. -/
def execArbitrate (part : Fin 8) (s : State) : Host.Outcome State Fault Refusal :=
  .next (s.decide_ (BitVec.ofFin part))

/-- MINRES_ELAPSED: the gang has become eligible, and the scheduler decides again. -/
def execMinresElapsed (k : GangKey) (s : State) : Host.Outcome State Fault Refusal :=
  .next (match s.gang k with
    | none => s
    | some g =>
      if g.state.resident ∧ s.minresPast g = true then
        (s.setGang { g with minresOver := true }).decide_ ((s.gangPart g).getD (s.queueAt g.queue).part)
      else s)

/-! Tails and acceptance (R343 to R348). -/

/-- TAIL_READ (R344). One of a word to which a write is under way over the link comes later (log entry 41). -/
def execTailRead (q : QueueId) (s : State) : Host.Outcome State Fault Refusal :=
  let x := s.queueAt q
  let pa := x.tailAddr.toNat * 8
  .next (if !x.enable || x.tailIgnored then s
    else if !s.granted x.master pa .read then s.logDenied x.master pa .read
    else if s.writeSent pa 4 then s
    else
      let tail := BitVec.ofNat 32 (leNat (s.readPhys pa 4))
      if 2 ^ x.log2n.toNat < (tail - x.head).toNat then
        (s.setQueue q { x with err := true, tailIgnored := true, tailSeen := tail, tailRead := true }).raiseVector (32 + q.val)
      else s.setQueue q { x with tailSeen := tail, tailRead := true })

/-- REASON 1 (R345, R348, R366). -/
def recordForm (bs : List Byte) (spans : Bool) : Bool :=
  let d := recWord bs 0
  let mbox := bitsOf d 28 24
  decide (bitsOf d 63 56 = 0x07 ∧ bitsOf d 53 38 = 0 ∧ bitsOf d 31 29 = 0 ∧ 1 ≤ mbox ∧ mbox ≤ 16
    ∧ bitsOf (recWord bs 4) 31 0 % 8 = 0 ∧ (bitsOf (recWord bs 4) 63 32 = 0 ∨ spans = true))
    && (List.range 9).all (fun i => recWord bs (7 + i) == 0)

/-- A rejection: REASON, CAUSE, INFO and ADDR, and the fault of the scheduler's read that led to it. -/
structure Rejection where
  reason : Nat
  cause : Nat
  info : Nat
  addr : Word
  read : Option FaultInfo
  deriving DecidableEq, Repr

def plainRejection (reason cause : Nat) : Rejection := ⟨reason, cause, 0xFFFC, 0, none⟩

/-- A translation or permission cause. -/
def Cause.ofAddress : Cause → Bool
  | .translation | .permRead | .permWrite | .permExec => true
  | _ => false

/-- A read that failed: its cause and address stand in the record where it is a translation or permission cause, else
CAUSE is 0x00 (R321, R348). -/
def faultRejection (reason : Nat) (f : FaultInfo) : Rejection :=
  if f.cause.ofAddress then ⟨reason, f.cause.code, f.info.toNat, f.addr, some f⟩ else plainRejection reason 0

/-- A hamper entry: source, offset, length (R346). -/
structure HamperEntry where
  src : Word
  off : Nat
  len : Nat
  deriving DecidableEq, Repr

def hamperEntries (bs : List Byte) (n : Nat) : List HamperEntry :=
  (List.range n).map (fun i => ⟨recWord bs (2 * i), bitsOf (recWord bs (2 * i + 1)) 51 32, bitsOf (recWord bs (2 * i + 1)) 19 0⟩)

/-- R180's limits. -/
def HamperEntry.ok (e : HamperEntry) : Bool := decide (e.off % 16 = 0 ∧ e.len % 16 = 0 ∧ e.off + e.len ≤ 0xA_0000)

/-- The shape fits the partition (R23). -/
def State.shapeFits (s : State) (part : BitVec 3) (n : Nat) (local_ : Bool) : Bool :=
  let ps := s.partition part
  let d0 := (ps.filter (fun q => decide (q.val < 16))).length
  let d1 := (ps.filter (fun q => decide (16 ≤ q.val))).length
  if local_ then decide (n ≤ max d0 d1) else decide (n ≤ ps.length)

/-- What the kernel header of an accepted launch says (R346). -/
structure Header where
  entry : Word
  quires : Nat
  local_ : Bool
  lpad : Bool
  callat : Bool
  hamper : Word
  hcount : Nat
  deriving DecidableEq, Repr

/-- The checks of R348, in their order. With the context unbound no table translates KHDR (R369): a walk that ends at level 0
(log entry 97). -/
def State.checkRecord (s : State) (q : Queue) (bs : List Byte) : Except Rejection Header :=
  match recordForm bs (((s.bound q.ctx q.part).map (·.spanned)).getD false), s.bound q.ctx q.part with
  | false, _ => .error (plainRejection 1 0)
  | true, none => .error (faultRejection 2 (walkFault (recWord bs 1).toNat 0 0))
  | true, some b =>
    match s.ctxRead b (recWord bs 1) 64 with
    | .error f => .error (faultRejection 2 f)
    | .ok h =>
      let d := recWord h 1
      let hd : Header := ⟨recWord h 0, bitsOf d 47 42 + 1, entryBit d.toNat 41, entryBit d.toNat 40, entryBit d.toNat 39,
        recWord h 2, bitsOf (recWord h 3) 7 0⟩
      if entryBit d.toNat 63 = false then .error (plainRejection 2 0)
      else if 7 < bitsOf d 55 48 then .error (plainRejection 3 0x14)
      else if s.shapeFits q.part hd.quires hd.local_ = false then .error (plainRejection 4 0)
      else
        match s.ctxRead b hd.hamper (16 * hd.hcount) with
        | .error f => .error (faultRejection 5 f)
        | .ok t =>
          if 64 < hd.hcount ∨ (hamperEntries t hd.hcount).all HamperEntry.ok = false then .error (plainRejection 5 0)
          else .ok hd

/-- The launch of an accepted record. -/
def newLaunch (id : Nat) (q : QueueId) (x : Queue) (bs : List Byte) (h : Header) : Launch :=
  let d := recWord bs 0
  { id := id, queue := q, ctx := x.ctx, part := x.part, gangs := bitsOf d 23 0 + 1, quires := h.quires,
    local_ := h.local_, lpol := BitVec.ofNat 2 (bitsOf d 37 36), gpol := BitVec.ofNat 2 (bitsOf d 35 34),
    tpol := BitVec.ofNat 2 (bitsOf d 33 32), mbox := bitsOf d 28 24, lpad := h.lpad, callat := h.callat,
    entry := h.entry, khdr := recWord bs 1, hamper := h.hamper, hcount := h.hcount, param := recWord bs 2,
    rspill := recWord bs 3, rsstride := bitsOf (recWord bs 4) 31 0, pair := BitVec.ofNat 32 (bitsOf (recWord bs 4) 63 32),
    compl := recWord bs 5, user := recWord bs 6, notify := entryBit d.toNat 54, overlap := entryBit d.toNat 55,
    placed := 0, retired := 0, killed := 0, tstart := 0, firstFault := none, status := 0 }

/-- HEAD advances and is written to HEADADDR as a release (R341, R344). -/
def State.advanceHead (s : State) (q : QueueId) : State :=
  let x := s.queueAt q
  let pa := x.headAddr.toNat * 8
  let s := s.setQueue q { x with head := x.head + 1 }
  if x.headAddr = 0 then s
  else if !s.granted x.master pa .write then s.logDenied x.master pa .write
  else s.agentWrite x.master pa (le8 ((x.head + 1).setWidth 64)) (some ⟨.system, none, false⟩) none

/-- A rejected launch completes at once, with a KIND 7 record (R325). -/
def State.rejectLaunch (s : State) (q : QueueId) (bs : List Byte) (r : Rejection) : State :=
  let x := s.queueAt q
  let rec_ := launchRecord r.cause 0 x.ctx.toNat x.part.toNat q.val r.info r.addr
  let s := match r.read with
    | some f => s.logFault x.master f
    | none => s
  (s.setQueue q { x with last := none }).writeCompletion x.ctx q (recWord bs 5) (recWord bs 6) 0 (completionWord 1 r.reason 0 0) rec_
    (entryBit (recWord bs 0).toNat 54)

/-- The next record may become the head launch: the previous launch is complete, or is placed whole and the record
overlaps it (R348). -/
def State.mayAccept (s : State) (q : QueueId) (overlap : Bool) : Bool :=
  match (s.queueAt q).last.bind s.launch with
  | none => true
  | some l => decide (l.gangs ≤ l.placed) && overlap

/-- A launch is taken as head launch. -/
def State.addLaunch (s : State) (q : QueueId) (l : Launch) : State :=
  let s := s.setQueue q { s.queueAt q with last := some l.id }
  { s with sched := { s.sched with launches := s.sched.launches ++ [l], counter := s.sched.counter + 1 } }

/-- The header or the hamper table of a record lies where a write is under way over the link: the scheduler reads it later
(log entry 41). -/
def State.headerWaits (s : State) (q : Queue) (bs : List Byte) : Bool :=
  match s.bound q.ctx q.part with
  | none => false
  | some b =>
    s.ctxWaits b (recWord bs 1) 64
      || (match s.ctxRead b (recWord bs 1) 64 with
          | .ok h => s.ctxWaits b (recWord h 2) (16 * bitsOf (recWord h 3) 7 0)
          | .error _ => false)

/-- The scheduler has read: what it reads later is no older (R126). -/
def State.seen (s : State) : State := s.setUnseen []

/-- ACCEPTANCE (R348). -/
def execAcceptance (q : QueueId) (s : State) : Host.Outcome State Fault Refusal :=
  let x := s.queueAt q
  let pa := x.recordAt x.head.toNat
  .next (if x.pending = 0 then s
    else
      match s.deniedLine x.master pa 128 .read with
      | some a => s.logDenied x.master a .read
      | none =>
        let bs := s.queueRecord x x.head.toNat
        if s.writeSent pa 128 || s.headerWaits x bs then s.seen
        else if s.mayAccept q (entryBit (recWord bs 0).toNat 55) = false then s.seen
        else
          let s := s.advanceHead q
          match s.checkRecord x bs with
          | .error r => (s.rejectLaunch q bs r).seen
          | .ok h => (s.addLaunch q (newLaunch s.sched.counter q x bs h)).seen)

/-! Task start (R27, R352). -/

/-- HAMPER_FILL: the entries in order, each readable; the store that they fill. -/
def State.fillHamper (s : State) (b : Binding) : List HamperEntry → Core → Except FaultInfo Core
  | [], k => .ok k
  | e :: es, k =>
    if e.len = 0 then s.fillHamper b es k
    else
      match s.ctxRead b e.src e.len with
      | .error f => .error f
      | .ok bs => s.fillHamper b es (k.writeLocal e.off bs true)

def Strand.begin (t : Strand) (entry param rspill : Word) : Strand :=
  { t with
    pc := entry, npc := entry, mode := .user
    g := (Vector.replicate 32 (0 : Word)).set 1 param
    f := Vector.replicate 16 0
    ret := [], rspill := rspill, spilled := 0, retries := 0, backoff := 0, inBackoff := false, lastFault := none
    wait := none, wfloor := 0, rfloor := 0 }

/-- The state of R27, before the hamper; the cells are as they stand since the gang was placed. -/
def Core.startTask (k : Core) (r : Resident) (entry param rspill : Word) (cg : BitVec 16) : Core :=
  { k.forget with
    task := some r, held := false, halting := false, halted := false, loading := false
    main := k.main.begin entry param rspill
    err := k.err.begin 0 0 0
    run := none, mbox := []
    m := Vector.replicate 8 0
    t := Vector.replicate 16 Tile.zero
    a := Vector.replicate 8 Acc.zero
    rot := 0, ls := [], bad := [], full := 0, claims := []
    slots := Vector.replicate 16 ⟨.empty, 0⟩
    codegen := cg, scopemiss := 0, fcause := 0
    copies := [], batches := [], batchCtr := 0, deferred := [] }

/-- CR.POLICY of the tasks of a launch (R292, R345). -/
def policyBits (l : Launch) (q : Queue) : BitVec 8 :=
  BitVec.ofNat 8 (q.policy.toNat * 64 + l.lpol.toNat * 16 + l.gpol.toNat * 4 + l.tpol.toNat)

def State.newResident (s : State) (g : Gang) (l : Launch) (peer : Nat) : Resident where
  key := g.key
  peer := peer
  peers := g.peers.length
  part := l.part
  ctx := l.ctx
  ptroot := g.root
  spanned := g.spanned
  depth := l.mbox
  policy := policyBits l (s.queueAt l.queue)
  lpad := l.lpad
  callat := l.callat
  ended := false

/-- CR.RSPILL of a task (R345). -/
def spillBase (l : Launch) (gang peer : Nat) : Word :=
  BitVec.ofNat 64 ((l.rspill.toNat + l.rsstride * (8 * l.quires * gang + peer)) % 2 ^ 57 / 8 * 8)

/-- The context of a gang's launch, with the table that it was placed with. -/
def Gang.bound (g : Gang) (l : Launch) : Binding := ⟨l.ctx, l.part, g.root, g.spanned⟩

/-- One task's initial state, its hamper filled; that of a task that was killed before its start is an ended one's (R49). -/
def State.freshTask (s : State) (g : Gang) (l : Launch) (es : List HamperEntry) (peer : Nat) (c : CoreId) :
    Except FaultInfo Core :=
  let k := (s.core c).startTask (s.newResident g l peer) l.entry l.param (spillBase l g.key.gang peer) s.cg
  if g.dead.contains peer then .ok k.asDead else s.fillHamper (g.bound l) es k

/-- Every task's initial state, or the first fault with its task. -/
def State.freshTasks (s : State) (g : Gang) (l : Launch) (es : List HamperEntry) :
    List (Nat × CoreId) → Except (FaultInfo × Nat × CoreId) (List (CoreId × Core))
  | [] => .ok []
  | (p, c) :: rest =>
    match s.freshTask g l es p c with
    | .error f => .error (f, p, c)
    | .ok k =>
      match s.freshTasks g l es rest with
      | .error e => .error e
      | .ok ks => .ok ((c, k) :: ks)

/-- The hamper entries, read again at the fill. -/
def State.hamperOf (s : State) (g : Gang) (l : Launch) : Except FaultInfo (List HamperEntry) :=
  match s.ctxRead (g.bound l) l.hamper (16 * l.hcount) with
  | .error f => .error f
  | .ok bs => .ok (hamperEntries bs l.hcount)

/-- The hamper's table or a source lies where a write is under way over the link: the scheduler reads it later (log entry
41). -/
def State.hamperWaits (s : State) (g : Gang) (l : Launch) : Bool :=
  s.ctxWaits (g.bound l) l.hamper (16 * l.hcount)
    || (match s.hamperOf g l with
        | .ok es => es.any (fun e => s.ctxWaits (g.bound l) e.src e.len)
        | .error _ => false)

/-- A fault of the fill: KIND 3 for an uncorrectable error, which no instruction is charged with, else 0 (R319, R323,
R352). -/
def fillFault (f : FaultInfo) : FaultInfo := if f.cause = .dataUncorrectable then areaError else f

/-- The peers that have a core, with it. -/
def Gang.placedCores (g : Gang) : List (Nat × CoreId) :=
  (List.range g.peers.length).filterMap (fun p =>
    (match g.peers[p]? with
      | some (Place.core c) => some (p, c)
      | _ => none : Option (Nat × CoreId)))

/-- TASK_START: the hampers are filled and the gang's tasks start together; a gang whose tasks have all been killed before
retires (R29, R49). -/
def execTaskStart (k : GangKey) (s : State) : Host.Outcome State Fault Refusal :=
  .next (match s.gang k, s.launch k.launch with
    | some g, some l =>
      let cs := g.placedCores
      if g.state ≠ .placed ∨ cs.length ≠ g.peers.length ∨ cs.any (fun p => (s.core p.2).asleep) ∨ s.hamperWaits g l then s
      else
        match s.hamperOf g l with
        | .error f => s.consultGang (s.newResident g l 0) (peerCore g.quires 0) (fillFault f)
        | .ok es =>
          match s.freshTasks g l es cs with
          | .error (f, p, c) => s.consultGang (s.newResident g l p) c (fillFault f)
          | .ok ks =>
            ((ks.foldl (fun s k => s.setCore k.1 k.2) s).setGang { g with state := .running }).retireGang k
    | _, _ => s)

/-! Descriptor writes of ENABLE (R342, R358). -/

/-- The write of doubleword 0 of a queue's descriptor. -/
def State.writeQueue0 (s : State) (q : QueueId) (v : Word) (bit : Bool) : State :=
  s.setQueue q ((s.queueAt q).writeDw0 v bit)

/-- QUEUE_ENABLE: a write with ENABLE 1. -/
def execQueueEnable (q : QueueId) (dw0 : Word) (s : State) : Host.Outcome State Fault Refusal :=
  .next (s.writeQueue0 q (dw0 ||| BitVec.twoPow 64 63) true)

/-- QUEUE_DISABLE: a write with ENABLE 0. -/
def execQueueDisable (q : QueueId) (dw0 : Word) (s : State) : Host.Outcome State Fault Refusal :=
  .next (s.writeQueue0 q (dw0 &&& ~~~(BitVec.twoPow 64 63)) true)

end Sys2Proof.Machine
end

