-- ==== Sys2Proof/Machine/Host.lean ====
section
/-! DEFINITION. The host's windows: BAR0 registers and BAR2 (R6, R7, R161, R317, R342, R354 to R358, R367, R376). -/

namespace Sys2Proof.Machine

/-! The function of the host port (R354). What is below these properties is PCI Express's and CXL's (log entry 118). -/

/-- Capability structures, with those that R354 calls absent. -/
inductive Capability where
  | powerManagement | pciExpress | msix | advancedErrorReporting | deviceSerialNumber | dataObjectExchange
  | cxlDevice | flexBusPort | registerLocator
  | msi | legacyIntx | srIov | ats | pri | pasid | other
  deriving DecidableEq, Repr

def Capability.present : Capability → Bool
  | .powerManagement | .pciExpress | .msix | .advancedErrorReporting | .deviceSerialNumber | .dataObjectExchange
  | .cxlDevice | .flexBusPort | .registerLocator => true
  | .msi | .legacyIntx | .srIov | .ats | .pri | .pasid | .other => false

/-- The protocols of R354. -/
inductive HostProtocol where
  | cxlIo | cxlCache | cxlMem
  deriving DecidableEq, Repr

def HostProtocol.implemented : HostProtocol → Bool
  | .cxlIo | .cxlCache => true
  | .cxlMem => false

/-- The function is a processing accelerator; 14-bit tags. -/
def portFunctions : Nat := 1
def portTagBits : Nat := 14

/-- What Device Serial Number carries: the device identifier. -/
def State.serialNumber (_ : State) : Word := Config.deviceId

/-- A power of two of bytes between bounds. -/
def sizeWithin (lo hi n : Nat) : Bool := decide (lo ≤ n ∧ n ≤ hi ∧ n = 2 ^ n.log2)

/-- What the host sets of the capability structures; a value that the function does not support changes nothing. The manual
gives D3hot no effect: DESIGN CHOICE, it is recorded alone (log entry 118). -/
def HostPort.write (p : HostPort) : PortWrite → HostPort
  | .power x => { p with power := x }
  | .width n => if sizeWithin 1 16 n then { p with width := n } else p
  | .maxPayload n => if sizeWithin 128 512 n then { p with maxPayload := n } else p
  | .maxReadRequest n => if sizeWithin 128 4096 n then { p with maxReadRequest := n } else p
  | .clearErrors => { p with unsupportedRequest := false, completerAbort := false }

def State.portWrite (s : State) (w : PortWrite) : State := { s with port := s.port.write w }

/-- A completion that carries no data: Advanced Error Reporting records an Unsupported Request of BAR0, or a Completer Abort
of BAR2 (R355, R356). -/
def HostPort.record (p : HostPort) (bar : Nat) (failed : Bool) : HostPort :=
  { p with
    unsupportedRequest := p.unsupportedRequest || (failed && bar == 0)
    completerAbort := p.completerAbort || (failed && bar == 2) }

/-! Registers (R355). -/

/-- A doubleword after a write of 8 bytes, or of 4 bytes into one of its halves. -/
def mergeWrite (old v : Word) (wide high : Bool) : Word :=
  if wide then v
  else if high then BitVec.ofNat 64 (bitsOf v 31 0 * 2 ^ 32 + bitsOf old 31 0)
  else BitVec.ofNat 64 (bitsOf old 63 32 * 2 ^ 32 + bitsOf v 31 0)

/-- Doubleword `d` of a queue descriptor as it reads (R342). -/
def Queue.dword (q : Queue) (d : Nat) : Word :=
  match d with
  | 0 => q.dw0
  | 1 => BitVec.ofNat 64 (q.ring.toNat * 2 ^ 7)
  | 2 => BitVec.ofNat 64 (q.tailAddr.toNat * 2 ^ 3)
  | 3 => BitVec.ofNat 64 (q.headAddr.toNat * 2 ^ 3)
  | 4 => q.head.setWidth 64
  | 5 => q.tailSeen.setWidth 64
  | _ => 0

/-- A write of doublewords 1 to 7: ignored while ENABLE is 1, and where fields are read-only. -/
def Queue.writeDword (q : Queue) (d : Nat) (v : Word) : Queue :=
  if q.enable then q
  else
    match d with
    | 1 => { q with ring := BitVec.ofNat 45 (bitsOf v 51 7) }
    | 2 => { q with tailAddr := BitVec.ofNat 49 (bitsOf v 51 3) }
    | 3 => { q with headAddr := BitVec.ofNat 49 (bitsOf v 51 3) }
    | _ => q

def BootState.code : BootState → Nat
  | .awaitBundle => 1 | .bootFail => 2 | .running => 3

/-- The mailbox registers as they read (R367). -/
def Mgmt.dword (m : Mgmt) (off : Nat) : Word :=
  match off with
  | 0x00 => BitVec.ofNat 64 (m.go.toNat * 2 ^ 63 + m.op.toNat)
  | 0x08 => BitVec.ofNat 64 (m.state.code * 2 ^ 8 + m.result.toNat)
  | 0x10 => m.arg0
  | 0x18 => m.arg1
  | _ => if 0x100 ≤ off then m.window.dword (off - 0x100) else 0

/-- An OP that R368 lists. -/
def knownOp (op : BitVec 8) : Bool := decide (1 ≤ op.toNat ∧ op.toNat ≤ 8)

/-- A command ends: STATUS is written and GO is cleared. -/
def Mgmt.finish (m : Mgmt) (result : Nat) : Mgmt := { m with go := false, result := BitVec.ofNat 8 result }

/-- A write of MB.CMD. `bit` says whether it carries GO; a write of GO that finds GO 1 is ignored, while OP is stored
(R367; log entry 52). An OP that is not listed is answered at once. -/
def Mgmt.writeCmd (m : Mgmt) (v : Word) (bit : Bool) : Mgmt :=
  let m := { m with op := BitVec.ofNat 8 (bitsOf v 7 0) }
  if bit && v.getLsbD 63 && !m.go then
    (if knownOp m.op then { m with go := true, running := m.op } else m.finish 1)
  else m

/-- A write of the mailbox; `v` is the doubleword as it would stand. -/
def Mgmt.writeDword (m : Mgmt) (off : Nat) (v : Word) (bit : Bool) : Mgmt :=
  match off with
  | 0x00 => m.writeCmd v bit
  | 0x10 => { m with arg0 := v }
  | 0x18 => { m with arg1 := v }
  | _ => if 0x100 ≤ off then { m with window := m.window.write (off - 0x100) (le8 v) } else m

/-- The bits of HOSTMASTER that it holds (R356). -/
def hostMasterBits (v : Word) : Word := keepBits v 63 48

/-- The doubleword of BAR0 at a multiple of 8. -/
def State.readBar0 (s : State) (off : Nat) : Word :=
  if off < 0x800 then (s.queueAt (Fin.ofNat 32 (off / 64))).dword (off % 64 / 8)
  else if off = 0x1000 then s.conf.hostMaster
  else if 0x1_0000 ≤ off ∧ off < 0x1_0420 then s.msix.dword (off - 0x1_0000)
  else if 0x1_1000 ≤ off ∧ off < 0x1_1010 then BitVec.ofNat 64 (s.pba.toNat / 2 ^ (8 * (off - 0x1_1000)))
  else if 0x2_0000 ≤ off ∧ off < 0x3_0000 then s.mgmt.dword (off - 0x2_0000)
  else 0

/-- The MSI-X table is written; a vector whose mask bit is clear then is pending no more. -/
def State.writeMsix (s : State) (off : Nat) (v : Word) : State :=
  let s := { s with msix := s.msix.write off (le8 v) }
  { s with pba := (List.range 66).foldl (fun p n => if s.vectorMasked n then p else p &&& ~~~(BitVec.twoPow 128 n)) s.pba }

/-- A doubleword of BAR0 is written; reserved bytes and read-only fields stay. -/
def State.writeBar0 (s : State) (off : Nat) (v : Word) (bit : Bool) : State :=
  if off < 0x800 then
    let q : QueueId := Fin.ofNat 32 (off / 64)
    if off % 64 = 0 then s.writeQueue0 q v bit
    else s.setQueue q ((s.queueAt q).writeDword (off % 64 / 8) v)
  else if off = 0x1000 then { s with conf := { s.conf with hostMaster := hostMasterBits v } }
  else if 0x1_0000 ≤ off ∧ off < 0x1_0420 then s.writeMsix (off - 0x1_0000) v
  else if 0x2_0000 ≤ off ∧ off < 0x3_0000 then { s with mgmt := s.mgmt.writeDword (off - 0x2_0000) v bit }
  else s

/-- The host receives a completion. -/
def State.completes (s : State) (bar addr : Nat) (data : Option (List Byte)) : State :=
  { s with hostReads := s.hostReads ++ [⟨bar, addr, data⟩], port := s.port.record bar data.isNone }

/-- A read of BAR0: 4 or 8 aligned bytes; any other completes with Unsupported Request (R355). -/
def State.registerRead (s : State) (off len : Nat) : State :=
  s.completes 0 off
    (if (len = 4 ∨ len = 8) ∧ off % len = 0 ∧ off < 2 ^ 24 then
      some (((le8 (s.readBar0 (off / 8 * 8))).drop (off % 8)).take len)
    else none)

/-- REGISTER_WRITE: a 4-byte or 8-byte aligned write of BAR0; any other completes with Unsupported Request (R355). -/
def execRegisterWrite (off : BitVec 24) (wide : Bool) (val : Word) (s : State) : Host.Outcome State Fault Refusal :=
  let o := off.toNat
  let base := o / 8 * 8
  let high := decide (o % 8 = 4)
  .next (if o % (if wide then 8 else 4) ≠ 0 then s.completes 0 o none
    else s.writeBar0 base (mergeWrite (s.readBar0 base) val wide high) (wide || high))

/-! BAR2 (R356). -/

/-- The master of BAR2 accesses, while HOSTMASTER is valid. -/
def State.hostMaster (s : State) : Option Master :=
  let v := s.conf.hostMaster
  if v.getLsbD 63 then some ⟨BitVec.ofNat 3 (bitsOf v 62 60), BitVec.ofNat 12 (bitsOf v 59 48)⟩ else none

/-- The parts of a BAR2 access by frame: offset and length. -/
def frameParts (a n : Nat) : List (Nat × Nat) := cutAt a n 0x8000

/-- What a host read completes with: none is a Completer Abort. -/
def State.hostRead (s : State) (a n : Nat) : Option (List Byte) :=
  match s.hostMaster with
  | none => none
  | some m =>
    if (s.deniedLine m a n .read).isSome || (s.badLine a n).isSome then none else some (s.readPhys a n)

/-- The log entry of a host read that a table denies (R317). -/
def State.logHostRead (s : State) (a n : Nat) : State :=
  match s.hostMaster with
  | none => s
  | some m =>
    match s.deniedLine m a n .read with
    | some x => s.logDenied m x .read
    | none => s

/-- BAR2_READ. -/
def execBar2Read (addr len : Nat) (s : State) : Host.Outcome State Fault Refusal :=
  .next (if addr + len ≤ 0x80_0000_0000 then (s.logHostRead addr len).completes 2 addr (s.hostRead addr len) else s)

def State.mapCounters (s : State) (f : MgmtCounters → MgmtCounters) : State :=
  { s with mgmt := { s.mgmt with counters := f s.mgmt.counters } }

def State.countDenied (s : State) : State :=
  s.mapCounters (fun c => { c with hostWrDenied := satInc c.hostWrDenied })

def State.countFrozen (s : State) : State :=
  s.mapCounters (fun c => { c with hostWrFrozen := satInc c.hostWrFrozen })

/-- A part of a host write, inside one frame. The log holds every one that is denied or dropped (R375): without a valid
master, under the fields that HOSTMASTER holds. -/
def State.hostWrite (s : State) (pa : Nat) (bs : List Byte) : State :=
  match s.hostMaster with
  | none =>
    let v := s.conf.hostMaster
    (s.logDeniedAt ⟨BitVec.ofNat 3 (bitsOf v 62 60), BitVec.ofNat 12 (bitsOf v 59 48)⟩ (homeSlice pa) pa).countDenied
  | some m =>
    match s.deniedLine m pa bs.length .write with
    | some a => (s.logDenied m a .write).countDenied
    | none =>
      if 0 < (s.attrAt pa).fcount then s.countFrozen.logFrozen m pa else s.acceptWrite m pa bs none none

/-- BAR2_WRITE: each frame's part is decided on its own. -/
def execBar2Write (addr : Nat) (data : List Byte) (s : State) : Host.Outcome State Fault Refusal :=
  .next (if addr + data.length ≤ 0x80_0000_0000 then
    (frameParts addr data.length).foldl (fun s p => s.hostWrite (addr + p.1) ((data.drop p.1).take p.2)) s
    else s)

/-! Host memory (R119, R123, R357). -/

/-- The host has taken some bytes of host memory: the device's L2 holds their lines no more, and none of them is dirty there
(R107, R357). -/
def State.hostOwns (s : State) (pa n : Nat) : State :=
  { s with mem := { s.mem with masters := s.mem.masters.filter (fun p => !(blocksOf pa n 128).contains p.1) } }

/-- A host agent writes bytes of one 64-byte line of host memory: a plain store of the host, or what an atomic of it
leaves. The device has no copy that outlives the write (R357). -/
def State.hostStore (s : State) (pa : Nat) (bs : List Byte) : State :=
  if memType pa = .host ∧ (blocksOf pa bs.length 64).length = 1 ∧ pa + bs.length ≤ 2 ^ 52 then
    (s.hostOwns pa bs.length).pokePhys pa bs
  else s

end Sys2Proof.Machine
end

