-- ==== Sys2Proof/Machine/Integer.lean ====
section
/-! DEFINITION. NOP, FEND and the integer forms of classes 0x02 to 0x05 (R171, R172, R182 to R185). -/

namespace Sys2Proof.Machine

/-- n of R182. -/
def widthBits : Width → Nat
  | .x => 64 | .w => 32

/-- The signed value of an n-bit pattern (R182). -/
def signedOf (n a : Nat) : Int := if a / 2 ^ (n - 1) % 2 = 1 then (a : Int) - 2 ^ n else a

/-- Sign-extended result of an integer form (R182). -/
def intValue (wd : Width) (f : Nat → Nat → Nat → Int) (x y : Word) : Word :=
  let n := widthBits wd
  (BitVec.ofInt n (f n (x.toNat % 2 ^ n) (y.toNat % 2 ^ n))).signExtend 64

/-! int_result of R183: `n` is the width, `a` and `b` the unsigned operands. -/

def intAdd (_ a b : Nat) : Int := a + b
def intSub (_ a b : Nat) : Int := (a : Int) - b
def intMul (_ a b : Nat) : Int := a * b
def intAnd (_ a b : Nat) : Int := (a &&& b : Nat)
def intOr (_ a b : Nat) : Int := (a ||| b : Nat)
def intXor (_ a b : Nat) : Int := (a ^^^ b : Nat)
def intAndn (n a b : Nat) : Int := (a &&& (2 ^ n - 1 - b) : Nat)
def intShl (n a b : Nat) : Int := a * 2 ^ (b % n)
def intShr (n a b : Nat) : Int := (a / 2 ^ (b % n) : Nat)
def intSra (n a b : Nat) : Int := (signedOf n a).fdiv (2 ^ (b % n))
def intRol (n a b : Nat) : Int := (a * 2 ^ (b % n) % 2 ^ n + a / 2 ^ (n - b % n) : Nat)
def intRor (n a b : Nat) : Int := (a / 2 ^ (b % n) + a * 2 ^ (n - b % n) % 2 ^ n : Nat)
def intMulhs (n a b : Nat) : Int := (signedOf n a * signedOf n b).fdiv (2 ^ n)
def intMulhu (n a b : Nat) : Int := (a * b / 2 ^ n : Nat)
def intDivs (n a b : Nat) : Int :=
  if signedOf n b = 0 then -1
  else if signedOf n a = -2 ^ (n - 1) ∧ signedOf n b = -1 then -2 ^ (n - 1)
  else (signedOf n a).tdiv (signedOf n b)
def intDivu (n a b : Nat) : Int := if b = 0 then 2 ^ n - 1 else (a / b : Nat)
def intRems (n a b : Nat) : Int :=
  if signedOf n b = 0 then signedOf n a
  else if signedOf n a = -2 ^ (n - 1) ∧ signedOf n b = -1 then 0
  else signedOf n a - signedOf n b * intDivs n a b
def intRemu (_ a b : Nat) : Int := if b = 0 then a else (a % b : Nat)
def intMin (n a b : Nat) : Int := min (signedOf n a) (signedOf n b)
def intMax (n a b : Nat) : Int := max (signedOf n a) (signedOf n b)
def intMinu (_ a b : Nat) : Int := (min a b : Nat)
def intMaxu (_ a b : Nat) : Int := (max a b : Nat)
def intSlt (n a b : Nat) : Int := if signedOf n a < signedOf n b then 1 else 0
def intSltu (_ a b : Nat) : Int := if a < b then 1 else 0
def intSeq (_ a b : Nat) : Int := if a = b then 1 else 0
def intSne (_ a b : Nat) : Int := if a ≠ b then 1 else 0
/-- Zero bits above the highest 1 bit. -/
def intClz (n a _ : Nat) : Int := if a = 0 then n else (n - 1 - a.log2 : Nat)
/-- Zero bits below the lowest 1 bit. -/
def intCtz (n a _ : Nat) : Int := (((List.range n).takeWhile (fun i => decide (a / 2 ^ i % 2 = 0))).length : Nat)
def intPopc (n a _ : Nat) : Int := (((List.range n).map (fun i => a / 2 ^ i % 2)).sum : Nat)
def intBswap (n a _ : Nat) : Int := (leNat (natLe (n / 8) a).reverse : Nat)

/-- A register form (R182). -/
def intReg (i : Instr) (f : Nat → Nat → Nat → Int) (gd ga gb : GReg) (wd : Width) (s : State) :
    Host.Outcome State Fault Refusal :=
  issue i s (fun s => .retire (s.setG gd (intValue wd f (s.g ga) (s.g gb))))

/-- An immediate form (R184). -/
def intImm (i : Instr) (f : Nat → Nat → Nat → Int) (gd ga : GReg) (imm : BitVec 22) (wd : Width) (s : State) :
    Host.Outcome State Fault Refusal :=
  issue i s (fun s => .retire (s.setG gd (intValue wd f (s.g ga) (imm.signExtend 64))))

/-- FEND: not an instruction; it never retires, and the strand goes on at the next folio (R168, R171). -/
def execFend (s : State) : Host.Outcome State Fault Refusal := conclude s (.became (s.at_ (folioBase s.me.pc + 64)))

def execNop (s : State) : Host.Outcome State Fault Refusal := issue .nop s (fun s => .retire s)

def execAdd (gd ga gb : GReg) (wd : Width) (s : State) : Host.Outcome State Fault Refusal :=
  intReg (.add gd ga gb wd) intAdd gd ga gb wd s

def execSub (gd ga gb : GReg) (wd : Width) (s : State) : Host.Outcome State Fault Refusal :=
  intReg (.sub gd ga gb wd) intSub gd ga gb wd s

def execAnd (gd ga gb : GReg) (wd : Width) (s : State) : Host.Outcome State Fault Refusal :=
  intReg (.and gd ga gb wd) intAnd gd ga gb wd s

def execOr (gd ga gb : GReg) (wd : Width) (s : State) : Host.Outcome State Fault Refusal :=
  intReg (.or gd ga gb wd) intOr gd ga gb wd s

def execXor (gd ga gb : GReg) (wd : Width) (s : State) : Host.Outcome State Fault Refusal :=
  intReg (.xor gd ga gb wd) intXor gd ga gb wd s

def execAndn (gd ga gb : GReg) (wd : Width) (s : State) : Host.Outcome State Fault Refusal :=
  intReg (.andn gd ga gb wd) intAndn gd ga gb wd s

def execShl (gd ga gb : GReg) (wd : Width) (s : State) : Host.Outcome State Fault Refusal :=
  intReg (.shl gd ga gb wd) intShl gd ga gb wd s

def execShr (gd ga gb : GReg) (wd : Width) (s : State) : Host.Outcome State Fault Refusal :=
  intReg (.shr gd ga gb wd) intShr gd ga gb wd s

def execSra (gd ga gb : GReg) (wd : Width) (s : State) : Host.Outcome State Fault Refusal :=
  intReg (.sra gd ga gb wd) intSra gd ga gb wd s

def execRol (gd ga gb : GReg) (wd : Width) (s : State) : Host.Outcome State Fault Refusal :=
  intReg (.rol gd ga gb wd) intRol gd ga gb wd s

def execRor (gd ga gb : GReg) (wd : Width) (s : State) : Host.Outcome State Fault Refusal :=
  intReg (.ror gd ga gb wd) intRor gd ga gb wd s

def execMul (gd ga gb : GReg) (wd : Width) (s : State) : Host.Outcome State Fault Refusal :=
  intReg (.mul gd ga gb wd) intMul gd ga gb wd s

def execMulhs (gd ga gb : GReg) (wd : Width) (s : State) : Host.Outcome State Fault Refusal :=
  intReg (.mulhs gd ga gb wd) intMulhs gd ga gb wd s

def execMulhu (gd ga gb : GReg) (wd : Width) (s : State) : Host.Outcome State Fault Refusal :=
  intReg (.mulhu gd ga gb wd) intMulhu gd ga gb wd s

def execDivs (gd ga gb : GReg) (wd : Width) (s : State) : Host.Outcome State Fault Refusal :=
  intReg (.divs gd ga gb wd) intDivs gd ga gb wd s

def execDivu (gd ga gb : GReg) (wd : Width) (s : State) : Host.Outcome State Fault Refusal :=
  intReg (.divu gd ga gb wd) intDivu gd ga gb wd s

def execRems (gd ga gb : GReg) (wd : Width) (s : State) : Host.Outcome State Fault Refusal :=
  intReg (.rems gd ga gb wd) intRems gd ga gb wd s

def execRemu (gd ga gb : GReg) (wd : Width) (s : State) : Host.Outcome State Fault Refusal :=
  intReg (.remu gd ga gb wd) intRemu gd ga gb wd s

def execMin (gd ga gb : GReg) (wd : Width) (s : State) : Host.Outcome State Fault Refusal :=
  intReg (.min gd ga gb wd) intMin gd ga gb wd s

def execMax (gd ga gb : GReg) (wd : Width) (s : State) : Host.Outcome State Fault Refusal :=
  intReg (.max gd ga gb wd) intMax gd ga gb wd s

def execMinu (gd ga gb : GReg) (wd : Width) (s : State) : Host.Outcome State Fault Refusal :=
  intReg (.minu gd ga gb wd) intMinu gd ga gb wd s

def execMaxu (gd ga gb : GReg) (wd : Width) (s : State) : Host.Outcome State Fault Refusal :=
  intReg (.maxu gd ga gb wd) intMaxu gd ga gb wd s

def execSlt (gd ga gb : GReg) (wd : Width) (s : State) : Host.Outcome State Fault Refusal :=
  intReg (.slt gd ga gb wd) intSlt gd ga gb wd s

def execSltu (gd ga gb : GReg) (wd : Width) (s : State) : Host.Outcome State Fault Refusal :=
  intReg (.sltu gd ga gb wd) intSltu gd ga gb wd s

def execSeq (gd ga gb : GReg) (wd : Width) (s : State) : Host.Outcome State Fault Refusal :=
  intReg (.seq gd ga gb wd) intSeq gd ga gb wd s

def execSne (gd ga gb : GReg) (wd : Width) (s : State) : Host.Outcome State Fault Refusal :=
  intReg (.sne gd ga gb wd) intSne gd ga gb wd s

def execClz (gd ga : GReg) (wd : Width) (s : State) : Host.Outcome State Fault Refusal :=
  intReg (.clz gd ga wd) intClz gd ga 0 wd s

def execCtz (gd ga : GReg) (wd : Width) (s : State) : Host.Outcome State Fault Refusal :=
  intReg (.ctz gd ga wd) intCtz gd ga 0 wd s

def execPopc (gd ga : GReg) (wd : Width) (s : State) : Host.Outcome State Fault Refusal :=
  intReg (.popc gd ga wd) intPopc gd ga 0 wd s

def execBswap (gd ga : GReg) (wd : Width) (s : State) : Host.Outcome State Fault Refusal :=
  intReg (.bswap gd ga wd) intBswap gd ga 0 wd s

def execAddi (gd ga : GReg) (imm : BitVec 22) (wd : Width) (s : State) : Host.Outcome State Fault Refusal :=
  intImm (.addi gd ga imm wd) intAdd gd ga imm wd s

def execAndi (gd ga : GReg) (imm : BitVec 22) (wd : Width) (s : State) : Host.Outcome State Fault Refusal :=
  intImm (.andi gd ga imm wd) intAnd gd ga imm wd s

def execOri (gd ga : GReg) (imm : BitVec 22) (wd : Width) (s : State) : Host.Outcome State Fault Refusal :=
  intImm (.ori gd ga imm wd) intOr gd ga imm wd s

def execXori (gd ga : GReg) (imm : BitVec 22) (wd : Width) (s : State) : Host.Outcome State Fault Refusal :=
  intImm (.xori gd ga imm wd) intXor gd ga imm wd s

def execShli (gd ga : GReg) (imm : BitVec 22) (wd : Width) (s : State) : Host.Outcome State Fault Refusal :=
  intImm (.shli gd ga imm wd) intShl gd ga imm wd s

def execShri (gd ga : GReg) (imm : BitVec 22) (wd : Width) (s : State) : Host.Outcome State Fault Refusal :=
  intImm (.shri gd ga imm wd) intShr gd ga imm wd s

def execSrai (gd ga : GReg) (imm : BitVec 22) (wd : Width) (s : State) : Host.Outcome State Fault Refusal :=
  intImm (.srai gd ga imm wd) intSra gd ga imm wd s

def execRori (gd ga : GReg) (imm : BitVec 22) (wd : Width) (s : State) : Host.Outcome State Fault Refusal :=
  intImm (.rori gd ga imm wd) intRor gd ga imm wd s

def execMuli (gd ga : GReg) (imm : BitVec 22) (wd : Width) (s : State) : Host.Outcome State Fault Refusal :=
  intImm (.muli gd ga imm wd) intMul gd ga imm wd s

def execSlti (gd ga : GReg) (imm : BitVec 22) (wd : Width) (s : State) : Host.Outcome State Fault Refusal :=
  intImm (.slti gd ga imm wd) intSlt gd ga imm wd s

def execSltui (gd ga : GReg) (imm : BitVec 22) (wd : Width) (s : State) : Host.Outcome State Fault Refusal :=
  intImm (.sltui gd ga imm wd) intSltu gd ga imm wd s

def execSeqi (gd ga : GReg) (imm : BitVec 22) (wd : Width) (s : State) : Host.Outcome State Fault Refusal :=
  intImm (.seqi gd ga imm wd) intSeq gd ga imm wd s

def execMini (gd ga : GReg) (imm : BitVec 22) (wd : Width) (s : State) : Host.Outcome State Fault Refusal :=
  intImm (.mini gd ga imm wd) intMin gd ga imm wd s

def execMaxi (gd ga : GReg) (imm : BitVec 22) (wd : Width) (s : State) : Host.Outcome State Fault Refusal :=
  intImm (.maxi gd ga imm wd) intMax gd ga imm wd s

def execLi (gd : GReg) (imm : BitVec 64) (s : State) : Host.Outcome State Fault Refusal :=
  issue (.li gd imm) s (fun s => .retire (s.setG gd imm))

def execAdr (gd : GReg) (imm : BitVec 32) (s : State) : Host.Outcome State Fault Refusal :=
  issue (.adr gd imm) s (fun s => .retire (s.setG gd (folioBase s.me.pc + imm.signExtend 64)))

def execLea (gd ga gb : GReg) (shift : Fin 8) (imm : BitVec 19) (s : State) : Host.Outcome State Fault Refusal :=
  issue (.lea gd ga gb shift imm) s (fun s =>
    .retire (s.setG gd (s.g ga + s.g gb * BitVec.ofNat 64 (2 ^ shift.val) + imm.signExtend 64)))

end Sys2Proof.Machine
end

