-- ==== Sys2Proof/Machine/Sync.lean ====
section
/-! DEFINITION. Fences and barrier cells, classes 0x30 and 0x31, and barrier arrivals over the link (R41 to R44,
R129, R223 to R226, R335, R364, R366). -/

namespace Sys2Proof.Machine

/-! Fences (R223). -/

/-- The strand has a write to the peer device that is pending or not acknowledged. -/
def State.farWrites (s : State) : Bool :=
  s.here.writes.any (fun w => w.errand == s.cur.errand && w.segs.any Seg.far) || !s.acknowledged s.cur

/-- A fence (R129): loads are performed in program order, so only earlier writes, and reads of earlier copies, are left to be
put before what follows. It does not wait for copies (R223). -/
def execFence (sc : Scope) (kind : FenceKind) (s : State) : Host.Outcome State Fault Refusal :=
  issue (.fence sc kind) s (fun s =>
    match kind with
    | .r => .retire s.fenceReads
    | .w =>
      if wideScope sc && s.farWrites then afterDrain s true Effect.retire
      else .retire (s.setMe { s.me with wfloor := s.here.order })
    | .rw => afterDrain s (wideScope sc) (fun s => .retire s.fenceReads))

/-! Cells (R41, R225, R335). -/

/-- The operand of a barrier instruction. -/
structure CellName where
  pdev : Bool
  other : Bool
  gang : Nat
  cell : Nat
  deriving DecidableEq, Repr

/-- The cell that g[gc] names; none raises BARRIER_CELL. -/
def cellName (v : Word) (foreign : Bool) : Option CellName :=
  let n : CellName := ⟨entryBit v.toNat 32, entryBit v.toNat 7, bitsOf v 31 8, bitsOf v 6 0⟩
  if bitsOf v 63 33 ≠ 0 ∨ 95 < n.cell ∨ (n.pdev = true ∧ n.other = false)
      ∨ (foreign = false ∧ (n.pdev = true ∨ n.other = true)) then none
  else some n

/-- Where the host of a cell is: its core, or its save area. -/
def State.cellPlace (s : State) (k : GangKey) (cell : Nat) : Option Place :=
  let r := s.resident
  if k = r.key ∧ cell % r.peers = r.peer then some (.core s.cur.core)
  else (s.gang k).bind (fun g => g.peers[cell % g.peers.length]?)

def State.cellAt (s : State) (p : Place) (cell : Nat) : BarCell :=
  match p with
  | .core c => (s.core c).cells[Fin.ofNat 96 cell]
  | .saved pa => s.image pa cell

def State.setCellAt (s : State) (p : Place) (cell : Nat) (v : BarCell) : State :=
  match p with
  | .core c => s.mapCore c (fun k => { k with cells := k.cells.set (Fin.ofNat 96 cell) v })
  | .saved pa => s.setImage pa cell v

def cellFault : Effect := .raise (plainFault .barrierCell 0)

/-- An instruction on a cell of the own gang. -/
def State.ownCell (s : State) (v : Word) (body : Nat → Place → BarCell → Effect) : Effect :=
  match cellName v false with
  | none => cellFault
  | some n =>
    match s.cellPlace s.resident.key n.cell with
    | none => cellFault
    | some p => body n.cell p (s.cellAt p n.cell)

/-- BARINIT (R42, R226): ordered like a store of the cell, behind what a fence puts before it (R129). -/
def execBarinit (gc gs : GReg) (s : State) : Host.Outcome State Fault Refusal :=
  issue (.barinit gc gs) s (fun s =>
    s.ownCell (s.g gc) (fun n p c =>
      let v := (s.g gs).toNat
      if v = 0 ∨ 4095 < v ∨ c.arrived ≠ 0 then cellFault
      else
        (s.ready [] s.me.wfloor).effect (fun s =>
          .retire (s.setCellAt p n { c with expect := BitVec.ofNat 12 v, arrived := 0 }))))

/-- An arrival that its target takes: the cell after it and the phase; none where the cell is not initialised. One at a
gang whose kill has been requested and has not taken effect is counted as dropped and leaves the cell as it is (R337; log
entry 79). -/
def State.takeArrival (s : State) (k : GangKey) (p : Place) (cell : Nat) : Option (State × BitVec 8) :=
  let c := s.cellAt p cell
  if c.expect = 0 then none
  else if s.killPending k then some (s.countDropped, c.phase)
  else some (s.setCellAt p cell c.arrive.2, c.arrive.1)

/-- An arrival at a cell, once the writes before it are performed (R43). -/
def State.arriveAt (s : State) (k : GangKey) (p : Place) (cell : Nat) (wide : Bool)
    (body : State → BitVec 8 → Effect) : Effect :=
  afterDrain s wide (fun s =>
    match s.takeArrival k p cell with
    | none => cellFault
    | some (s, ph) => body s ph)

/-- The arrival that the strand sent over the link. -/
def State.arrival (s : State) : Option Arrival :=
  s.link.arrivals.find? (fun a => decide (a.key = s.resident.key ∧ a.peer = s.resident.peer ∧ a.errand = s.cur.errand))

def State.dropArrival (s : State) (tag : Nat) : State :=
  { s with link := { s.link with arrivals := s.link.arrivals.filter (fun a => a.tag != tag) } }

/-- PAIR of the launch of the current task (R366). -/
def State.pairOf (s : State) : BitVec 32 := ((s.launch s.resident.key.launch).map (·.pair)).getD 0

/-- BARARR with PDEV: one arrival is sent with PAIR, gang and cell, and the instruction waits for its answer; a launch
whose PAIR is 0 has no paired launch (R225, R366). -/
def State.arriveFar (s : State) (gd : GReg) (n : CellName) : Effect :=
  let absent : Effect := .raise (plainFault .peerAbsent 0)
  match s.arrival with
  | some a =>
    match a.answer with
    | none => .wait s .linkAcks
    | some (.phase p) => .retire ((s.dropArrival a.tag).setG gd (p.setWidth 64))
    | some .absent => raiseOnce s (plainFault .peerAbsent 0) (·.dropArrival a.tag)
    | some .uninitialised => raiseOnce s (plainFault .barrierCell 0) (·.dropArrival a.tag)
  | none =>
    if s.resident.spanned = false ∨ s.pairOf = 0 ∨ s.link.state ≠ .up then absent
    else
      afterDrain s true (fun s =>
        if !s.linkCarries then .wait s .linkAcks
        else .wait { s with link := { s.link.send s.ticks with
          arrivals := s.link.arrivals ++ [⟨s.link.nextTag, s.resident.key, s.resident.peer, s.cur.errand, s.pairOf,
            n.gang, n.cell, none⟩] } } .linkAcks)

/-- The gang that a BARARR arrives at; none raises PEER_ABSENT. -/
def State.arrivalGang (s : State) (n : CellName) : Option GangKey :=
  let r := s.resident
  if n.other = false ∨ n.gang = r.key.gang then some r.key
  else if s.gangCount r ≤ n.gang then none
  else
    match s.gang ⟨r.key.launch, n.gang⟩ with
    | some g => if s.allEnded g then none else some g.key
    | none => none

/-- BARARR (R225, R226). -/
def execBararr (gd gc : GReg) (sc : Scope) (s : State) : Host.Outcome State Fault Refusal :=
  issue (.bararr gd gc sc) s (fun s =>
    match cellName (s.g gc) true with
    | none => cellFault
    | some n =>
      if n.pdev then s.arriveFar gd n
      else
        match s.arrivalGang n with
        | none => .raise (plainFault .peerAbsent 0)
        | some k =>
          match s.cellPlace k n.cell with
          | none => cellFault
          | some p => s.arriveAt k p n.cell (wideScope sc) (fun s ph => .retire (s.setG gd (ph.setWidth 64))))

/-- The strand waits on a cell of its gang; it learns if the cell becomes uninitialised meanwhile (R44). -/
def State.waitCell (s : State) (n : Nat) : Effect :=
  .wait (s.setHere { s.here with barCell := some (Fin.ofNat 96 n) }) .barrier

/-- The wait on a cell is over. -/
def Core.leaveCell (k : Core) : Core := { k with barPhase := none, barCell := none, barLost := false }

/-- BARWAIT (R226). A wait whose cell became uninitialised ends in BARRIER_CELL, whatever the cell is now. -/
def execBarwait (gd gc gs : GReg) (sc : Scope) (s : State) : Host.Outcome State Fault Refusal :=
  issue (.barwait gd gc gs sc) s (fun s =>
    s.ownCell (s.g gc) (fun n _ c =>
      if c.expect = 0 ∨ s.here.barLost = true then cellFault
      else if c.phase = (s.g gs).setWidth 8 then s.waitCell n
      else .retire ((s.setHere s.here.leaveCell).setG gd (c.phase.setWidth 64))))

/-- The end or the going on of a BARSYNC that has arrived in a phase. -/
def State.syncWait (s : State) (gd : GReg) (n : Nat) (c : BarCell) (p : BitVec 8) : Effect :=
  if c.expect = 0 ∨ s.here.barLost = true then cellFault
  else if c.phase = p then s.waitCell n
  else .retire ((s.setHere s.here.leaveCell).setG gd (p.setWidth 64))

/-- BARSYNC (R226): one arrival, then the wait, which goes on where pre-emption interrupted it. -/
def execBarsync (gd gc : GReg) (sc : Scope) (s : State) : Host.Outcome State Fault Refusal :=
  issue (.barsync gd gc sc) s (fun s =>
    s.ownCell (s.g gc) (fun n p c =>
      match s.here.barPhase with
      | some ph => s.syncWait gd n c ph
      | none =>
        s.arriveAt s.resident.key p n (wideScope sc) (fun s ph =>
          let s := s.setHere { s.here with barPhase := some ph }
          s.syncWait gd n (s.cellAt p n) ph)))

/-! Arrivals from the peer device (R366). -/

/-- The launch paired with a launch of the peer device: the oldest of the context that carries its PAIR, has been taken
and has not completed (R366). -/
def State.pairedLaunch (s : State) (ctx : BitVec 12) (pair : BitVec 32) : Option Launch :=
  if pair = 0 then none
  else (s.sched.launches.filter (fun l => l.ctx == ctx && l.pair == pair)).foldl
    (fun best l => match best with
      | none => some l
      | some b => if l.id < b.id then some l else best) none

/-- The gang that an arrival from the peer device finds: placed, running or halted by pre-emption (R366). -/
def State.pairedGang (s : State) (k : PairedGang) : Option Gang :=
  match s.pairedLaunch k.origin.master.ctx k.pair with
  | none => none
  | some l =>
    if l.gangs ≤ k.gang then none
    else (s.gang ⟨l.id, k.gang⟩).filter (fun g => !s.allEnded g)

/-- What an arrival from the peer device comes to. -/
def State.arriveFromPeer (s : State) (id : LinkId) (g : Gang) (cell : Fin 96) : State :=
  match g.peers[cell.val % g.peers.length]? with
  | none => s.answer (.phase id .absent)
  | some p =>
    match s.takeArrival g.key p cell.val with
    | none => s.answer (.phase id .uninitialised)
    | some (s, ph) => s.answer (.phase id (.phase ph))

/-- BARRIER_ARRIVAL: an arrival over the link at a gang of the paired launch, once the link carries it (R365, R366). -/
def execBarrierArrival (k : PairedGang) (cell : Fin 96) (s : State) : Host.Outcome State Fault Refusal :=
  .next (if !s.linkReady then s
    else s.received (.arrival k cell) (fun s =>
      match s.pairedGang k with
      | none => s.answer (.phase ⟨k.origin, k.tag⟩ .absent)
      | some g => s.arriveFromPeer ⟨k.origin, k.tag⟩ g cell))

/-- PHASE_RESPONSE: the answer to an arrival of this device. -/
def execPhaseResponse (id : LinkId) (ans : PhaseAnswer) (s : State) : Host.Outcome State Fault Refusal :=
  .next { s with link := { s.link with
    arrivals := s.link.arrivals.map (fun a => if a.tag = id.tag ∧ a.answer = none then { a with answer := some ans } else a) } }

end Sys2Proof.Machine
end

