-- ==== Sys2Proof/Machine/Link.lean ====
section
/-! DEFINITION. The Oncel link: flits, transactions from the peer device, answers to this one's, and the loss and the
return of the link (R114, R120, R127, R132, R144, R152, R156, R157, R161, R217, R218, R358 to R366). Peer-device
memory is modelled as log entry 41 says. -/

namespace Sys2Proof.Machine

def State.mapLink (s : State) (f : Link → Link) : State := { s with link := f s.link }

/-! Flits (R360 to R362). -/

/-- Bits `hi` to `lo` of a flit header. -/
def flitBits (h : BitVec 96) (hi lo : Nat) : Nat := h.toNat / 2 ^ lo % 2 ^ (hi + 1 - lo)

def flitSeq (h : BitVec 96) : BitVec 12 := BitVec.ofNat 12 (flitBits h 95 84)
def flitAck (h : BitVec 96) : BitVec 12 := BitVec.ofNat 12 (flitBits h 83 72)
def flitKind (h : BitVec 96) : Nat := flitBits h 71 68
def flitCredit (h : BitVec 96) : Nat := flitBits h 67 56

/-- A flit that fails its CRC, or whose KIND or reserved bits are reserved values, is discarded (R360). -/
def flitBad (h : BitVec 96) (crcOk : Bool) : Bool := !crcOk || decide (3 < flitKind h) || decide (flitBits h 55 0 ≠ 0)

/-- `b` follows `a` by at most half the sequence space. -/
def seqCovers (ack seq : BitVec 12) : Bool := decide (0 < (ack - seq).toNat ∧ (ack - seq).toNat ≤ 2048)

/-- The ACK and CREDIT of an accepted header; what waited for a slot of the replay buffer goes out (R361). -/
def Link.takeHeader (l : Link) (h : BitVec 96) (tick : Nat) : Link :=
  Link.flush { l with
    replay := l.replay.filter (fun f => !seqCovers (flitAck h) f.seq)
    credit := l.credit + 64 * flitCredit h } tick

/-- A flit is discarded: one NAK is sent, whose ACK names the SEQ expected; none further until that is accepted (R361). -/
def Link.discard (l : Link) : Link := if l.nakSent then l else { l.emit 0 3 with nakSent := true }

/-- A sequenced flit: accepted in order, acknowledged by the next header, its bytes returned as credit, without those that
belong to a transaction split over a voided slot (R362); else discarded. -/
def Link.sequenced (l : Link) (h : BitVec 96) (payload : List Byte) (tick : Nat) : Link :=
  if flitSeq h ≠ l.expect then l.discard
  else
    { l.takeHeader h tick with
      expect := l.expect + 1, nakSent := false, received := l.received ++ payload.drop l.skip
      skip := l.skip - payload.length
      owed := (l.takeHeader h tick).owed + payload.length }.emit 0 0

/-- A flit arrives while the link is UP: discarded where it is bad, else dealt with by its KIND. -/
def State.flit (s : State) (h : BitVec 96) (crcOk : Bool) (kind : Nat) (f : Link → Link) : State :=
  if s.link.state ≠ .up then s
  else if flitBad h crcOk then s.mapLink Link.discard
  else if flitKind h = kind then s.mapLink f
  else s

/-- DATA: 228 bytes of transactions. -/
def execData (h : BitVec 96) (payload : List Byte) (crcOk : Bool) (s : State) : Host.Outcome State Fault Refusal :=
  .next (if payload.length = 228 then s.flit h crcOk 1 (fun l => l.sequenced h payload s.ticks) else s)

/-- The transactions of a voided slot are awaited from then on, and the other parts of those that were split over it are
discarded (R362). -/
def Link.await (l : Link) (h : VoidFlit) : Link :=
  { l with
    awaited := l.awaited ++ h.lost.map (⟨·, false⟩)
    received := l.received.take (l.received.length - h.before)
    skip := l.skip + h.after }

/-- VOID: accepted in sequence, and nothing is performed from it; what its slot had held comes again. -/
def execVoid (h : VoidFlit) (crcOk : Bool) (s : State) : Host.Outcome State Fault Refusal :=
  .next (s.flit h.header crcOk 2 (fun l =>
    let l' := l.sequenced h.header [] s.ticks
    if flitSeq h.header = l.expect then l'.await h else l'))

/-- An entry is read for sending again, in its old place: one whose ECC is uncorrectable is void from then on, and its
transactions come again in new flits (R362). -/
def Link.resend (l : Link) (tick : Nat) (f : Flit) : Link :=
  if f.kind = .data ∧ Config.replayBad tick f.seq.toNat = true then
    { l.emit f.seq FlitKind.void.code with
      replay := l.replay.map (fun g => if g.seq = f.seq then { g with kind := .void, payload := [] } else g)
      unsent := l.unsent ++ l.again f.payload }
  else l.emit f.seq f.kind.code

/-- NAK: everything from the named SEQ on is sent again, in order. -/
def Link.nak (l : Link) (h : BitVec 96) (tick : Nat) : Link :=
  let l := { l with
    replay := l.replay.filter (fun f => !seqCovers (flitAck h) f.seq)
    credit := l.credit + 64 * flitCredit h
    resendFrom := some (flitAck h) }
  (l.replay.foldl (fun l f => l.resend tick f) l).flush tick

def execNak (h : BitVec 96) (crcOk : Bool) (s : State) : Host.Outcome State Fault Refusal :=
  .next (s.flit h crcOk 3 (fun l => l.nak h s.ticks))

/-- IDLE: acknowledgements and credit only. -/
def execIdle (h : BitVec 96) (crcOk : Bool) (s : State) : Host.Outcome State Fault Refusal :=
  .next (s.flit h crcOk 0 (fun l => l.takeHeader h s.ticks))

/-! Transactions from the peer device (R363). -/

/-- Device memory inside one 128-byte line. -/
def inLine (pa n : Nat) : Bool := decide (memType pa = .device ∧ 0 < n ∧ pa / 128 = (pa + n - 1) / 128)

/-- A read at its home. -/
def State.linkRead (s : State) (m : Master) (pa len : Nat) (id : LinkId) : State :=
  if !s.granted m pa .read then (s.logDenied m pa .read).answer (.denied id)
  else if (s.badLine pa len).isSome then s.answer (.denied id)
  else s.answer (.bytes id (s.readPhys pa len))

/-- READ. -/
def execRead (m : Origin) (pa len tag : Nat) (s : State) : Host.Outcome State Fault Refusal :=
  .next (if !s.linkReady || !inLine pa len then s
    else s.received (.read m pa len tag) (·.linkRead m.master pa len ⟨m, tag⟩))

/-- The rights that a transaction needs at its home: a write; a read too where it adds or is an atomic (R136, R316). -/
def HomeOp.rights : HomeOp → List Right
  | .copy .copy => [.write]
  | _ => [.read, .write]

/-- The first right that a home does not grant. -/
def State.lackedRight (s : State) (m : Master) (pa : Nat) (op : HomeOp) : Option Right :=
  op.rights.find? (fun r => !s.granted m pa r)

/-- The tag of a release of the peer device (R132). -/
def awayTag (rel : Option Scope) (c : CoreId) : Option ScopeTag := rel.map (fun sc => ⟨sc, some c, true⟩)

/-- The log entry of a part that a table denies; a frozen frame's part has none. -/
def State.logPart (s : State) (m : Master) (pa : Nat) (op : HomeOp) : State :=
  match s.lackedRight m pa op with
  | some r => s.logDenied m pa r
  | none => s

/-- How many freeze events of this device over a frame the peer device has still to acknowledge: its cores may have checked
a write before they applied them (R152). -/
def State.peerOwes (s : State) (f : Nat) : Nat := (s.frz.ops.filter (fun o => o.peerWait && o.frames.contains f)).length

/-- A part of a transaction may be performed at its home: granted, and not in a frame whose freezing the peer device has
acknowledged. What comes before that acknowledgement passed its check before the freeze and precedes the freeze point (R152,
R161). -/
def State.partAllowed (s : State) (m : Master) (pa : Nat) (op : HomeOp) : Bool :=
  (s.lackedRight m pa op).isNone && decide ((s.attrAt pa).fcount ≤ s.peerOwes (frameOf pa))

/-- The parts of a transaction at their homes: each is decided on its own; one that is not allowed is dropped, and the
transaction answered as denied. The acknowledgement comes with the last part, those that wait for a sweep after the
others. -/
def State.linkParts (s : State) (m : Master) (parts : List (Nat × List Byte)) (op : HomeOp) (rel : Option ScopeTag)
    (id : LinkId) : State :=
  let ok := parts.filter (fun p => s.partAllowed m p.1 op)
  let all := decide (ok.length = parts.length)
  let ps := ok.filter (fun p => !(s.attrAt p.1).sweep) ++ ok.filter (fun p => (s.attrAt p.1).sweep)
  let s := parts.foldl (fun s p => s.logPart m p.1 op) s
  let ack (i : Nat) : Option LinkId := if all && decide (i + 1 = ps.length) then some id else none
  let s := (ps.zipIdx).foldl (fun s p => s.acceptHome ⟨p.1.1, p.1.2, op, some m, rel, ack p.2, none⟩) s
  if !all then s.answer (.denied id) else if ps.isEmpty then s.answer (.ack id) else s

/-- The runs of enabled bytes of a write, from place `i` on. -/
def enabledRuns : Nat → List (Option Byte) → List (Nat × List Byte)
  | _, [] => []
  | i, none :: l => enabledRuns (i + 1) l
  | i, some b :: l =>
    match enabledRuns (i + 1) l with
    | (j, bs) :: rest => if j = i + 1 then (i, b :: bs) :: rest else (i, [b]) :: (j, bs) :: rest
    | [] => [(i, [b])]

/-- WRITE: up to 128 bytes of one line, with byte enables. -/
def execWrite (m : Origin) (pa : Nat) (bytes : List (Option Byte)) (rel : Option Scope) (tag : Nat) (s : State) :
    Host.Outcome State Fault Refusal :=
  .next (if !s.linkReady || !inLine pa bytes.length then s
    else s.received (.write m pa bytes rel tag) (fun s =>
      s.linkParts m.master ((enabledRuns 0 bytes).map (fun r => (pa + r.1, r.2))) (.copy .copy) (awayTag rel m.core) ⟨m, tag⟩))

/-- An atomic at its home: one step (R127), after an open sweep (R157). -/
def State.linkAtomic (s : State) (m : Origin) (h : HomeOp) (pa k : Nat) (rel : Option Scope) (tag : Nat) : State :=
  if !s.partAllowed m.master pa h then (s.logPart m.master pa h).answer (.denied ⟨m, tag⟩)
  else if (s.badLine pa k).isSome then s.answer (.denied ⟨m, tag⟩)
  else s.acceptHome ⟨pa, List.replicate k 0, h, some m.master, awayTag rel m.core, some ⟨m, tag⟩, none⟩

/-- ATOMIC. -/
def execAtomic (m : Origin) (op : AOp) (n : Size3) (pa : Nat) (src cmp : BitVec 128) (rel : Option Scope) (tag : Nat)
    (s : State) : Host.Outcome State Fault Refusal :=
  let k := size3Bytes n
  let h : HomeOp := .atomic op (src.toNat % 2 ^ (8 * k)) (cmp.toNat % 2 ^ (8 * k))
  .next (if !s.linkReady || !inLine pa k || decide (pa % k ≠ 0) then s
    else s.received (.atomic m op n pa src cmp rel tag) (·.linkAtomic m h pa k rel tag))

/-- Bytes, or elements to add, at a local store: a streamer write. A gang that is not resident, or has retired, takes none
(R29, R33). -/
def State.linkStore (s : State) (k : GangKey) (peer off : Nat) (bs : List Byte) (form : CopyForm) (id : LinkId) :
    State :=
  match s.peerAt k peer, s.retired k with
  | .core c, false =>
    if off + bs.length ≤ 0xA_0000 then
      (s.mapCore c (fun x => x.writeLocal off (reduceBytes form (x.readLocal off bs.length) bs) true)).answer (.ack id)
    else s.answer (.denied id)
  | _, _ => s.answer (.denied id)

/-- Bytes for a target: device memory line by line, or a local store. -/
def State.linkBytes (s : State) (m : Master) (t : LinkTarget) (bs : List Byte) (form : CopyForm) (id : LinkId) : State :=
  match t with
  | .home pa =>
    if pa + bs.length ≤ 0x80_0000_0000 then
      s.linkParts m ((cutAt pa bs.length 128).map (fun p => (pa + p.1, (bs.drop p.1).take p.2))) (.copy form) none id
    else s
  | .store k p off => s.linkStore k p off bs form id

/-- COPY_WRITE: at most 256 bytes. -/
def execCopyWrite (m : Origin) (t : LinkTarget) (bytes : List Byte) (tag : Nat) (s : State) :
    Host.Outcome State Fault Refusal :=
  .next (if !s.linkReady || decide (256 < bytes.length) then s
    else s.received (.copyWrite m t bytes tag) (·.linkBytes m.master t bytes .copy ⟨m, tag⟩))

/-- The elements of a reduce-write as FP32 or BF16 codes: a .LOSSY element is widened exactly. -/
def reduceElems (bf16 lossy : Bool) (es : List (BitVec 32)) : List Byte :=
  es.flatMap (fun e =>
    if bf16 then natLe 2 (e.toNat % 2 ^ 16)
    else if lossy then natLe 4 (convert .bf16 .fp32 (e.toNat % 2 ^ 16) .rne false)
    else natLe 4 e.toNat)

/-- An element-aligned target of a reduce-write. -/
def linkAligned (t : LinkTarget) (n : Nat) : Bool :=
  match t with
  | .home a | .store _ _ a => decide (a % n = 0)

/-- REDUCE_WRITE: each element is added by one atomic (R136, R218). -/
def execReduceWrite (m : Origin) (t : LinkTarget) (bf16 lossy : Bool) (elems : List (BitVec 32)) (tag : Nat) (s : State) :
    Host.Outcome State Fault Refusal :=
  let form : CopyForm := if bf16 then .bf16 else .fp32
  .next (if !s.linkReady || !linkAligned t (formSize form) then s
    else s.received (.reduceWrite m t bf16 lossy elems tag) (·.linkBytes m.master t (reduceElems bf16 lossy elems) form ⟨m, tag⟩))

/-- A kept transaction is performed by the step of its kind. -/
def runTransaction (x : LinkTransaction) (s : State) : Host.Outcome State Fault Refusal :=
  match x with
  | .read m pa len tag => execRead m pa len tag s
  | .write m pa bytes rel tag => execWrite m pa bytes rel tag s
  | .atomic m op n pa src cmp rel tag => execAtomic m op n pa src cmp rel tag s
  | .copyWrite m t bytes tag => execCopyWrite m t bytes tag s
  | .reduceWrite m t bf16 lossy elems tag => execReduceWrite m t bf16 lossy elems tag s
  | .freeze m tag frames => execFreezeEvent (.peer m tag frames) s
  | .sweep m tag frames => execThawSweep (.peer m tag) frames s
  | .arrival k cell => execBarrierArrival k cell s

/-- What waits at the receiver goes on where nothing holds it any more (R33, R362). -/
def takeKept (s : State) : Host.Outcome State Fault Refusal :=
  match s.nextKept with
  | some x => runTransaction x (s.unkeep x)
  | none => .next s

/-! Answers of the peer device (R364). -/

/-- Bytes of peer-device memory as the peer device has them. -/
def State.learnPeer (s : State) (pa : Nat) (bs : List Byte) : State :=
  if memType pa = .peer ∧ memType (pa + bs.length) = .peer ∧ s.link.state = .up then s.pokePhys pa bs else s

/-- READ_RESPONSE: at most 128 bytes of one line. -/
def execReadResponse (r : ResponseFor) (bytes : List Byte) (s : State) : Host.Outcome State Fault Refusal :=
  .next (if bytes.length ≤ 128 then s.learnPeer r.pa bytes else s)

/-- ATOMIC_RESPONSE: the old value at the peer's home. -/
def execAtomicResponse (r : ResponseFor) (n : Size3) (old : BitVec 128) (s : State) : Host.Outcome State Fault Refusal :=
  .next (s.learnPeer r.pa (natLe (size3Bytes n) (old.toNat % 2 ^ (8 * size3Bytes n))))

/-- WRITE_ACKNOWLEDGEMENT: the write is performed at the peer's home and is no longer at risk; what follows it follows: its
vector (R353), and the scheduler's releases after it (R364). -/
def execWriteAcknowledgement (id : LinkId) (s : State) : Host.Outcome State Fault Refusal :=
  .next (match s.link.unacked.find? (fun u => u.tag == id.tag) with
    | none => s
    | some u =>
      let earlier := s.link.unacked.takeWhile (fun v => v.tag != id.tag)
      if earlier.any (fun v => decide (v.pa < u.pa + u.bytes.length ∧ u.pa < v.pa + v.bytes.length)) then s
      else
        let s := (s.pokePhys u.pa u.bytes).mapLink (fun l => { l with unacked := l.unacked.filter (fun v => v.tag != id.tag) })
        (s.notify u.notify).flushOutbox)

/-! Loss and return (R152, R156, R365). -/

def LinkState.code : LinkState → Nat
  | .down => 0 | .training => 1 | .up => 2

/-- The entry of the event log for a change of the link's state. R375 leaves the layout of doublewords 1 to 3 to the entry:
DESIGN CHOICE, doubleword 1 holds the new state, 0 for DOWN, 1 for TRAINING, 2 for UP (log entry 117). -/
def linkEntry (st : LinkState) : Word × Word × Word × Word := otherEntry (BitVec.ofNat 64 st.code) 0 0

/-- The link changes state: vector 65, and a log entry (R358, R375). -/
def State.linkChanged (s : State) (st : LinkState) : State :=
  ((s.mapLink (fun l => { l with state := st })).raiseVector 65).appendLog (linkEntry st)

/-- The retired writes of a core that the peer device has not acknowledged, by place in the core's order and address:
those sent, and those with parts still to send. -/
def Core.unackedWrites (k : Core) (sent : List Sent) : List (Nat × Word) :=
  (sent.map (fun u => (u.write, u.va))
    ++ (k.writes.filter (fun w => w.segs.any Seg.overLink)).map (fun w => (w.seq, w.va))).eraseDups

/-- They are dropped, and each is raised once at its task (R322, R365). -/
def Core.loseWrites (k : Core) (sent : List Sent) : Core :=
  let lost := k.unackedWrites sent
  let left := k.writes.map (fun w => { w with segs := w.segs.filter (fun g => !g.overLink) })
  { lost.foldl (fun k w => k.defer .peerAbsent w.2) k with writes := left.filter (fun w => !w.segs.isEmpty) }

/-- The vectors that were to follow writes of the scheduler over the link (log entry 96). -/
def State.lostNotices (s : State) : List Nat :=
  s.link.unacked.filterMap (·.notify) ++ (s.sched.outbox.filter HomeWrite.overLink).filterMap (·.notify)

/-- What was sent and is not acknowledged is dropped, the scheduler's writes too; its releases that waited for them go on
(R364, R365). -/
def State.loseWrites (s : State) : State :=
  let sent (c : CoreId) : List Sent := s.link.unacked.filter (fun u => u.core == some c)
  (s.lostNotices.foldl State.raiseVector
    { s with
      cores := Vector.ofFn (fun c => (s.core c).loseWrites (sent c))
      sched := { s.sched with outbox := s.sched.outbox.filter (fun w => !w.overLink) }
      link := { s.link with unacked := [] } }).flushOutbox

/-- Arrivals without an answer give PEER_ABSENT. -/
def Link.loseArrivals (l : Link) : Link :=
  { l with arrivals := l.arrivals.map (fun a => if a.answer.isNone then { a with answer := some .absent } else a) }

/-- The link's sender and receiver start anew. -/
def Link.restart (l : Link) : Link :=
  { l with nextSeq := 0, expect := 0, replay := [], resendFrom := none, nakSent := false, credit := 0, owed := 0
           unsent := [], wire := [], received := [], skip := 0, refreeze := [], awaited := [], kept := [] }

/-- The peer device counts as having acknowledged, its own freeze events end, and its F lines are dropped. -/
def State.losePeer (s : State) : State :=
  let s := s.setFrz { s.frz with
    foreign := []
    ops := (s.frz.ops.filter (fun o => o.foreign.isNone)).map (fun o => { o with peerWait := false })
    sweeps := s.frz.sweeps.map (fun w => { w with
      toDrop := w.toDrop.filter (fun d => d != .peer), toAck := w.toAck.filter (fun d => d != .peer) }) }
  let s := { s with mem := { s.mem with fLines := s.mem.fLines.filter (fun x => decide (memType (x.2.1 * 128) ≠ MemType.peer)) } }
  s.closeSweeps.endFreezes

/-- LINK_DOWN: a lane fails or the link is lost (R359); where it was UP, what R365 lists happens. -/
def execLinkDown (s : State) : Host.Outcome State Fault Refusal :=
  .next (match s.link.state with
    | .down => s
    | .training => s.linkChanged .down
    | .up => ((s.mapLink (fun l => { l.loseArrivals.restart with state := .down })).loseWrites.losePeer).linkChanged .down)

/-- TRAINING is tried from DOWN (R359). -/
def State.startTraining (s : State) : State := if s.link.state = .down then s.linkChanged .training else s

/-- The frames with FCOUNT above 0. -/
def State.frozenFrames (s : State) : List Nat := (s.mem.frames.filter (fun p => decide (0 < p.2.fcount))).map (·.1)

/-- A freeze event for one frame, which the peer device alone is to acknowledge. -/
def peerEvent (id frame : Nat) : FreezeOp := ⟨id, none, 0, none, [frame], [], [], true⟩

/-- LINK_UP: training completes; a freeze event for every frozen frame goes first. -/
def execLinkUp (s : State) : Host.Outcome State Fault Refusal :=
  .next (if s.link.state ≠ .training then s
    else
      let events := s.frozenFrames.zipIdx.map (fun f => peerEvent (s.frz.nextId + f.2) f.1)
      let s := (s.mapLink (fun l => { l with refreeze := events.map (·.id) })).linkChanged .up
      (s.sendLines events.length).setFrz { s.frz with
        nextId := s.frz.nextId + events.length
        ops := s.frz.ops ++ events })

end Sys2Proof.Machine
end

