-- ==== Sys2Proof/Machine/Matrix.lean ====
section
/-! DEFINITION. Tile register forms, TMMA and the register-only accumulator forms (R64, R65, R241 to R248, R294). -/

namespace Sys2Proof.Machine

def execTzmask (gd : GReg) (ts : TReg) (s : State) : Host.Outcome State Fault Refusal :=
  issue (.tzmask gd ts) s (fun s => .retire (s.setG gd (s.tile ts).zeroRows))

def execTmov (td ts : TReg) (s : State) : Host.Outcome State Fault Refusal :=
  issue (.tmov td ts) s (fun s => .retire (s.setTile td (s.tile ts)))

def execTzero (td : TReg) (s : State) : Host.Outcome State Fault Refusal :=
  issue (.tzero td) s (fun s => .retire (s.setTile td Tile.zero))

/-- The element values of every row of an operand. -/
def Tile.values (t : Tile) (ty : Ty) : List (List Val) :=
  (List.finRange 64).map (fun i => rowValues ty t.rows[i] t.side[i])

/-- The new code of one element of TMMA (R102, R104). -/
def tmmaCode (tya : Ty) (c : Nat) (a b : List Val) (ba bb : List Nat) : Nat :=
  if tya = .i8 then tmmaI32 c ba bb else tmmaFp32 c a b

/-- A row pair whose products a TMMA may omit (R65). -/
def mayOmit (ty : Ty) (zero : Bool) (old new : Nat) (a b : List Val) : Bool :=
  zero && old == new && (ty == .i8 || old != 0x8000_0000) && a.all Val.finite && b.all Val.finite

/-- TMMA of R243. Rows omitted change no result; how many are is free, and only the counters show it. -/
def execTmma (ad : AReg) (ta tb : TReg) (tya tyb : Ty) (mr mc : MReg) (s : State) : Host.Outcome State Fault Refusal :=
  issue (.tmma ad ta tb tya tyb mr mc) s (fun s =>
    let a := (s.tile ta).values tya
    let b := (s.tile tb).values tyb
    let bytes (t : Tile) (i : Fin 64) : List Nat := rowCodes .i8 t.rows[i]
    let new := accMerge (s.acc ad) (s.mask mr) (s.mask mc) (fun i =>
      (List.finRange 64).map (fun j =>
        tmmaCode tya (accCode (s.acc ad) i j) (a.getD i.val []) (b.getD j.val [])
          (bytes (s.tile ta) i) (bytes (s.tile tb) j)))
    let pairs := (selectedRows (s.mask mr)).flatMap (fun i => (selectedRows (s.mask mc)).map (fun j => (i, j)))
    let zero (p : Fin 64 × Fin 64) : Bool := (s.tile ta).rows[p.1] == 0 || (s.tile tb).rows[p.2] == 0
    let zeros := (pairs.filter zero).length
    let omissible := (pairs.filter (fun p => mayOmit tya (zero p) (accCode (s.acc ad) p.1 p.2) (accCode new p.1 p.2)
      (a.getD p.1.val []) (b.getD p.2.val []))).length
    let skipped := Config.rowsSkipped s.ticks % (omissible + 1)
    let k := (s.setAcc ad new).here
    let cs := k.counters
    let cs := cs.set 3 (cs[3] + BitVec.ofNat 64 skipped)
    let cs := cs.set 4 (cs[4] + BitVec.ofNat 64 (zeros - skipped))
    .retire (s.setHere { k with counters := cs.set 5 (cs[5] + 1) }))

def execAzero (ad : AReg) (mr mc : MReg) (s : State) : Host.Outcome State Fault Refusal :=
  issue (.azero ad mr mc) s (fun s =>
    .retire (s.setAcc ad (accMerge (s.acc ad) (s.mask mr) (s.mask mc) (fun _ => List.replicate 64 0))))

def execAmov (ad as : AReg) (mr mc : MReg) (s : State) : Host.Outcome State Fault Refusal :=
  issue (.amov ad as mr mc) s (fun s =>
    .retire (s.setAcc ad (accMerge (s.acc ad) (s.mask mr) (s.mask mc) (fun i => accCodes (s.acc as)[i]))))

/-- AADD of an accumulator element (R245). -/
def accAdd (ty : Ty) (a b : Nat) : Nat :=
  if ty = .i32 then intCode 32 true (twos 32 a + twos 32 b) else codeAdd .fp32 .rne false a b

def execAaddAccumulator (ad as : AReg) (ty : Ty) (mr mc : MReg) (s : State) : Host.Outcome State Fault Refusal :=
  issue (.aaddAccumulator ad as ty mr mc) s (fun s =>
    .retire (s.setAcc ad (accMerge (s.acc ad) (s.mask mr) (s.mask mc) (fun i =>
      List.zipWith (accAdd ty) (accCodes (s.acc ad)[i]) (accCodes (s.acc as)[i])))))

/-- An element of ACVT to an unscaled type (R247). -/
def acvtCode (ty : Ty) (rm : Round) (sat : Bool) (c : Nat) : Nat :=
  match ty with
  | .i8 => intCode 8 true (twos 32 c)
  | .i32 => c
  | _ => convert .fp32 (Ty.fmt ty) c rm sat

def execAcvt (td : TReg) (as : AReg) (ty : Ty) (rm : Round) (sat : Bool) (h : Fin 8) (mr mc : MReg) (s : State) :
    Host.Outcome State Fault Refusal :=
  issue (.acvt td as ty rm sat h mr mc) s (fun s =>
    let at_ := 64 * h.val
    .retire (s.setTile td (((s.tile td).merge ty (s.mask mr) (fun i =>
      let old := (s.tile td).rows[i]
      let src := accCodes (s.acc as)[i]
      if Ty.scaled ty then
        writeBlocks ty old (s.tile td).side[i] at_ (src.map Fmt.fp32.value) (fun _ vs => chooseScale ty vs) rm true
      else
        let kept := (rowCodes ty old).drop at_
        let new := (src.zip kept).mapIdx (fun j p => if (s.mask mc).getLsbD j then acvtCode ty rm sat p.1 else p.2)
        (rowOf ty (splice (rowCodes ty old) at_ new), 0))).asType ty)))

/-- An element of AFROM (R248). -/
def afromCode (ty : Ty) (c : Nat) : Nat :=
  match ty with
  | .bf16 | .fp16 => convert (Ty.fmt ty) .fp32 c .rne false
  | _ => c

def execAfrom (ad : AReg) (ts : TReg) (ty : Ty) (h : Fin 8) (mr mc : MReg) (s : State) :
    Host.Outcome State Fault Refusal :=
  issue (.afrom ad ts ty h mr mc) s (fun s =>
    .retire (s.setAcc ad (accMerge (s.acc ad) (s.mask mr) (s.mask mc) (fun i =>
      (((rowCodes ty (s.tile ts).rows[i]).drop (64 * h.val)).take 64).map (afromCode ty)))))

end Sys2Proof.Machine
end

