-- ==== Sys2Proof/Machine/Crypto.lean ====
section
/-! DEFINITION. SHA-512 and the verification of ECDSA P-521 signatures. R370 to R374 name both and print neither:
PRESUMED, they are those of FIPS 180-4, FIPS 186-5 and SP 800-186 (log entry 16). -/

namespace Sys2Proof.Machine

/-! SHA-512. -/

/-- The round constants. -/
def shaK : List Word :=
  [0x428A_2F98_D728_AE22, 0x7137_4491_23EF_65CD, 0xB5C0_FBCF_EC4D_3B2F, 0xE9B5_DBA5_8189_DBBC,
    0x3956_C25B_F348_B538, 0x59F1_11F1_B605_D019, 0x923F_82A4_AF19_4F9B, 0xAB1C_5ED5_DA6D_8118,
    0xD807_AA98_A303_0242, 0x1283_5B01_4570_6FBE, 0x2431_85BE_4EE4_B28C, 0x550C_7DC3_D5FF_B4E2,
    0x72BE_5D74_F27B_896F, 0x80DE_B1FE_3B16_96B1, 0x9BDC_06A7_25C7_1235, 0xC19B_F174_CF69_2694]
  ++ [0xE49B_69C1_9EF1_4AD2, 0xEFBE_4786_384F_25E3, 0x0FC1_9DC6_8B8C_D5B5, 0x240C_A1CC_77AC_9C65,
    0x2DE9_2C6F_592B_0275, 0x4A74_84AA_6EA6_E483, 0x5CB0_A9DC_BD41_FBD4, 0x76F9_88DA_8311_53B5,
    0x983E_5152_EE66_DFAB, 0xA831_C66D_2DB4_3210, 0xB003_27C8_98FB_213F, 0xBF59_7FC7_BEEF_0EE4,
    0xC6E0_0BF3_3DA8_8FC2, 0xD5A7_9147_930A_A725, 0x06CA_6351_E003_826F, 0x1429_2967_0A0E_6E70]
  ++ [0x27B7_0A85_46D2_2FFC, 0x2E1B_2138_5C26_C926, 0x4D2C_6DFC_5AC4_2AED, 0x5338_0D13_9D95_B3DF,
    0x650A_7354_8BAF_63DE, 0x766A_0ABB_3C77_B2A8, 0x81C2_C92E_47ED_AEE6, 0x9272_2C85_1482_353B,
    0xA2BF_E8A1_4CF1_0364, 0xA81A_664B_BC42_3001, 0xC24B_8B70_D0F8_9791, 0xC76C_51A3_0654_BE30,
    0xD192_E819_D6EF_5218, 0xD699_0624_5565_A910, 0xF40E_3585_5771_202A, 0x106A_A070_32BB_D1B8]
  ++ [0x19A4_C116_B8D2_D0C8, 0x1E37_6C08_5141_AB53, 0x2748_774C_DF8E_EB99, 0x34B0_BCB5_E19B_48A8,
    0x391C_0CB3_C5C9_5A63, 0x4ED8_AA4A_E341_8ACB, 0x5B9C_CA4F_7763_E373, 0x682E_6FF3_D6B2_B8A3,
    0x748F_82EE_5DEF_B2FC, 0x78A5_636F_4317_2F60, 0x84C8_7814_A1F0_AB72, 0x8CC7_0208_1A64_39EC,
    0x90BE_FFFA_2363_1E28, 0xA450_6CEB_DE82_BDE9, 0xBEF9_A3F7_B2C6_7915, 0xC671_78F2_E372_532B]
  ++ [0xCA27_3ECE_EA26_619C, 0xD186_B8C7_21C0_C207, 0xEADA_7DD6_CDE0_EB1E, 0xF57D_4F7F_EE6E_D178,
    0x06F0_67AA_7217_6FBA, 0x0A63_7DC5_A2C8_98A6, 0x113F_9804_BEF9_0DAE, 0x1B71_0B35_131C_471B,
    0x28DB_77F5_2304_7D84, 0x32CA_AB7B_40C7_2493, 0x3C9E_BE0A_15C9_BEBC, 0x431D_67C4_9C10_0D4C,
    0x4CC5_D4BE_CB3E_42B6, 0x597F_299C_FC65_7E2A, 0x5FCB_6FAB_3AD6_FAEC, 0x6C44_198C_4A47_5817]

/-- The first hash value. -/
def shaStart : Vector Word 8 :=
  #v[0x6A09_E667_F3BC_C908, 0xBB67_AE85_84CA_A73B, 0x3C6E_F372_FE94_F82B, 0xA54F_F53A_5F1D_36F1,
    0x510E_527F_ADE6_82D1, 0x9B05_688C_2B3E_6C1F, 0x1F83_D9AB_FB41_BD6B, 0x5BE0_CD19_137E_2179]

/-- A message with its padding: a one bit, zeros, and its length in bits. -/
def shaPad (m : List Byte) : List Byte :=
  m ++ [0x80] ++ List.replicate ((239 - m.length % 128) % 128) 0 ++ (natLe 16 (8 * m.length)).reverse

/-- Big-endian doublewords of some bytes; `n` of them. -/
def beWords : Nat → List Byte → List Word
  | 0, _ => []
  | n + 1, bs => wordOf (bs.take 8).reverse :: beWords n (bs.drop 8)

/-- The message schedule, newest word first: `n` words more. -/
def shaSchedule : Nat → List Word → List Word
  | 0, w => w
  | n + 1, w =>
    let a := w.getD 1 0
    let b := w.getD 14 0
    shaSchedule n ((((a.rotateRight 19) ^^^ (a.rotateRight 61) ^^^ (a >>> 6)) + w.getD 6 0
      + ((b.rotateRight 1) ^^^ (b.rotateRight 8) ^^^ (b >>> 7)) + w.getD 15 0) :: w)

/-- One round with a constant and a schedule word. -/
def shaRound (v : Vector Word 8) (kw : Word × Word) : Vector Word 8 :=
  let e := v[4]
  let a := v[0]
  let t1 := v[7] + ((e.rotateRight 14) ^^^ (e.rotateRight 18) ^^^ (e.rotateRight 41))
    + ((e &&& v[5]) ^^^ (~~~e &&& v[6])) + kw.1 + kw.2
  let t2 := ((a.rotateRight 28) ^^^ (a.rotateRight 34) ^^^ (a.rotateRight 39))
    + ((a &&& v[1]) ^^^ (a &&& v[2]) ^^^ (v[1] &&& v[2]))
  #v[t1 + t2, a, v[1], v[2], v[3] + t1, e, v[5], v[6]]

/-- One block of 128 bytes. -/
def shaBlock (h : Vector Word 8) (block : List Byte) : Vector Word 8 :=
  let w := (shaSchedule 64 (beWords 16 block).reverse).reverse
  let v := (shaK.zip w).foldl shaRound h
  Vector.ofFn (fun i => h[i] + v[i])

/-- SHA-512; the digest's first byte is the most significant. -/
def sha512 (m : List Byte) : BitVec 512 :=
  let p := shaPad m
  let h := (List.range (p.length / 128)).foldl (fun h i => shaBlock h ((p.drop (128 * i)).take 128)) shaStart
  BitVec.ofNat 512 (h.toList.foldl (fun a w => a * 2 ^ 64 + w.toNat) 0)

/-! ECDSA over P-521. -/

/-- The field's prime, the order of the group, the coefficient b, and the base point. -/
def p521P : Nat := 2 ^ 521 - 1
def p521N : Nat :=
  0x1FFFFFFFFFFFFFFFFFFFFFFFFFFFFFFFFFFFFFFFFFFFFFFFFFFFFFFFFFFFFFFFFFA51868783BF2F966B7FCC0148F709A5D03BB5C9B8899C47AEBB6FB71E91386409
def p521B : Nat :=
  0x51953EB9618E1C9A1F929A21A0B68540EEA2DA725B99B315F3B8B489918EF109E156193951EC7E937B1652C0BD3BB1BF073573DF883D2C34F1EF451FD46B503F00
def p521G : Nat × Nat :=
  (0xC6858E06B70404E9CD9E3ECB662395B4429C648139053FB521F828AF606B4D3DBAA14B5E77EFE75928FE1DC127A2FFA8DE3348B3C1856A429BF97E7E31C2E5BD66,
    0x11839296A789A3BC0045C8A5FB42C7D1BD998F54449579B446817AFBD17273E662C97EE72995EF42640C550B9013FAD0761353C7086A272C24088BE94769FD16650)

/-- A power modulo `m`; `fuel` bounds the bits of the exponent. -/
def powMod (m : Nat) : Nat → Nat → Nat → Nat
  | 0, _, _ => 1
  | fuel + 1, x, e => (if e % 2 = 1 then x else 1) * powMod m fuel (x * x % m) (e / 2) % m

/-- The inverse modulo a prime. -/
def invMod (m x : Nat) : Nat := powMod m 521 (x % m) (m - 2)

/-- A difference modulo `m`. -/
def subMod (m a b : Nat) : Nat := (a % m + (m - b % m)) % m

/-- The point on the line of slope `l` through two points. -/
def onLine (l : Nat) (x1 y1 x2 : Nat) : Nat × Nat :=
  let x := subMod p521P (l * l) (x1 + x2)
  (x, subMod p521P (l * subMod p521P x1 x) y1)

/-- The sum of two points; none is the point at infinity. -/
def addPoint : Option (Nat × Nat) → Option (Nat × Nat) → Option (Nat × Nat)
  | none, b => b
  | a, none => a
  | some (x1, y1), some (x2, y2) =>
    if x1 = x2 then
      if (y1 + y2) % p521P = 0 then none
      else some (onLine (subMod p521P (3 * (x1 * x1)) 3 * invMod p521P (2 * y1) % p521P) x1 y1 x2)
    else some (onLine (subMod p521P y2 y1 * invMod p521P (subMod p521P x2 x1) % p521P) x1 y1 x2)

/-- A multiple of a point; `fuel` bounds the bits of the factor. -/
def mulPoint : Nat → Nat → Option (Nat × Nat) → Option (Nat × Nat)
  | 0, _, _ => none
  | fuel + 1, k, a => addPoint (if k % 2 = 1 then a else none) (mulPoint fuel (k / 2) (addPoint a a))

/-- A big-endian number. -/
def beNat (bs : List Byte) : Nat := leNat bs.reverse

/-- The point of an uncompressed SEC1 encoding, when it is one of the curve. -/
def publicPoint (key : List Byte) : Option (Nat × Nat) :=
  let x := beNat ((key.drop 1).take 66)
  let y := beNat ((key.drop 67).take 66)
  if key.length = 133 ∧ key.getD 0 0 = 4 ∧ x < p521P ∧ y < p521P
      ∧ y * y % p521P = (subMod p521P (x * x * x) (3 * x) + p521B) % p521P then some (x, y)
  else none

/-- ECDSA P-521 verification of a SHA-512 digest: the signature is r and s, 66 big-endian bytes each. -/
def ecdsaVerify (key : List Byte) (digest : BitVec 512) (sig : List Byte) : Bool :=
  let r := beNat (sig.take 66)
  let s := beNat ((sig.drop 66).take 66)
  match publicPoint key with
  | none => false
  | some q =>
    let w := invMod p521N s
    decide (sig.length = 132 ∧ 1 ≤ r ∧ r < p521N ∧ 1 ≤ s ∧ s < p521N)
      && (match addPoint (mulPoint 521 (digest.toNat * w % p521N) (some p521G)) (mulPoint 521 (r * w % p521N) (some q)) with
          | none => false
          | some a => decide (a.1 % p521N = r))

end Sys2Proof.Machine
end

