-- ==== Sys2Proof/Machine/Mgmt.lean ====
section
/-! DEFINITION. The management processor: mailbox commands, boot, CONFIG, attestation, lifecycle and reset (R142, R290,
R316, R320, R338, R356, R366 to R379). -/

namespace Sys2Proof.Machine

def State.setMgmt (s : State) (m : Mgmt) : State := { s with mgmt := m }

/-- A command ends with a RESULT. -/
def State.finish (s : State) (result : Nat) : State := s.setMgmt (s.mgmt.finish result)

/-- A command runs when its GO stands; outside its states it gives RESULT 1 and changes nothing (R368). -/
def State.command (s : State) (op : Nat) (states : List BootState) (body : State) : State :=
  if s.mgmt.go && decide (s.mgmt.running.toNat = op) then
    (if states.contains s.mgmt.state then body else s.finish 1)
  else s

def bootStates : List BootState := [.awaitBundle, .bootFail]

/-! The data window and staging (R367, R368). -/

def windowSize : Nat := 65280
def stagingSize : Nat := 0x300_0000

/-- LOAD_CHUNK. -/
def execLoadChunk (s : State) : Host.Outcome State Fault Refusal :=
  let m := s.mgmt
  let off := m.arg0.toNat
  let n := m.arg1.toNat
  .next (s.command 1 bootStates
    (if n ≤ windowSize ∧ off + n ≤ stagingSize then
      (s.setMgmt { m with staging := m.staging.splice off n m.window }).finish 0
    else s.finish 1))

/-! Measurement (R372). -/

/-- The 64 bytes of a digest. -/
def digestBytes (d : BitVec 512) : List Byte := (natLe 64 d.toNat).reverse

def extendMeas (m : BitVec 512) (d : List Byte) : BitVec 512 := sha512 (digestBytes m ++ d)

def Mgmt.extend (m : Mgmt) (i : Fin 4) (d : List Byte) : Mgmt := { m with meas := m.meas.set i (extendMeas m.meas[i] d) }

/-- The lifecycle code. DEBUG_UNLOCKED is left only at the next reset, whatever fuse is blown meanwhile (R374). -/
def Mgmt.lifecycle (m : Mgmt) : BitVec 4 :=
  if m.unlocked then 3 else if m.returned then 4 else if m.deployed then 2 else 1

/-- The debug port is open in every state but DEPLOYED (R374). -/
def Mgmt.debugOpen (m : Mgmt) : Bool := decide (m.lifecycle ≠ 2)

/-! BOOT (R370, R371). -/

def headerSize : Nat := 512

/-- IMGLEN of the staged bundle. -/
def imageLength (st : Memory) : Nat := leNat (st.read 8 4)

/-- The header with its signature taken as zero, and the image. -/
def signedBytes (st : Memory) : List Byte :=
  st.read 0 0x98 ++ List.replicate 0x84 0 ++ st.read 0x11C (0x200 - 0x11C) ++ st.read headerSize (imageLength st)

def allZero (bs : List Byte) : Bool := bs.all (· == 0)

/-- The first check of R371, with the bound of KEYSLOT. -/
def bundleForm (st : Memory) : Bool :=
  decide (leNat (st.read 0 8) = 0x5A4E_424E_444C_0007 ∧ imageLength st ≤ stagingSize - headerSize ∧ (st.byte 0xE).toNat ≤ 3)
    && st.byte 0xF == 0 && allZero (st.read 0x95 3) && allZero (st.read 0x11C 228)

def bundleSigned (st : Memory) (hash : BitVec 512) : Bool :=
  let key := st.read 0x10 133
  decide (sha512 key = hash) && ecdsaVerify key (sha512 (signedBytes st)) (st.read 0x98 132)

/-- The RESULT of the first check that fails; 0 where none does. -/
def Mgmt.checkBundle (m : Mgmt) : Nat :=
  let st := m.staging
  let slot : Fin 4 := Fin.ofNat 4 (st.byte 0xE).toNat
  if bundleForm st = false then 1
  else if m.revoked.getLsbD slot.val then 4
  else if bundleSigned st m.keyHash[slot] = false then 2
  else if leNat (st.read 0xC 2) < m.minVersion then 3
  else 0

/-- What a bundle that passes is measured into. -/
def Mgmt.measureBundle (m : Mgmt) : Mgmt :=
  ((m.extend 0 (digestBytes Config.bootRomDigest)).extend 1 (digestBytes (sha512 (signedBytes m.staging)))).extend 2
    (Config.codeBytes m.lifecycle)

/-- CR.SDELEG as the runtime writes it (R320). -/
def runtimeDelegation : Word := 0x3F_FFF6

def Strand.booted (t : Strand) : Strand :=
  { t with svec := keepBits Config.runtimeEntry 51 1, sdeleg := runtimeDelegation }

def Core.booted (k : Core) : Core := { k with main := k.main.booted, err := k.err.booted }

/-- The first content of the thermal ranking table (R377). -/
def firstTemps (ticks : Nat) : List (BitVec 16) := (List.range 256).map (Config.sensor ticks)

/-- Every queue starts with ENABLE 0 (R371). -/
def Sched.atBoot (z : Sched) : Sched := { z with queues := z.queues.map (fun q => { q with enable := false }) }

/-- The device runtime is in place, the frame attribute map is clear, and the device runs. -/
def State.startBundle (s : State) : State :=
  let m := s.mgmt.measureBundle
  let n := imageLength m.staging
  let cells := s.mem.cells.splice 0x7F_FA00_0000 n (m.staging.slice headerSize n)
  State.noteHot { s with
    cores := s.cores.map Core.booted
    mem := { s.mem with cells := cells, frames := [] }
    sched := s.sched.atBoot
    mgmt := { m with thermal := thermalTable (firstTemps s.ticks), state := .running } }

/-- BOOT. -/
def execBoot (s : State) : Host.Outcome State Fault Refusal :=
  .next (s.command 2 bootStates
    (if s.mgmt.checkBundle = 0 then s.startBundle.finish 0
     else (s.setMgmt { s.mgmt with state := .bootFail }).finish s.mgmt.checkBundle))

/-! Nonces, the log, the thermal table, the power limit (R368, R375 to R378). -/

/-- GET_NONCE: any earlier nonce is void. -/
def execGetNonce (s : State) : Host.Outcome State Fault Refusal :=
  let n := Config.freshNonce s.ticks
  .next (s.command 3 [.running] ((s.setMgmt { s.mgmt with nonce := some n, arg1 := n }).finish 0))

/-- Bytes go to the start of the window, and ARG1 is the count. -/
def Mgmt.answer (m : Mgmt) (bs : List Byte) (count : Nat) : Mgmt :=
  { m with window := m.window.write 0 bs, arg1 := BitVec.ofNat 64 count }

/-- The entries that the ring still holds from an index on, at most 1,024. -/
def Mgmt.logFrom (m : Mgmt) (i : Nat) : List (Word × Word × Word × Word) :=
  let first := m.logNext - m.log.length
  (m.log.drop (i - first)).take 1024

def MgmtCounters.words (c : MgmtCounters) : List Word :=
  [c.arrivalsDropped, c.hostWrDenied, c.hostWrFrozen, c.correctedErrors, c.logOverflow]

/-- READ_LOG. -/
def execReadLog (s : State) : Host.Outcome State Fault Refusal :=
  let m := s.mgmt
  let i := m.arg0.toNat
  .next (s.command 5 [.running]
    ((s.setMgmt (if i = 0xFFFF_FFFF then m.answer (wordsLe m.counters.words) 5
      else m.answer ((m.logFrom i).flatMap recordBytes) (m.logFrom i).length)).finish 0))

/-- READ_THERMAL. -/
def execReadThermal (s : State) : Host.Outcome State Fault Refusal :=
  let m := s.mgmt
  .next (s.command 6 [.running]
    ((s.setMgmt { m with window := m.window.write 0 (m.thermal.toList.flatMap (fun e => natLe 4 e.toNat)) }).finish 0))

/-- SET_POWERCAP. -/
def execSetPowercap (s : State) : Host.Outcome State Fault Refusal :=
  let w := s.mgmt.arg0.toNat
  .next (s.command 7 [.running]
    (if 400 ≤ w ∧ w ≤ 950 then (s.setMgmt { s.mgmt with powerCap := w }).finish 0 else s.finish 1))

/-! CONFIG (R369). -/

/-- The eight doublewords of an entry. -/
abbrev ConfEntry := Vector Word 8

def Mgmt.entry (m : Mgmt) (i : Nat) : ConfEntry := Vector.ofFn (fun k => m.window.dword (0x40 + 64 * i + 8 * k.val))

inductive ConfKind where
  | partition | hbmRegion | access | hostMaster | context | tenantKey | demandArea | framePool | thermal
  deriving DecidableEq, Repr

def entryKind (e : ConfEntry) : Option ConfKind :=
  match bitsOf e[0] 63 56 with
  | 1 => some .partition
  | 2 => some .hbmRegion
  | 3 => some .access
  | 4 => some .hostMaster
  | 5 => some .context
  | 6 => some .tenantKey
  | 7 => some .demandArea
  | 8 => some .framePool
  | 9 => some .thermal
  | _ => none

/-- Ones in bits `hi` to `lo`. -/
def onesAt (hi lo : Nat) : Word := BitVec.ofNat 64 ((2 ^ (hi + 1 - lo) - 1) * 2 ^ lo)

/-- The bits that the table of R369 names, for doublewords 0 to 4; the two doublewords of R316 and the value of R356
are whole. -/
def namedBits : ConfKind → List Word
  | .partition => [onesAt 2 0, onesAt 31 0, 0, 0, 0]
  | .hbmRegion | .framePool => [onesAt 2 0, onesAt 23 0, onesAt 23 0, 0, 0]
  | .access => [onesAt 15 8 ||| onesAt 5 0, onesAt 63 0, onesAt 63 0, 0, 0]
  | .hostMaster => [0, onesAt 63 0, 0, 0, 0]
  | .context => [onesAt 2 0 ||| onesAt 27 16 ||| onesAt 33 32, onesAt 51 9, 0, 0, 0]
  | .tenantKey => [onesAt 27 16, onesAt 63 0, onesAt 63 0, onesAt 63 0, onesAt 63 0]
  | .demandArea => [onesAt 27 16, onesAt 63 0, onesAt 63 0, 0, 0]
  | .thermal => [0, onesAt 7 0, 0, 0, 0]

/-- Every bit that the table does not name is 0. -/
def onlyNamed (k : ConfKind) (e : ConfEntry) : Bool :=
  (List.range 8).all (fun i =>
    let named := (if i = 0 then onesAt 63 56 else 0) ||| ((namedBits k).getD i 0)
    e.toList.getD i 0 &&& ~~~named == 0)

def entryPart (e : ConfEntry) : BitVec 3 := BitVec.ofNat 3 (bitsOf e[0] 2 0)
def entryCtx (e : ConfEntry) : BitVec 12 := BitVec.ofNat 12 (bitsOf e[0] 27 16)
def entryTarget (e : ConfEntry) : Nat := bitsOf e[0] 15 8
def entryIndex (e : ConfEntry) : Nat := bitsOf e[0] 5 0
def entryRemoves (e : ConfEntry) : Bool := e[0].getLsbD 33

/-- First and last frame. -/
def entryFrames (e : ConfEntry) : Nat × Nat := (bitsOf e[1] 23 0, bitsOf e[2] 23 0)

/-- The first frame of the runtime region: what lies below it is a partition's to have (R306). -/
def runtimeFrame : Nat := 0x7F_FA00_0000 / 0x8000

/-- The first frame beyond device memory. -/
def deviceFrames : Nat := 0x80_0000_0000 / 0x8000

/-- Frames `a` to `b` lie inside ranges; `fuel` bounds the steps. -/
def framesInside (rs : List (Nat × Nat)) (b : Nat) : Nat → Nat → Bool
  | _, 0 => false
  | a, fuel + 1 =>
    if b < a then true
    else
      match rs.find? (fun r => decide (r.1 ≤ a ∧ a ≤ r.2)) with
      | some r => framesInside rs b (r.2 + 1) fuel
      | none => false

/-- Frames `a` to `b` lie in a partition's device memory. -/
def Conf.ownsFrames (c : Conf) (part : BitVec 3) (a b : Nat) : Bool :=
  let rs := (c.frames.filter (fun r => decide (r.1 = part))).map (·.2)
  framesInside rs b a (rs.length + 1)

/-- What one entry does. -/
def Conf.apply (c : Conf) (e : ConfEntry) : Conf :=
  let part := entryPart e
  let ctx := entryCtx e
  match entryKind e with
  | none => c
  | some .partition => { c with quires := c.quires.set part.toNat (BitVec.setWidth 32 e[1]) (part.isLt) }
  | some .hbmRegion => { c with frames := c.frames ++ [(part, entryFrames e)] }
  | some .access =>
    let key := (entryTarget e, entryIndex e)
    let d0 := e[1] &&& ~~~(onesAt 43 37)
    let d1 := keepBits e[2] 36 0
    let rest := c.access.filter (fun x => decide (x.1 ≠ key))
    { c with access := if d0 = 0 ∧ d1 = 0 then rest else (key, d0, d1) :: rest }
  | some .hostMaster => { c with hostMaster := hostMasterBits e[1] }
  | some .context =>
    let others := c.contexts.filter (fun b => decide (b.ctx ≠ ctx))
    if entryRemoves e then
      { c with
        contexts := others
        keys := c.keys.filter (fun k => decide (k.1 ≠ ctx))
        demand := c.demand.filter (fun d => decide (d.1 ≠ ctx))
        given := c.given.filter (fun g => decide (g.1 ≠ ctx)) }
    else { c with contexts := ⟨ctx, part, keepBits e[1] 51 9, e[0].getLsbD 32⟩ :: others }
  | some .tenantKey =>
    let key := BitVec.ofNat 256 (e[1].toNat + e[2].toNat * 2 ^ 64 + e[3].toNat * 2 ^ 128 + e[4].toNat * 2 ^ 192)
    let rest := c.keys.filter (fun k => decide (k.1 ≠ ctx))
    { c with keys := if key = 0 then rest else (ctx, key) :: rest }
  | some .demandArea =>
    if e[2] = 0 then { c with demand := c.demand.filter (fun d => decide (d.1 ≠ ctx)) }
    else { c with demand := c.demand ++ [(ctx, e[1].toNat, e[2].toNat)] }
  | some .framePool => { c with pools := c.pools ++ [(part, entryFrames e)] }
  | some .thermal => { c with relief := bitsOf e[1] 7 0 }

/-- Fields that are out of range whatever the other entries say. -/
def entryInRange (k : ConfKind) (e : ConfEntry) : Bool :=
  match k with
  | .hbmRegion | .framePool => decide ((entryFrames e).1 ≤ (entryFrames e).2 ∧ (entryFrames e).2 < runtimeFrame)
  | .access => decide (entryTarget e ≤ 73 ∧ bitsOf e[1] 36 0 ≤ bitsOf e[2] 36 0)
  | .demandArea => decide (e[1].toNat % 0x8000 = 0 ∧ e[2].toNat % 0x8000 = 0)
  | .thermal => decide (80 ≤ bitsOf e[1] 7 0 ∧ bitsOf e[1] 7 0 ≤ 100)
  | .context => entryRemoves e || decide ((keepBits e[1] 51 9).toNat < runtimeFrame * 0x8000)
  | .partition | .hostMaster | .tenantKey => true

/-- An ACCESS entry grants nothing that it may not: no frame of the runtime region or of the map backing, and at an L2
slice or memory controller only frames of its PART. -/
def Conf.grantAllowed (c : Conf) (e : ConfEntry) : Bool :=
  let a := bitsOf e[1] 36 0
  let b := bitsOf e[2] 36 0
  let grants := e[1].getLsbD 63 && decide (bitsOf e[1] 46 44 ≠ 0 ∧ a ≤ b)
  !grants || (decide (b < runtimeFrame ∨ deviceFrames ≤ a)
    && (decide (72 ≤ entryTarget e) || c.ownsFrames (BitVec.ofNat 3 (bitsOf e[1] 62 60)) a b))

/-- What the checks of a CONFIG command look at: whether an enabled queue names a context or a partition, and the
configuration before the command and after it. -/
structure ConfCheck where
  enabled : BitVec 12 → Bool
  busy : BitVec 3 → Bool
  before : Conf
  after : Conf

/-- Two ranges of frames share one. -/
def framesMeet (a b : Nat × Nat) : Bool := decide (a.1 ≤ b.2 ∧ b.1 ≤ a.2)

/-- The quires that an entry for a partition takes from other partitions that have an enabled queue: they had them
before the command and would still. -/
def ConfCheck.takenQuires (k : ConfCheck) (part p : BitVec 3) : BitVec 32 :=
  if p ≠ part ∧ k.busy p = true then
    (k.before.quires[p.toNat]'(p.isLt)) &&& (k.after.quires[p.toNat]'(p.isLt)) &&& (k.after.quires[part.toNat]'(part.isLt))
  else 0

/-- A range of another partition that has an enabled queue, from before the command, which an entry takes frames of. -/
def ConfCheck.takesFrom (k : ConfCheck) (e : ConfEntry) (r : BitVec 3 × Nat × Nat) : Bool :=
  decide (r.1 ≠ entryPart e) && k.busy r.1 && k.before.frames.contains r && framesMeet r.2 (entryFrames e)

/-- The checks that look at the configuration, `c` before an entry. What an entry takes from a partition with an enabled
queue is no fault here: it gives RESULT 6 (log entry 56). -/
def ConfCheck.fits (z : ConfCheck) (c : Conf) (k : ConfKind) (e : ConfEntry) : Bool :=
  let part := entryPart e
  match k with
  | .partition => (List.finRange 8).all (fun p =>
      let q : BitVec 3 := BitVec.ofFin p
      decide (q = part) || (((z.after.quires[p] &&& z.after.quires[part.toNat]'(part.isLt))
        &&& ~~~(z.takenQuires part q ||| z.takenQuires q part)) == 0))
  | .hbmRegion => z.after.frames.all (fun r =>
      decide (r.1 = part) || !framesMeet r.2 (entryFrames e) || z.takesFrom e r)
  | .access => z.after.grantAllowed e
  | .context =>
    if entryRemoves e then c.contexts.any (fun b => decide (b.ctx = entryCtx e)) && !z.enabled (entryCtx e)
    else
      let f := (keepBits e[1] 51 9).toNat / 0x8000
      z.after.ownsFrames part f f
  | .framePool => z.after.ownsFrames part (entryFrames e).1 (entryFrames e).2
  | .demandArea => decide (z.after.demand.length ≤ 256 ∨ (c.apply e).demand.length ≤ 256)
  | .hostMaster | .tenantKey | .thermal => true

/-- An entry passes every check whose failure gives RESULT 1. -/
def ConfCheck.passes (z : ConfCheck) (c : Conf) (e : ConfEntry) : Bool :=
  match entryKind e with
  | none => false
  | some k => onlyNamed k e && entryInRange k e && z.fits c k e

/-- The index of the first entry that fails. -/
def ConfCheck.firstFailing (z : ConfCheck) : Conf → Nat → List ConfEntry → Option Nat
  | _, _, [] => none
  | c, i, e :: es => if z.passes c e then z.firstFailing (c.apply e) (i + 1) es else some i

/-- An entry takes a quire or a frame from a partition that has an enabled queue (RESULT 6): its own partition loses a
quire, or another one does, or a frame. -/
def ConfCheck.takes (z : ConfCheck) (c : Conf) (e : ConfEntry) : Bool :=
  let part := entryPart e
  match entryKind e with
  | some .partition =>
    (z.busy part && ((c.quires[part.toNat]'(part.isLt)) &&& ~~~(BitVec.setWidth 32 e[1]) != 0))
      || (List.finRange 8).any (fun p => z.takenQuires part (BitVec.ofFin p) != 0)
  | some .hbmRegion => z.before.frames.any (z.takesFrom e)
  | _ => false

/-- Some entry of a command does. -/
def ConfCheck.takesAny (z : ConfCheck) : Conf → List ConfEntry → Bool
  | _, [] => false
  | c, e :: es => z.takes c e || z.takesAny (c.apply e) es

/-- COUNT, and whether the header's other bytes are 0. -/
def Mgmt.confCount (m : Mgmt) : Nat := leNat (m.window.read 0 2)

def Mgmt.confHeader (m : Mgmt) : Bool := decide (m.confCount ≤ 1019) && allZero (m.window.read 2 0x3E)

/-- The bytes of an entry as MEAS3 takes them (R372). -/
def measuredEntry (e : ConfEntry) : List Byte :=
  if entryKind e = some .tenantKey then
    let key := wordsLe [e[1], e[2], e[3], e[4]]
    le8 e[0] ++ (digestBytes (sha512 key)).take 32 ++ wordsLe [e[5], e[6], e[7]]
  else wordsLe e.toList

/-- CONFIG with its header in order. -/
def State.configure (s : State) (es : List ConfEntry) : State :=
  let enabled (ctx : BitVec 12) : Bool :=
    (List.finRange 32).any (fun q => (s.queueAt q).enable && decide ((s.queueAt q).ctx = ctx))
  let busy (p : BitVec 3) : Bool :=
    (List.finRange 32).any (fun q => (s.queueAt q).enable && decide ((s.queueAt q).part = p))
  let z : ConfCheck := ⟨enabled, busy, s.conf, es.foldl Conf.apply s.conf⟩
  match z.firstFailing s.conf 0 es with
  | some i => (s.setMgmt { s.mgmt with arg1 := BitVec.ofNat 64 i }).finish 1
  | none =>
    if z.takesAny s.conf es then s.finish 6
    else
      let s := { s with conf := z.after }
      (s.setMgmt (s.mgmt.extend 3 (s.mgmt.window.read 0 0x40 ++ es.flatMap measuredEntry))).finish 0

/-- CONFIG. -/
def execConfig (s : State) : Host.Outcome State Fault Refusal :=
  let m := s.mgmt
  .next (s.command 8 [.running]
    (if m.confHeader then s.configure ((List.range m.confCount).map m.entry)
     else (s.setMgmt { m with arg1 := 0xFFFF }).finish 1))

/-! DEBUG_UNLOCK (R374). -/

/-- The queues that are enabled or hold a launch or a pending record (R353). -/
def State.liveQueues (s : State) : List QueueId :=
  (List.finRange 32).filter (fun q => (s.queueAt q).enable || s.queueBusy q)

/-- Every queue of every context is killed. -/
def State.killEverything (s : State) : State :=
  s.liveQueues.foldl (fun s q => (s.report none (s.requestRecord (.queue q))).killNow (.queue q) 0 (s.requestRecord (.queue q))) s

/-- The lines with listed bytes that the L2 slices hold: those that Config.inL2 names, as far as the 16 ways of their sets
have room (R16, R107, R374; log entry 13). -/
def State.lines2 (s : State) : List Nat :=
  let ls := ((s.mem.cells.filter (fun c => cachedType c.1 && Config.inL2 s.ticks (c.1 / 128))).map (·.1 / 128)).eraseDups
  if ls.length ≤ sliceWays then ls
  else (ls.map lineSet).eraseDups.flatMap (fun n => (ls.filter (fun l => lineSet l == n)).take sliceWays)

/-- Every local store, every L2 line and every tenant key is zero; the access tables are empty. -/
def State.wipe (s : State) : State :=
  { s with
    cores := s.cores.map (fun k => { k with ls := [], bad := [] })
    mem := { s.mem with cells := s.mem.cells.filter (fun c => !(cachedType c.1 && s.lines2.contains (c.1 / 128))) }
    conf := { s.conf with access := [], keys := [] } }

/-- The queues are killed, everything is zeroed, and only then the debug port opens. -/
def State.unlock (s : State) (id nonce : Word) : State :=
  let s := s.killEverything.wipe
  (s.setMgmt ({ s.mgmt with unlocked := true }.extend 2 (Config.unlockBytes id nonce))).finish 0

/-- The cores that a kill of every queue reaches. -/
def State.gangCores (s : State) : List CoreId := s.sched.gangs.flatMap Gang.cores

/-- Nothing holds a kill of every queue up: no strand in supervisor mode (R289), no write that is not performed (R49). -/
def State.unlockReady (s : State) : Bool := (s.supervisors s.gangCores).isEmpty && s.gangCores.all s.settled

/-- The kill waits for strands and for writes, and the command goes on later. -/
def State.unlockLater (s : State) : State :=
  let t := s.gangCores.foldl (fun s c => (s.drainStrand ⟨c, false⟩).drainStrand ⟨c, true⟩) s
  { t with agenda := t.agenda ++ (s.supervisors s.gangCores).map Move.strand ++ [.owe, .event .debugUnlock] }

/-- What follows the checks, once nothing holds the kills up. -/
def State.unlockOr (s : State) (id nonce : Word) : State :=
  if s.unlockReady then (s.setMgmt { s.mgmt with unlocking := none }).unlock id nonce
  else (s.setMgmt { s.mgmt with unlocking := some (id, nonce) }).unlockLater

/-- A token is of this device, of its state, and names the current nonce. -/
def Mgmt.tokenFits (m : Mgmt) (id : Word) (code : BitVec 4) (nonce : Word) : Bool :=
  decide (id = Config.deviceId ∧ code = m.lifecycle ∧ m.nonce = some nonce)

/-- An ECDSA P-521 signature of a token's fields by the key whose hash is in the debug fuse slot. -/
def Mgmt.tokenSigned (m : Mgmt) (id : Word) (code : BitVec 4) (nonce : Word) (key sig : List Byte) : Bool :=
  decide (sha512 key = m.debugKeyHash) && ecdsaVerify key (sha512 (Config.tokenMessage id code nonce)) sig

/-- A number of a token: 8 bytes, little-endian (R3). -/
def tokenWord (bs : List Byte) : Word := wordOf (bs.take 8)

/-- The checks of a token, and what they lead to. The nonce is void once a token has named it. -/
def State.checkToken (s : State) : State :=
  let m := s.mgmt
  let (idBytes, code, nonceBytes, key, sig) := Config.tokenFields (m.window.read 0 windowSize)
  let id := tokenWord idBytes
  let nonce := tokenWord nonceBytes
  let void := s.setMgmt { m with nonce := none }
  if m.lifecycle ≠ 2 then s.finish 5
  else if !m.tokenFits id code nonce then s.finish 1
  else if !m.tokenSigned id code nonce key sig then void.finish 2
  else if m.debugDisable then void.finish 5
  else void.unlockOr id nonce

/-- A command whose checks have passed goes on with what they found; another is checked. -/
def State.debugUnlock (s : State) : State :=
  match s.mgmt.unlocking with
  | some (id, nonce) => s.unlockOr id nonce
  | none => s.checkToken

/-- DEBUG_UNLOCK. -/
def execDebugUnlock (s : State) : Host.Outcome State Fault Refusal := .next (s.command 4 [.running] s.debugUnlock)

/-! Attestation (R373). -/

def State.spdm (s : State) (r : Spdm) : State := s.setMgmt { s.mgmt with spdm := some r }

def execGetVersion (s : State) : Host.Outcome State Fault Refusal := .next (s.spdm .version)

def execGetCapabilities (s : State) : Host.Outcome State Fault Refusal := .next (s.spdm .capabilities)

/-- The only algorithms are ECDSA P-521 and SHA-512. -/
def execNegotiateAlgorithms (s : State) : Host.Outcome State Fault Refusal := .next (s.spdm .algorithms)

def execGetDigests (s : State) : Host.Outcome State Fault Refusal :=
  .next (s.spdm (.digests (sha512 Config.certChain)))

def execGetCertificate (s : State) : Host.Outcome State Fault Refusal := .next (s.spdm (.certificate Config.certChain))

/-- CHALLENGE: fails in RETURNED, where the identity key is unavailable (R374). -/
def execChallenge (nonce : BitVec 256) (s : State) : Host.Outcome State Fault Refusal :=
  .next (s.spdm (if s.mgmt.lifecycle = 4 then .error
    else .challengeAuth nonce (Config.identitySign (natLe 32 nonce.toNat ++ s.mgmt.meas.toList.flatMap digestBytes))))

/-- GET_MEASUREMENTS: the registers and the lifecycle code at one instant. -/
def execGetMeasurements (s : State) : Host.Outcome State Fault Refusal :=
  .next (s.spdm (.measurements s.mgmt.meas s.mgmt.lifecycle))

/-! Lifecycle and reset (R142, R374). -/

/-- TRANSITION_FUSE_BLOWN. -/
def execTransitionFuseBlown (f : Fuse) (s : State) : Host.Outcome State Fault Refusal :=
  .next (s.setMgmt (match f with
    | .deploy => { s.mgmt with deployed := true }
    | .return_ => { s.mgmt with returned := true }))

/-- What the fuses hold passes through a reset. -/
def Mgmt.afterReset (m : Mgmt) : Mgmt :=
  { State.reset.mgmt with
    deployed := m.deployed
    returned := m.returned
    debugDisable := m.debugDisable
    revoked := m.revoked
    minVersion := m.minVersion
    keyHash := m.keyHash
    debugKeyHash := m.debugKeyHash }

/-- RESET: every register takes its reset value; fuses, memory contents and CR.TIME stay. -/
def execReset (s : State) : Host.Outcome State Fault Refusal :=
  .next { State.reset with
    mem := { State.reset.mem with cells := s.mem.cells, ecc := s.mem.ecc }
    mgmt := s.mgmt.afterReset
    clock := s.clock
    agenda := s.agenda
    ticks := s.ticks }

end Sys2Proof.Machine
end

