-- ==== Sys2Proof/Machine/Vector.lean ====
section
/-! DEFINITION. Element-wise vector forms, class 0x24 (R251 to R256). -/

namespace Sys2Proof.Machine

/-- A form of two tile operands, element by element. -/
def tileOp2 (i : Instr) (ty : Ty) (td ta tb : TReg) (m : MReg) (f : Nat → Nat → Nat) (s : State) :
    Host.Outcome State Fault Refusal :=
  issue i s (fun s =>
    .retire (s.setTile td ((s.tile td).mergeCodes ty (s.mask m) (fun r =>
      List.zipWith f (rowCodes ty (s.tile ta).rows[r]) (rowCodes ty (s.tile tb).rows[r])))))

/-- A form of one tile operand. -/
def tileOp1 (i : Instr) (ty : Ty) (td ta : TReg) (m : MReg) (f : Nat → Nat) (s : State) :
    Host.Outcome State Fault Refusal :=
  issue i s (fun s =>
    .retire (s.setTile td ((s.tile td).mergeCodes ty (s.mask m) (fun r => (rowCodes ty (s.tile ta).rows[r]).map f))))

/-- A form of three tile operands. -/
def tileOp3 (i : Instr) (ty : Ty) (td ta tb tc : TReg) (m : MReg) (f : Nat → Nat → Nat → Nat) (s : State) :
    Host.Outcome State Fault Refusal :=
  issue i s (fun s =>
    .retire (s.setTile td ((s.tile td).mergeCodes ty (s.mask m) (fun r =>
      List.zipWith (fun p c => f p.1 p.2 c)
        ((rowCodes ty (s.tile ta).rows[r]).zip (rowCodes ty (s.tile tb).rows[r])) (rowCodes ty (s.tile tc).rows[r])))))

/-! Element functions (R254 to R256). -/

def elAdd (ty : Ty) (rm : Round) (sat : Bool) (a b : Nat) : Nat :=
  if ty = .i8 then intCode 8 sat (twos 8 a + twos 8 b) else codeAdd (Ty.fmt ty) rm sat a b

def elSub (ty : Ty) (rm : Round) (sat : Bool) (a b : Nat) : Nat :=
  if ty = .i8 then intCode 8 sat (twos 8 a - twos 8 b) else codeSub (Ty.fmt ty) rm sat a b

def elMul (ty : Ty) (rm : Round) (sat : Bool) (a b : Nat) : Nat :=
  if ty = .i8 then intCode 8 sat (twos 8 a * twos 8 b) else codeMul (Ty.fmt ty) rm sat a b

def elFma (ty : Ty) (rm : Round) (sat : Bool) (a b c : Nat) : Nat :=
  if ty = .i8 then intCode 8 sat (twos 8 a * twos 8 b + twos 8 c) else codeFma (Ty.fmt ty) rm sat a b c

/-- TMIN, TMAX. -/
def elExtreme (ty : Ty) (max : Bool) (a b : Nat) : Nat :=
  if ty = .i8 then (if (if max then decide (twos 8 a < twos 8 b) else decide (twos 8 b < twos 8 a)) then b else a)
  else extremeCode (Ty.fmt ty) max a b

def elAbs (ty : Ty) (sat : Bool) (a : Nat) : Nat :=
  if ty = .i8 then intCode 8 sat (twos 8 a).natAbs else absCode (Ty.fmt ty) a

def elNeg (ty : Ty) (sat : Bool) (a : Nat) : Nat :=
  if ty = .i8 then intCode 8 sat (-(twos 8 a)) else negCode (Ty.fmt ty) a

/-- The arithmetic right shift of an n-bit pattern. -/
def sraCode (n a k : Nat) : Nat := ((twos n a).fdiv (2 ^ k) % (2 ^ n : Int)).toNat

/-- All bits set, or 0. -/
def flagCode (ty : Ty) (b : Bool) : Nat := if b then 2 ^ typeBits ty - 1 else 0

/-- The compares; .i8 values are never NaN. -/
def elCompare (ty : Ty) (rel : Val → Val → Bool) (a b : Nat) : Nat :=
  flagCode ty (rel ((Ty.fmt ty).value a) ((Ty.fmt ty).value b))

def execTadd (td ta tb : TReg) (ty : Ty) (m : MReg) (rm : Round) (sat : Bool) (s : State) :
    Host.Outcome State Fault Refusal :=
  tileOp2 (.tadd td ta tb ty m rm sat) ty td ta tb m (elAdd ty rm sat) s

def execTsub (td ta tb : TReg) (ty : Ty) (m : MReg) (rm : Round) (sat : Bool) (s : State) :
    Host.Outcome State Fault Refusal :=
  tileOp2 (.tsub td ta tb ty m rm sat) ty td ta tb m (elSub ty rm sat) s

def execTmul (td ta tb : TReg) (ty : Ty) (m : MReg) (rm : Round) (sat : Bool) (s : State) :
    Host.Outcome State Fault Refusal :=
  tileOp2 (.tmul td ta tb ty m rm sat) ty td ta tb m (elMul ty rm sat) s

def execTfma (td ta tb tc : TReg) (ty : Ty) (m : MReg) (rm : Round) (sat : Bool) (s : State) :
    Host.Outcome State Fault Refusal :=
  tileOp3 (.tfma td ta tb tc ty m rm sat) ty td ta tb tc m (elFma ty rm sat) s

def execTmin (td ta tb : TReg) (ty : Ty) (m : MReg) (s : State) : Host.Outcome State Fault Refusal :=
  tileOp2 (.tmin td ta tb ty m) ty td ta tb m (elExtreme ty false) s

def execTmax (td ta tb : TReg) (ty : Ty) (m : MReg) (s : State) : Host.Outcome State Fault Refusal :=
  tileOp2 (.tmax td ta tb ty m) ty td ta tb m (elExtreme ty true) s

def execTabs (td ta : TReg) (ty : Ty) (m : MReg) (sat : Bool) (s : State) : Host.Outcome State Fault Refusal :=
  tileOp1 (.tabs td ta ty m sat) ty td ta m (elAbs ty sat) s

def execTneg (td ta : TReg) (ty : Ty) (m : MReg) (sat : Bool) (s : State) : Host.Outcome State Fault Refusal :=
  tileOp1 (.tneg td ta ty m sat) ty td ta m (elNeg ty sat) s

def execTand (td ta tb : TReg) (ty : Ty) (m : MReg) (s : State) : Host.Outcome State Fault Refusal :=
  tileOp2 (.tand td ta tb ty m) ty td ta tb m (fun a b => a &&& b) s

def execTor (td ta tb : TReg) (ty : Ty) (m : MReg) (s : State) : Host.Outcome State Fault Refusal :=
  tileOp2 (.tor td ta tb ty m) ty td ta tb m (fun a b => a ||| b) s

def execTxor (td ta tb : TReg) (ty : Ty) (m : MReg) (s : State) : Host.Outcome State Fault Refusal :=
  tileOp2 (.txor td ta tb ty m) ty td ta tb m (fun a b => a ^^^ b) s

def execTshl (td ta tb : TReg) (ty : Ty) (m : MReg) (s : State) : Host.Outcome State Fault Refusal :=
  tileOp2 (.tshl td ta tb ty m) ty td ta tb m (fun a b => a * 2 ^ (b % typeBits ty) % 2 ^ typeBits ty) s

def execTshr (td ta tb : TReg) (ty : Ty) (m : MReg) (s : State) : Host.Outcome State Fault Refusal :=
  tileOp2 (.tshr td ta tb ty m) ty td ta tb m (fun a b => a / 2 ^ (b % typeBits ty)) s

def execTsra (td ta tb : TReg) (ty : Ty) (m : MReg) (s : State) : Host.Outcome State Fault Refusal :=
  tileOp2 (.tsra td ta tb ty m) ty td ta tb m (fun a b => sraCode (typeBits ty) a (b % typeBits ty)) s

def execTcmpeq (td ta tb : TReg) (ty : Ty) (m : MReg) (s : State) : Host.Outcome State Fault Refusal :=
  tileOp2 (.tcmpeq td ta tb ty m) ty td ta tb m (elCompare ty eqVal) s

def execTcmplt (td ta tb : TReg) (ty : Ty) (m : MReg) (s : State) : Host.Outcome State Fault Refusal :=
  tileOp2 (.tcmplt td ta tb ty m) ty td ta tb m (elCompare ty ltVal) s

def execTcmple (td ta tb : TReg) (ty : Ty) (m : MReg) (s : State) : Host.Outcome State Fault Refusal :=
  tileOp2 (.tcmple td ta tb ty m) ty td ta tb m (elCompare ty leVal) s

def execTcmpun (td ta tb : TReg) (ty : Ty) (m : MReg) (s : State) : Host.Outcome State Fault Refusal :=
  tileOp2 (.tcmpun td ta tb ty m) ty td ta tb m (elCompare ty (fun x y => x.isNan || y.isNan)) s

def execTsel (td ta tb tc : TReg) (ty : Ty) (m : MReg) (s : State) : Host.Outcome State Fault Refusal :=
  tileOp3 (.tsel td ta tb tc ty m) ty td ta tb tc m (fun a b c => if c ≠ 0 then a else b) s

def execTexp2 (td ta : TReg) (ty : Ty) (m : MReg) (s : State) : Host.Outcome State Fault Refusal :=
  tileOp1 (.texp2 td ta ty m) ty td ta m approxExp2 s

def execTrcp (td ta : TReg) (ty : Ty) (m : MReg) (s : State) : Host.Outcome State Fault Refusal :=
  tileOp1 (.trcp td ta ty m) ty td ta m approxRcp s

def execTrsq (td ta : TReg) (ty : Ty) (m : MReg) (s : State) : Host.Outcome State Fault Refusal :=
  tileOp1 (.trsq td ta ty m) ty td ta m approxRsqrt s

/-! The scalar operand forms, class 0x25 (R257). -/

/-- s of R257: the low bits of a g register, as a code. -/
def State.scalarCode (s : State) (r : GReg) (ty : Ty) : Nat := (s.g r).toNat % 2 ^ typeBits ty

def tileOpS (i : Instr) (ty : Ty) (td ta : TReg) (gs : GReg) (m : MReg) (f : Nat → Nat → Nat) (s : State) :
    Host.Outcome State Fault Refusal :=
  issue i s (fun s =>
    .retire (s.setTile td ((s.tile td).mergeCodes ty (s.mask m) (fun r =>
      (rowCodes ty (s.tile ta).rows[r]).map (fun a => f a (s.scalarCode gs ty))))))

def execTadds (td ta : TReg) (gs : GReg) (ty : Ty) (m : MReg) (rm : Round) (sat : Bool) (s : State) :
    Host.Outcome State Fault Refusal :=
  tileOpS (.tadds td ta gs ty m rm sat) ty td ta gs m (elAdd ty rm sat) s

def execTsubs (td ta : TReg) (gs : GReg) (ty : Ty) (m : MReg) (rm : Round) (sat : Bool) (s : State) :
    Host.Outcome State Fault Refusal :=
  tileOpS (.tsubs td ta gs ty m rm sat) ty td ta gs m (elSub ty rm sat) s

def execTmuls (td ta : TReg) (gs : GReg) (ty : Ty) (m : MReg) (rm : Round) (sat : Bool) (s : State) :
    Host.Outcome State Fault Refusal :=
  tileOpS (.tmuls td ta gs ty m rm sat) ty td ta gs m (elMul ty rm sat) s

def execTmins (td ta : TReg) (gs : GReg) (ty : Ty) (m : MReg) (s : State) : Host.Outcome State Fault Refusal :=
  tileOpS (.tmins td ta gs ty m) ty td ta gs m (elExtreme ty false) s

def execTmaxs (td ta : TReg) (gs : GReg) (ty : Ty) (m : MReg) (s : State) : Host.Outcome State Fault Refusal :=
  tileOpS (.tmaxs td ta gs ty m) ty td ta gs m (elExtreme ty true) s

def execTfill (td : TReg) (gs : GReg) (ty : Ty) (m : MReg) (s : State) : Host.Outcome State Fault Refusal :=
  issue (.tfill td gs ty m) s (fun s =>
    .retire (s.setTile td ((s.tile td).mergeCodes ty (s.mask m) (fun _ =>
      List.replicate ty.elems (s.scalarCode gs ty)))))

/-- Scaling by 2^n; a scale beyond ±2000 leaves every finite nonzero value outside every format. -/
def elScale (ty : Ty) (rm : Round) (sat : Bool) (n : Int) (a : Nat) : Nat :=
  let f := Ty.fmt ty
  match f.value a with
  | .nan _ => canonical f
  | .inf _ => a
  | .num neg v => if v = 0 then a else encodeVal f (.num neg (v * pow2 (clampI n (-2000) 2000))) rm sat

def execTscale (td ta : TReg) (gs : GReg) (ty : Ty) (m : MReg) (rm : Round) (sat : Bool) (s : State) :
    Host.Outcome State Fault Refusal :=
  issue (.tscale td ta gs ty m rm sat) s (fun s =>
    .retire (s.setTile td ((s.tile td).mergeCodes ty (s.mask m) (fun r =>
      (rowCodes ty (s.tile ta).rows[r]).map (elScale ty rm sat (s.g gs).toInt)))))

end Sys2Proof.Machine
end

