-- ==== Sys2Proof/Machine/Dispatch.lean ====
section
/-! DEFINITION. One arm for every constructor of `Instr`: a direct call of its meaning. -/

namespace Sys2Proof.Machine

/-- What an instruction, or a step of another agent, does. -/
def exec (i : Instr) (s : State) : Host.Outcome State Fault Refusal :=
  match i with
  | .fend => Sys2Proof.Machine.execFend s
  | .nop => Sys2Proof.Machine.execNop s
  | .add gd ga gb wd => Sys2Proof.Machine.execAdd gd ga gb wd s
  | .sub gd ga gb wd => Sys2Proof.Machine.execSub gd ga gb wd s
  | .and gd ga gb wd => Sys2Proof.Machine.execAnd gd ga gb wd s
  | .or gd ga gb wd => Sys2Proof.Machine.execOr gd ga gb wd s
  | .xor gd ga gb wd => Sys2Proof.Machine.execXor gd ga gb wd s
  | .andn gd ga gb wd => Sys2Proof.Machine.execAndn gd ga gb wd s
  | .shl gd ga gb wd => Sys2Proof.Machine.execShl gd ga gb wd s
  | .shr gd ga gb wd => Sys2Proof.Machine.execShr gd ga gb wd s
  | .sra gd ga gb wd => Sys2Proof.Machine.execSra gd ga gb wd s
  | .rol gd ga gb wd => Sys2Proof.Machine.execRol gd ga gb wd s
  | .ror gd ga gb wd => Sys2Proof.Machine.execRor gd ga gb wd s
  | .mul gd ga gb wd => Sys2Proof.Machine.execMul gd ga gb wd s
  | .mulhs gd ga gb wd => Sys2Proof.Machine.execMulhs gd ga gb wd s
  | .mulhu gd ga gb wd => Sys2Proof.Machine.execMulhu gd ga gb wd s
  | .divs gd ga gb wd => Sys2Proof.Machine.execDivs gd ga gb wd s
  | .divu gd ga gb wd => Sys2Proof.Machine.execDivu gd ga gb wd s
  | .rems gd ga gb wd => Sys2Proof.Machine.execRems gd ga gb wd s
  | .remu gd ga gb wd => Sys2Proof.Machine.execRemu gd ga gb wd s
  | .min gd ga gb wd => Sys2Proof.Machine.execMin gd ga gb wd s
  | .max gd ga gb wd => Sys2Proof.Machine.execMax gd ga gb wd s
  | .minu gd ga gb wd => Sys2Proof.Machine.execMinu gd ga gb wd s
  | .maxu gd ga gb wd => Sys2Proof.Machine.execMaxu gd ga gb wd s
  | .slt gd ga gb wd => Sys2Proof.Machine.execSlt gd ga gb wd s
  | .sltu gd ga gb wd => Sys2Proof.Machine.execSltu gd ga gb wd s
  | .seq gd ga gb wd => Sys2Proof.Machine.execSeq gd ga gb wd s
  | .sne gd ga gb wd => Sys2Proof.Machine.execSne gd ga gb wd s
  | .clz gd ga wd => Sys2Proof.Machine.execClz gd ga wd s
  | .ctz gd ga wd => Sys2Proof.Machine.execCtz gd ga wd s
  | .popc gd ga wd => Sys2Proof.Machine.execPopc gd ga wd s
  | .bswap gd ga wd => Sys2Proof.Machine.execBswap gd ga wd s
  | .addi gd ga imm wd => Sys2Proof.Machine.execAddi gd ga imm wd s
  | .andi gd ga imm wd => Sys2Proof.Machine.execAndi gd ga imm wd s
  | .ori gd ga imm wd => Sys2Proof.Machine.execOri gd ga imm wd s
  | .xori gd ga imm wd => Sys2Proof.Machine.execXori gd ga imm wd s
  | .shli gd ga imm wd => Sys2Proof.Machine.execShli gd ga imm wd s
  | .shri gd ga imm wd => Sys2Proof.Machine.execShri gd ga imm wd s
  | .srai gd ga imm wd => Sys2Proof.Machine.execSrai gd ga imm wd s
  | .rori gd ga imm wd => Sys2Proof.Machine.execRori gd ga imm wd s
  | .muli gd ga imm wd => Sys2Proof.Machine.execMuli gd ga imm wd s
  | .slti gd ga imm wd => Sys2Proof.Machine.execSlti gd ga imm wd s
  | .sltui gd ga imm wd => Sys2Proof.Machine.execSltui gd ga imm wd s
  | .seqi gd ga imm wd => Sys2Proof.Machine.execSeqi gd ga imm wd s
  | .mini gd ga imm wd => Sys2Proof.Machine.execMini gd ga imm wd s
  | .maxi gd ga imm wd => Sys2Proof.Machine.execMaxi gd ga imm wd s
  | .li gd imm => Sys2Proof.Machine.execLi gd imm s
  | .adr gd imm => Sys2Proof.Machine.execAdr gd imm s
  | .lea gd ga gb shift imm => Sys2Proof.Machine.execLea gd ga gb shift imm s
  | .fadd fd fa fb rm d => Sys2Proof.Machine.execFadd fd fa fb rm d s
  | .fsub fd fa fb rm d => Sys2Proof.Machine.execFsub fd fa fb rm d s
  | .fmul fd fa fb rm d => Sys2Proof.Machine.execFmul fd fa fb rm d s
  | .fdiv fd fa fb rm d => Sys2Proof.Machine.execFdiv fd fa fb rm d s
  | .fsqrt fd fa rm d => Sys2Proof.Machine.execFsqrt fd fa rm d s
  | .fma fd fa fb fc rm d => Sys2Proof.Machine.execFma fd fa fb fc rm d s
  | .fmin fd fa fb d => Sys2Proof.Machine.execFmin fd fa fb d s
  | .fmax fd fa fb d => Sys2Proof.Machine.execFmax fd fa fb d s
  | .fabs fd fa d => Sys2Proof.Machine.execFabs fd fa d s
  | .fneg fd fa d => Sys2Proof.Machine.execFneg fd fa d s
  | .fmvfg fd gs d => Sys2Proof.Machine.execFmvfg fd gs d s
  | .fmvgf gd fs d => Sys2Proof.Machine.execFmvgf gd fs d s
  | .fcvtfi fd gs rm d => Sys2Proof.Machine.execFcvtfi fd gs rm d s
  | .fcvtif gd fs rm d => Sys2Proof.Machine.execFcvtif gd fs rm d s
  | .fcvtsd fd fs rm => Sys2Proof.Machine.execFcvtsd fd fs rm s
  | .fcvtds fd fs => Sys2Proof.Machine.execFcvtds fd fs s
  | .fcmpeq gd fs d => Sys2Proof.Machine.execFcmpeq gd fs d s
  | .fcmplt gd fs d => Sys2Proof.Machine.execFcmplt gd fs d s
  | .fcmple gd fs d => Sys2Proof.Machine.execFcmple gd fs d s
  | .fclass gd fs d => Sys2Proof.Machine.execFclass gd fs d s
  | .b cond ga gb off => Sys2Proof.Machine.execB cond ga gb off s
  | .brc gc off => Sys2Proof.Machine.execBrc gc off s
  | .j off => Sys2Proof.Machine.execJ off s
  | .call off => Sys2Proof.Machine.execCall off s
  | .jr ga label => Sys2Proof.Machine.execJr ga label s
  | .callr ga label => Sys2Proof.Machine.execCallr ga label s
  | .ret => Sys2Proof.Machine.execRet s
  | .jt gi bound label off => Sys2Proof.Machine.execJt gi bound label off s
  | .lpad label => Sys2Proof.Machine.execLpad label s
  | .exit => Sys2Proof.Machine.execExit s
  | .edone => Sys2Proof.Machine.execEdone s
  | .ld gd sz sx gb ord off => Sys2Proof.Machine.execLd gd sz sx gb ord off s
  | .st gs sz gb ord off => Sys2Proof.Machine.execSt gs sz gb ord off s
  | .ldl gd sz sx gb ord q off => Sys2Proof.Machine.execLdl gd sz sx gb ord q off s
  | .stl gs sz gb ord q off => Sys2Proof.Machine.execStl gs sz gb ord q off s
  | .fld fd d sp gb ord q off => Sys2Proof.Machine.execFld fd d sp gb ord q off s
  | .fst fs d sp gb ord q off => Sys2Proof.Machine.execFst fs d sp gb ord q off s
  | .aswap gd sz gb gs ord sp off => Sys2Proof.Machine.execAswap gd sz gb gs ord sp off s
  | .acas gd sz gb gs gc ord sp off => Sys2Proof.Machine.execAcas gd sz gb gs gc ord sp off s
  | .aadd gd sz gb gs ord sp off => Sys2Proof.Machine.execAadd gd sz gb gs ord sp off s
  | .aand gd sz gb gs ord sp off => Sys2Proof.Machine.execAand gd sz gb gs ord sp off s
  | .aor gd sz gb gs ord sp off => Sys2Proof.Machine.execAor gd sz gb gs ord sp off s
  | .axor gd sz gb gs ord sp off => Sys2Proof.Machine.execAxor gd sz gb gs ord sp off s
  | .amin gd sz gb gs ord sp off => Sys2Proof.Machine.execAmin gd sz gb gs ord sp off s
  | .amax gd sz gb gs ord sp off => Sys2Proof.Machine.execAmax gd sz gb gs ord sp off s
  | .aminu gd sz gb gs ord sp off => Sys2Proof.Machine.execAminu gd sz gb gs ord sp off s
  | .amaxu gd sz gb gs ord sp off => Sys2Proof.Machine.execAmaxu gd sz gb gs ord sp off s
  | .afadd gd sz gb gs ord sp off => Sys2Proof.Machine.execAfadd gd sz gb gs ord sp off s
  | .tld td ty gb gs gx m q sp off => Sys2Proof.Machine.execTld td ty gb gs gx m q sp off s
  | .tldt td ty gb gs m sp off => Sys2Proof.Machine.execTldt td ty gb gs m sp off s
  | .tldx td ty gb gs m q sp off => Sys2Proof.Machine.execTldx td ty gb gs m q sp off s
  | .tst ts ty gb gs gx m q sp off => Sys2Proof.Machine.execTst ts ty gb gs gx m q sp off s
  | .tstt ts ty gb gs m sp off => Sys2Proof.Machine.execTstt ts ty gb gs m sp off s
  | .tstx ts ty gb gs m q sp off => Sys2Proof.Machine.execTstx ts ty gb gs m q sp off s
  | .tgather td ty ti row gb m sp off => Sys2Proof.Machine.execTgather td ty ti row gb m sp off s
  | .tzmask gd ts => Sys2Proof.Machine.execTzmask gd ts s
  | .tmov td ts => Sys2Proof.Machine.execTmov td ts s
  | .tzero td => Sys2Proof.Machine.execTzero td s
  | .tmma ad ta tb tya tyb mr mc => Sys2Proof.Machine.execTmma ad ta tb tya tyb mr mc s
  | .azero ad mr mc => Sys2Proof.Machine.execAzero ad mr mc s
  | .amov ad as mr mc => Sys2Proof.Machine.execAmov ad as mr mc s
  | .ald ad gb mr mc sp off => Sys2Proof.Machine.execAld ad gb mr mc sp off s
  | .ast as gb mr mc sp off => Sys2Proof.Machine.execAst as gb mr mc sp off s
  | .acvt td as ty rm sat h mr mc => Sys2Proof.Machine.execAcvt td as ty rm sat h mr mc s
  | .afrom ad ts ty h mr mc => Sys2Proof.Machine.execAfrom ad ts ty h mr mc s
  | .aaddAccumulator ad as ty mr mc => Sys2Proof.Machine.execAaddAccumulator ad as ty mr mc s
  | .tadd td ta tb ty m rm sat => Sys2Proof.Machine.execTadd td ta tb ty m rm sat s
  | .tsub td ta tb ty m rm sat => Sys2Proof.Machine.execTsub td ta tb ty m rm sat s
  | .tmul td ta tb ty m rm sat => Sys2Proof.Machine.execTmul td ta tb ty m rm sat s
  | .tfma td ta tb tc ty m rm sat => Sys2Proof.Machine.execTfma td ta tb tc ty m rm sat s
  | .tmin td ta tb ty m => Sys2Proof.Machine.execTmin td ta tb ty m s
  | .tmax td ta tb ty m => Sys2Proof.Machine.execTmax td ta tb ty m s
  | .tabs td ta ty m sat => Sys2Proof.Machine.execTabs td ta ty m sat s
  | .tneg td ta ty m sat => Sys2Proof.Machine.execTneg td ta ty m sat s
  | .tand td ta tb ty m => Sys2Proof.Machine.execTand td ta tb ty m s
  | .tor td ta tb ty m => Sys2Proof.Machine.execTor td ta tb ty m s
  | .txor td ta tb ty m => Sys2Proof.Machine.execTxor td ta tb ty m s
  | .tshl td ta tb ty m => Sys2Proof.Machine.execTshl td ta tb ty m s
  | .tshr td ta tb ty m => Sys2Proof.Machine.execTshr td ta tb ty m s
  | .tsra td ta tb ty m => Sys2Proof.Machine.execTsra td ta tb ty m s
  | .tcmpeq td ta tb ty m => Sys2Proof.Machine.execTcmpeq td ta tb ty m s
  | .tcmplt td ta tb ty m => Sys2Proof.Machine.execTcmplt td ta tb ty m s
  | .tcmple td ta tb ty m => Sys2Proof.Machine.execTcmple td ta tb ty m s
  | .tcmpun td ta tb ty m => Sys2Proof.Machine.execTcmpun td ta tb ty m s
  | .tsel td ta tb tc ty m => Sys2Proof.Machine.execTsel td ta tb tc ty m s
  | .texp2 td ta ty m => Sys2Proof.Machine.execTexp2 td ta ty m s
  | .trcp td ta ty m => Sys2Proof.Machine.execTrcp td ta ty m s
  | .trsq td ta ty m => Sys2Proof.Machine.execTrsq td ta ty m s
  | .tadds td ta gs ty m rm sat => Sys2Proof.Machine.execTadds td ta gs ty m rm sat s
  | .tsubs td ta gs ty m rm sat => Sys2Proof.Machine.execTsubs td ta gs ty m rm sat s
  | .tmuls td ta gs ty m rm sat => Sys2Proof.Machine.execTmuls td ta gs ty m rm sat s
  | .tmins td ta gs ty m => Sys2Proof.Machine.execTmins td ta gs ty m s
  | .tmaxs td ta gs ty m => Sys2Proof.Machine.execTmaxs td ta gs ty m s
  | .tfill td gs ty m => Sys2Proof.Machine.execTfill td gs ty m s
  | .tscale td ta gs ty m rm sat => Sys2Proof.Machine.execTscale td ta gs ty m rm sat s
  | .trsum td ta ty m rm => Sys2Proof.Machine.execTrsum td ta ty m rm s
  | .tcsum td ta ty m rm => Sys2Proof.Machine.execTcsum td ta ty m rm s
  | .trmax td ta ty m => Sys2Proof.Machine.execTrmax td ta ty m s
  | .tcmax td ta ty m => Sys2Proof.Machine.execTcmax td ta ty m s
  | .trmin td ta ty m => Sys2Proof.Machine.execTrmin td ta ty m s
  | .tcmin td ta ty m => Sys2Proof.Machine.execTcmin td ta ty m s
  | .ttr td ta ty m => Sys2Proof.Machine.execTtr td ta ty m s
  | .trowb td ta ty r m => Sys2Proof.Machine.execTrowb td ta ty r m s
  | .tcolb td ta ty c m => Sys2Proof.Machine.execTcolb td ta ty c m s
  | .trot td ta ty c m => Sys2Proof.Machine.execTrot td ta ty c m s
  | .tshuf td ta tb ty r m => Sys2Proof.Machine.execTshuf td ta tb ty r m s
  | .tcvt td ta ty tys h m rm sat => Sys2Proof.Machine.execTcvt td ta ty tys h m rm sat s
  | .tcvtChoose td ta ty tys h m rm sat => Sys2Proof.Machine.execTcvtChoose td ta ty tys h m rm sat s
  | .tcvtGiven td ta ty tys tx m rm sat => Sys2Proof.Machine.execTcvtGiven td ta ty tys tx m rm sat s
  | .mand md ma mb => Sys2Proof.Machine.execMand md ma mb s
  | .mor md ma mb => Sys2Proof.Machine.execMor md ma mb s
  | .mxor md ma mb => Sys2Proof.Machine.execMxor md ma mb s
  | .mnot md ma => Sys2Proof.Machine.execMnot md ma s
  | .mset md gs => Sys2Proof.Machine.execMset md gs s
  | .mget gd ma => Sys2Proof.Machine.execMget gd ma s
  | .mpopc gd ma => Sys2Proof.Machine.execMpopc gd ma s
  | .copy gd gs gq dsp ssp => Sys2Proof.Machine.execCopy gd gs gq dsp ssp s
  | .copyr gd gs gq bf16 lossy dsp ssp => Sys2Proof.Machine.execCopyr gd gs gq bf16 lossy dsp ssp s
  | .discard gd gs => Sys2Proof.Machine.execDiscard gd gs s
  | .bseal gd => Sys2Proof.Machine.execBseal gd s
  | .bwait gd n => Sys2Proof.Machine.execBwait gd n s
  | .fence sc kind => Sys2Proof.Machine.execFence sc kind s
  | .barinit gc gs => Sys2Proof.Machine.execBarinit gc gs s
  | .bararr gd gc sc => Sys2Proof.Machine.execBararr gd gc sc s
  | .barwait gd gc gs sc => Sys2Proof.Machine.execBarwait gd gc gs sc s
  | .barsync gd gc sc => Sys2Proof.Machine.execBarsync gd gc sc s
  | .freeze gd ga gl sc => Sys2Proof.Machine.execFreeze gd ga gl sc s
  | .thaw gd ga gl => Sys2Proof.Machine.execThaw gd ga gl s
  | .thawwait ga => Sys2Proof.Machine.execThawwait ga s
  | .publish ga gl sc => Sys2Proof.Machine.execPublish ga gl sc s
  | .callat ga gp slot => Sys2Proof.Machine.execCallat ga gp slot s
  | .reply gs => Sys2Proof.Machine.execReply gs s
  | .waitrp gd ga slot => Sys2Proof.Machine.execWaitrp gd ga slot s
  | .trap g imm => Sys2Proof.Machine.execTrap g imm s
  | .mfcr gd crn => Sys2Proof.Machine.execMfcr gd crn s
  | .mtcr crn gs => Sys2Proof.Machine.execMtcr crn gs s
  | .pause => Sys2Proof.Machine.execPause s
  | .csave gd ga => Sys2Proof.Machine.execCsave gd ga s
  | .cload gd ga => Sys2Proof.Machine.execCload gd ga s
  | .tlbinv ga gb n => Sys2Proof.Machine.execTlbinv ga gb n s
  | .tlbinvc gb => Sys2Proof.Machine.execTlbinvc gb s
  | .wcinv ga gb n => Sys2Proof.Machine.execWcinv ga gb n s
  | .frameset ga gb n => Sys2Proof.Machine.execFrameset ga gb n s
  | .mboxset gd ga => Sys2Proof.Machine.execMboxset gd ga s
  | .polset gd ga gb => Sys2Proof.Machine.execPolset gd ga gb s
  | .sret k => Sys2Proof.Machine.execSret k s
  | .halt gd ga => Sys2Proof.Machine.execHalt gd ga s
  | .resume gd ga => Sys2Proof.Machine.execResume gd ga s
  | .fetch c errand => Sys2Proof.Machine.execFetch c errand s
  | .drain c n => Sys2Proof.Machine.execDrain c n s
  | .copyPiece c n => Sys2Proof.Machine.execCopyPiece c n s
  | .waitSatisfied c errand => Sys2Proof.Machine.execWaitSatisfied c errand s
  | .fullEmptyUnit c off len q data => Sys2Proof.Machine.execFullEmptyUnit c off len q data s
  | .localStoreAccess c off data => Sys2Proof.Machine.execLocalStoreAccess c off data s
  | .tgatherRequest c owner => Sys2Proof.Machine.execTgatherRequest c owner s
  | .callatArrival n => Sys2Proof.Machine.execCallatArrival n s
  | .replyDelivery n => Sys2Proof.Machine.execReplyDelivery n s
  | .errandBudget c => Sys2Proof.Machine.execErrandBudget c s
  | .barrierArrival k cell => Sys2Proof.Machine.execBarrierArrival k cell s
  | .freezeEvent m => Sys2Proof.Machine.execFreezeEvent m s
  | .freezeAcknowledgement c n => Sys2Proof.Machine.execFreezeAcknowledgement c n s
  | .thawSweep cache frames => Sys2Proof.Machine.execThawSweep cache frames s
  | .sweepAcknowledgement cache frames => Sys2Proof.Machine.execSweepAcknowledgement cache frames s
  | .preemptionRequest k save => Sys2Proof.Machine.execPreemptionRequest k save s
  | .haltDeclared c => Sys2Proof.Machine.execHaltDeclared c s
  | .gangResume k => Sys2Proof.Machine.execGangResume k s
  | .migration k peer target save => Sys2Proof.Machine.execMigration k peer target save s
  | .kill t => Sys2Proof.Machine.execKill t s
  | .backOff c errand => Sys2Proof.Machine.execBackOff c errand s
  | .retryExhausted c errand => Sys2Proof.Machine.execRetryExhausted c errand s
  | .deferredFault c => Sys2Proof.Machine.execDeferredFault c s
  | .tailRead q => Sys2Proof.Machine.execTailRead q s
  | .acceptance q => Sys2Proof.Machine.execAcceptance q s
  | .arbitrate part => Sys2Proof.Machine.execArbitrate part s
  | .minresElapsed k => Sys2Proof.Machine.execMinresElapsed k s
  | .taskStart k => Sys2Proof.Machine.execTaskStart k s
  | .queueEnable q dw0 => Sys2Proof.Machine.execQueueEnable q dw0 s
  | .queueDisable q dw0 => Sys2Proof.Machine.execQueueDisable q dw0 s
  | .registerWrite off wide val => Sys2Proof.Machine.execRegisterWrite off wide val s
  | .crCgdev val => Sys2Proof.Machine.execCrCgdev val s
  | .crScopemiss c val => Sys2Proof.Machine.execCrScopemiss c val s
  | .crFcause c val => Sys2Proof.Machine.execCrFcause c val s
  | .crRspill c val => Sys2Proof.Machine.execCrRspill c val s
  | .bar2Read addr len => Sys2Proof.Machine.execBar2Read addr len s
  | .bar2Write addr data => Sys2Proof.Machine.execBar2Write addr data s
  | .retentionSleep c => Sys2Proof.Machine.execRetentionSleep c s
  | .wake c => Sys2Proof.Machine.execWake c s
  | .thermalTableUpdate temps => Sys2Proof.Machine.execThermalTableUpdate temps s
  | .scrubbing line e => Sys2Proof.Machine.execScrubbing line e s
  | .generationHold k => Sys2Proof.Machine.execGenerationHold k s
  | .linkDown => Sys2Proof.Machine.execLinkDown s
  | .linkUp => Sys2Proof.Machine.execLinkUp s
  | .data h payload crcOk => Sys2Proof.Machine.execData h payload crcOk s
  | .void h crcOk => Sys2Proof.Machine.execVoid h crcOk s
  | .nak h crcOk => Sys2Proof.Machine.execNak h crcOk s
  | .idle h crcOk => Sys2Proof.Machine.execIdle h crcOk s
  | .read m pa len tag => Sys2Proof.Machine.execRead m pa len tag s
  | .write m pa bytes rel tag => Sys2Proof.Machine.execWrite m pa bytes rel tag s
  | .atomic m op n pa s1 c rel tag => Sys2Proof.Machine.execAtomic m op n pa s1 c rel tag s
  | .copyWrite m t bytes tag => Sys2Proof.Machine.execCopyWrite m t bytes tag s
  | .reduceWrite m t bf16 lossy elems tag => Sys2Proof.Machine.execReduceWrite m t bf16 lossy elems tag s
  | .readResponse r bytes => Sys2Proof.Machine.execReadResponse r bytes s
  | .atomicResponse r n old => Sys2Proof.Machine.execAtomicResponse r n old s
  | .phaseResponse id answer => Sys2Proof.Machine.execPhaseResponse id answer s
  | .reset => Sys2Proof.Machine.execReset s
  | .loadChunk => Sys2Proof.Machine.execLoadChunk s
  | .boot => Sys2Proof.Machine.execBoot s
  | .getNonce => Sys2Proof.Machine.execGetNonce s
  | .debugUnlock => Sys2Proof.Machine.execDebugUnlock s
  | .readLog => Sys2Proof.Machine.execReadLog s
  | .readThermal => Sys2Proof.Machine.execReadThermal s
  | .setPowercap => Sys2Proof.Machine.execSetPowercap s
  | .config => Sys2Proof.Machine.execConfig s
  | .getVersion => Sys2Proof.Machine.execGetVersion s
  | .getCapabilities => Sys2Proof.Machine.execGetCapabilities s
  | .negotiateAlgorithms => Sys2Proof.Machine.execNegotiateAlgorithms s
  | .getDigests => Sys2Proof.Machine.execGetDigests s
  | .getCertificate => Sys2Proof.Machine.execGetCertificate s
  | .challenge nonce => Sys2Proof.Machine.execChallenge nonce s
  | .getMeasurements => Sys2Proof.Machine.execGetMeasurements s
  | .writeAcknowledgement id => Sys2Proof.Machine.execWriteAcknowledgement id s
  | .transitionFuseBlown f => Sys2Proof.Machine.execTransitionFuseBlown f s

end Sys2Proof.Machine
end

