-- ==== Sys2Proof/Machine/Progress.lean ====
section
/-! DEFINITION. Whose move is next: the round in which every agent of the device has its turn, what an instruction boundary
raises, and which steps are agents' own (R30, R36, R45, R48, R62, R317, R322; log entry 1). -/

namespace Sys2Proof.Machine

/-! What other agents of the device owe. -/

/-- Steps that a freeze event under way waits for (R152). -/
def FreezeOp.owed (o : FreezeOp) : List Instr :=
  o.toApply.map (fun c => .freezeEvent (.core c o.id))
    ++ (o.toAck.filter (fun c => !o.toApply.contains c)).map (fun c => .freezeAcknowledgement (.core c) o.id)

/-- Steps of this device that an open sweep waits for (R156). -/
def Sweep.owed (w : Sweep) : List Instr :=
  (w.toDrop.filter (· != .peer)).map (fun c => .thawSweep (.own c) [w.frame])
    ++ (w.toAck.filter (fun c => c != .peer && !w.toDrop.contains c)).map (fun c => .sweepAcknowledgement (.own c) [w.frame])

/-- Steps of a core's own store path, streamer and owners of gathered rows, and the declaration of a halt that it has been
asked for. -/
def Core.owed (c : CoreId) (k : Core) : List Instr :=
  k.writes.map (fun w => .drain c w.seq)
    ++ k.copies.map (fun x => .copyPiece c x.seq)
    ++ ((k.gather.getD []).filter (fun r => r.data.isNone)).map (fun r => .tgatherRequest c r.owner)
    ++ (if k.halting && !k.halted then [.haltDeclared c] else [])

/-- Steps of the scheduler for a gang: its start or its restore once it is placed, and the restore that ends a migration
(R45). -/
def Gang.owed (g : Gang) : List Instr :=
  (if g.state = .placed then [.taskStart g.key, .gangResume g.key] else [])
    ++ (match g.moving with
        | some (p, target, pa) => [.migration g.key p target pa]
        | none => [])

/-- The base of the save areas of a gang that the runtime pre-empts: below the runtime region, where Config says (log entry
50). -/
def saveBaseFor (tick peers : Nat) : Nat :=
  Config.saveBase tick % ((0x7F_FA00_0000 - peers * areaSize) / 0x1_0000 + 1) * 0x1_0000

/-- A place for the save areas of a gang: no frame frozen or swept, no table against it. -/
def State.areasUsable (s : State) (g : Gang) (base : Nat) : Bool :=
  let m : Master := ((s.launch g.key.launch).map (fun l => ⟨l.part, l.ctx⟩)).getD ⟨0, 0⟩
  (List.range g.peers.length).all (fun p => s.areaOpen (base + p * areaSize))
    && (s.areaDenied m base (g.peers.length * areaSize) .write).isNone

/-- The pre-emptions that the scheduler has chosen and not yet asked for (R338, R350), once there is a place for the areas.
-/
def State.preemptions (s : State) : List Instr :=
  (s.sched.gangs.filter (fun g => g.state.active && s.sched.chosen.contains g.key
      && s.areasUsable g (saveBaseFor s.ticks g.peers.length))).map (fun g =>
    .preemptionRequest g.key (saveBaseFor s.ticks g.peers.length))

/-- The gangs that have become eligible as victims since their placement, for which the scheduler decides again (R350). -/
def State.ripened (s : State) : List Instr :=
  (s.sched.gangs.filter (fun g => g.state.resident && !g.minresOver && s.minresPast g)).map (fun g => .minresElapsed g.key)

/-- Steps of the scheduler for a queue: its tail and its next record (R344, R348). -/
def Queue.owed (x : Queue) (q : QueueId) : List Instr := if x.enable then [.tailRead q, .acceptance q] else []

/-- The partitions that the scheduler decides for: those of an enabled queue, or of a next unit, which a disabled queue may
still have (R349). -/
def State.arbitrated (s : State) : List (Fin 8) :=
  (List.finRange 8).filter (fun p => s.sched.queues.toList.any (fun x => x.enable && decide (x.part.toNat = p.val))
    || !(s.units_ (BitVec.ofFin p)).isEmpty)

/-- Every step that this device owes by itself; the link, the host and time come from outside. -/
def State.owed (s : State) : List Instr :=
  (List.range s.posts.length).map Instr.callatArrival
    ++ (List.range s.replies.length).map Instr.replyDelivery
    ++ s.frz.ops.flatMap FreezeOp.owed
    ++ s.frz.sweeps.flatMap Sweep.owed
    ++ allCores.flatMap (fun c => (s.core c).owed c)
    ++ (allCores.filter (fun c => (s.core c).asleep && s.reservedCore c)).map Instr.wake
    ++ s.sched.gangs.flatMap Gang.owed
    ++ s.preemptions ++ s.ripened
    ++ (List.finRange 32).flatMap (fun q => (s.queueAt q).owed q)
    ++ s.arbitrated.map Instr.arbitrate

/-- The strands that have something to run. -/
def State.ready_ (s : State) : List Who :=
  (allCores.flatMap (fun c => [Who.mk c false, Who.mk c true])).filter s.runnable

/-- What the link owes by itself: training is retried continuously (R359), and transactions that wait at its receiver are
taken (R362). -/
def State.linkOwed (s : State) : List Move :=
  (if s.link.state = .down then [.linkTraining] else []) ++ s.link.kept.map (fun _ => .linkKept)

/-- A round: every owed step and a turn of every strand but the current one, which has its own (R45). -/
def State.round (s : State) : List Move :=
  s.owed.map Move.event ++ s.linkOwed ++ (s.ready_.filter (fun w => decide (w ≠ s.cur))).map Move.strand

/-! Instruction boundaries. -/

/-- What is due at an instruction boundary before the next instruction: a fault without an instruction, the end of a
back-off, the end of retrying, the end of an errand's budget. A FEND head is no instruction (R168). -/
def State.boundary (s : State) (w : Who) : Option Instr :=
  let t := s.strand w
  if decide (w = s.faultStrand w.core) && decide (t.mode = .user) && !(s.core w.core).deferred.isEmpty && !s.atFend w then
    some (.deferredFault w.core)
  else if t.inBackoff then some (.backOff w.core w.errand)
  else if t.spent then some (.retryExhausted w.core w.errand)
  else if w.errand && s.budgetSpent w.core && !s.atFend w then some (.errandBudget w.core)
  else none

/-! Steps that are no instruction of a strand. -/

/-- The encoded instructions are run by strands only. -/
def isEvent (i : Instr) : Bool := (encode i).isNone

/-- The data of a 64-byte block of a local store becomes uncorrectable (R319, R323). -/
def State.storeError (s : State) (c : CoreId) (block : Nat) : State :=
  if block < 0x2800 then s.mapCore c (fun k => { k with bad := block :: k.bad.filter (fun b => b != block) }) else s

/-! Placing an instruction (log entry 5). -/

/-- A task of context 1 in partition 0 whose level-0 table is at 0x1000. -/
def placedTask : Resident :=
  { Resident.idle with peers := 8, ctx := 1, ptroot := 0x1000, callat := true }

/-- Tables that map virtual page 0, readable and executable, to the frame at 0x8000. -/
def placedTables : List (Nat × List Byte) :=
  [(0x1000, le8 0x2001), (0x2000, le8 0x3001), (0x3000, le8 0x4001), (0x4000, le8 0x5001), (0x5000, le8 0x8017)]

/-- Slice 0 and the memory controller behind it grant partition 0 frames 0 and 1. -/
def placedGrants : List ((Nat × Nat) × Word × Word) :=
  [((0, 0), 0x8800_7000_0000_0000, 1), ((64, 0), 0x8800_7000_0000_0000, 1)]

/-- A strand at virtual address 0 with nothing outstanding. -/
def Strand.atZero (t : Strand) : Strand :=
  { t with pc := 0, mode := .user, retries := 0, inBackoff := false, lastFault := none, wait := none }

def Core.placed (k : Core) : Core :=
  { k with
    task := some placedTask, held := false, halting := false, halted := false, loading := false, asleep := false
    main := k.main.atZero, deferred := [], l1i := [], prefetched := [], tlb := [], itlb := [], walks := [] }

/-- Memory with the tables and a folio at 0x8000, in a code frame that is not frozen, and published. -/
def MemSys.placed (m : MemSys) (folio : List Byte) : MemSys :=
  { m with
    cells := (m.cells.writeParts placedTables).write 0x8000 folio
    frames := assocSet m.frames 1 { FrameAttr.zero with code := true }
    ubits := m.ubits.filter (fun l => l != 0x100)
    ecc := m.ecc.filter (fun l => decide (0x1000 ≤ l)) }

/-- The task of core 0 is about to fetch a folio at virtual address 0. -/
def State.withFolio (s : State) (folio : List Byte) : State :=
  { s.mapCore 0 Core.placed with
    mem := s.mem.placed folio
    conf := { s.conf with access := placedGrants ++ s.conf.access.filter (fun x => decide (x.1 ≠ (0, 0) ∧ x.1 ≠ (64, 0))) }
    agenda := []
    cur := ⟨0, false⟩ }

end Sys2Proof.Machine
end

