-- ==== Sys2Proof/Machine/Step.lean ====
section
/-! DEFINITION. One step of the machine: one move of one agent (R30, R36, R45, R48, R62, R122, R170, R322; log entry
1). -/

namespace Sys2Proof.Machine

/-- The turn of the current strand: what is due at the boundary, or its next instruction. -/
def turn (s : State) : Host.Outcome State Fault Refusal :=
  if !s.runnable s.cur then .next s
  else
    match s.boundary s.cur with
    | some e => exec e s
    | none =>
      match s.nextInstr s.cur with
      | .error f => conclude s (.raise f)
      | .ok (i, t) => exec i t

/-- A move that the agenda holds. -/
def perform (s : State) : Move → Host.Outcome State Fault Refusal
  | .strand w => turn { s with cur := w }
  | .event i => if isEvent i then exec i s else .next s
  | .kill t cause rec => .next (s.killUnit t cause rec)
  | .owe => .next { s with agenda := s.round ++ s.agenda }
  | .hostStore pa bytes => .next (s.hostStore pa bytes)
  | .registerRead off len => .next (s.registerRead off len)
  | .registerOther off => .next (s.completes 0 off none)
  | .portWrite w => .next (s.portWrite w)
  | .linkTraining => .next s.startTraining
  | .linkKept => takeKept s
  | .storeError c block => .next (s.storeError c block)

/-- The next move reads no memory, or is the scheduler's read of a tail or a record: what it could not see before it may
still not see. -/
def State.keepsUnseen (s : State) : Bool :=
  match s.agenda with
  | .event (.drain ..) :: _ | .event (.tailRead _) :: _ | .event (.acceptance _) :: _ => true
  | _ => false

/-- What passes before a move: the scheduler notes its next units (R349), time goes on, and before a move of any agent that
may read memory every store is there for the scheduler too, since that agent may put it before what it does next (R128,
R131; log entry 25). -/
def State.pass (s : State) : State :=
  if s.keepsUnseen then s.noteUnits.tick else s.noteUnits.tick.setUnseen []

/-- One step: time passes, then the first move of the agenda is made; where it is empty, the current strand has its turn
and a round is owed to everyone else. -/
def step (s : State) : Host.Outcome State Fault Refusal :=
  match s.pass.agenda with
  | m :: rest => perform { s.pass with agenda := rest } m
  | [] => turn { s.pass with agenda := s.pass.round }

/-- `s` with the instruction of a table word about to be fetched, in a folio of its own. -/
def State.withFetchWord (s : State) (nbits w : Nat) : State :=
  s.withFolio (folioOf (tableEnc nbits w) ((nbits - 16) / 8))

end Sys2Proof.Machine
end

