-- ==== Sys2Proof/Safety.lean ====
section
/-! DEFINITION. What counts as a safe run, and the terms that statements are made in: the canonical form of every
memory, what an instruction leaves as it was, and what it is to complete. -/

namespace Sys2Proof.Machine

/-! Safe runs. -/

/-- A step from `s` answers a next state. -/
def Safe (s : State) : Prop := ∃ t, step s = .next t

/-- `n` steps lead from one state to another, none of them a fault or a refusal. -/
def Reaches : Nat → State → State → Prop
  | 0, s, t => s = t
  | n + 1, s, t => ∃ u, step s = .next u ∧ Reaches n u t

/-- Every memory that the machine holds is in canonical form, so that equal memories are equal data. -/
structure Canonical (s : State) : Prop where
  mem : Memory.wf s.mem.cells
  stores : ∀ c, Memory.wf (s.core c).ls
  window : Memory.wf s.mgmt.window
  staging : Memory.wf s.mgmt.staging
  msix : Memory.wf s.msix

/-! Reading one byte. -/

/-- A byte of physical memory, as its home holds it. -/
def State.byteAt (s : State) (pa : Nat) : Byte := Memory.byte s.mem.cells pa

/-- A byte of a core's local store. -/
def State.storeByte (s : State) (c : CoreId) (off : Nat) : Byte := Memory.byte (s.core c).ls off

/-- No byte of physical memory or of a local store differs. -/
def SameBytes (s t : State) : Prop := (∀ a, t.byteAt a = s.byteAt a) ∧ ∀ c off, t.storeByte c off = s.storeByte c off

/-! What an instruction leaves as it was. -/

/-- The registers that an instruction of the current strand writes: tiles by their logical slot, and the event
counters beside the one that retirement counts in. -/
structure Written where
  g : List GReg := []
  f : List FReg := []
  m : List MReg := []
  t : List (Fin 16) := []
  a : List AReg := []
  ev : List (Fin 7) := []

/-- The counter in which a strand's retired instructions are counted (R294). -/
def State.retiredCounter (s : State) : Fin 7 := if s.cur.errand then 2 else 1

/-- From `s` to `t` nothing has changed but the registers that `w` names, the pc of the current strand, and what its
retirement counts and ends (R36, R48, R294). -/
structure Keeps (w : Written) (s t : State) : Prop where
  /-- Memory, the homes, the link, the scheduler, the management processor and all else outside the cores. -/
  device : { t with cores := s.cores } = s
  /-- The other cores. -/
  cores : ∀ c, c ≠ s.cur.core → t.core c = s.core c
  /-- Of this core: its store, cells, slots, queues, caches and control registers. -/
  core : { t.here with
    main := s.here.main, err := s.here.err, run := s.here.run, counters := s.here.counters, m := s.here.m,
    t := s.here.t, a := s.here.a } = s.here
  /-- The other strand. -/
  other : t.strand ⟨s.cur.core, !s.cur.errand⟩ = s.strand ⟨s.cur.core, !s.cur.errand⟩
  /-- Of this strand: mode, return stores, exception registers, the successor address. -/
  strand : { t.me with
    pc := s.me.pc, g := s.me.g, sg := s.me.sg, f := s.me.f, wait := s.me.wait, retries := s.me.retries,
    backoff := s.me.backoff, inBackoff := s.me.inBackoff, lastFault := s.me.lastFault } = s.me
  run : t.here.run.map (fun r => (r.caller, r.replied)) = s.here.run.map (fun r => (r.caller, r.replied))
  gRegs : ∀ r, r ∉ w.g → t.g r = s.g r
  userBank : s.me.mode = .supervisor → ∀ r : GReg, r.val < 16 → t.me.g[r] = s.me.g[r]
  supervisorBank : s.me.mode = .user → t.me.sg = s.me.sg
  fRegs : ∀ r, r ∉ w.f → t.f r = s.f r
  masks : ∀ r, r ∉ w.m → t.mask r = s.mask r
  tiles : ∀ r, r ∉ w.t → t.here.t[r] = s.here.t[r]
  accs : ∀ r, r ∉ w.a → t.acc r = s.acc r
  counters : ∀ n, n ≠ s.retiredCounter → n ∉ w.ev → t.here.counters[n] = s.here.counters[n]

/-- The current strand has retired an instruction and goes on at an address. -/
structure RetiresAt (a : Word) (s t : State) : Prop where
  pc : t.me.pc = a
  wait : t.me.wait = none
  /-- A retired user-mode instruction ends a run of consecutive faults. -/
  fresh : s.me.mode = .user →
    t.me.retries = 0 ∧ t.me.backoff = 0 ∧ t.me.inBackoff = false ∧ t.me.lastFault = none
  counted : t.here.counters[s.retiredCounter] = s.here.counters[s.retiredCounter] + 1

/-- `exec` of an instruction answers a next state, in which the strand is at an address, what `P` says holds, and all
else is as it was in `u`: the state before, or what an access to memory makes of it. -/
def CompletesFrom (u : State) (a : Word) (i : Instr) (s : State) (w : Written) (P : State → Prop) : Prop :=
  ∃ t, exec i s = .next t ∧ RetiresAt a u t ∧ Keeps w u t ∧ P t

/-- It completes, and the strand goes on at its successor (R168). -/
def Completes (i : Instr) (s : State) (w : Written) (P : State → Prop) : Prop := CompletesFrom s s.me.npc i s w P

/-- It completes, and the strand goes on at an address. -/
def GoesTo (a : Word) (i : Instr) (s : State) (w : Written) (P : State → Prop) : Prop := CompletesFrom s a i s w P

/-- A g register holds a value; g0 holds 0 (R67). -/
def State.holds (t : State) (r : GReg) (v : Word) : Prop := t.g r = if r.val = 0 then 0 else v

/-- `exec` of an instruction takes a fault: nothing of the instruction happens but what the entry or the containment
of the fault does (R60, R285). -/
def Raises (i : Instr) (s : State) (f : FaultInfo) : Prop := exec i s = .next (s.forget.raise s.cur f)

end Sys2Proof.Machine
end

