-- ==== Sys2Proof/Certificates/Slice0/Obligations.lean ====
section
/-! DEFINITION. The statements about the model, for the provers. Each docstring names the rule that a statement
formalises. `Completes`, `Raises`, `Keeps` and `RetiresAt` are in Sys2Proof/Safety.lean. -/

namespace Sys2Proof.Machine

/-! Terms of the statements: what the manual's tables say, form by form. -/

/-- Words and what the encodings of the manual make of them: the head's 16 bits, then the tail's, as
spec/opcode_table.json numbers them. -/
def sampleWords : List (Nat × Nat × Instr) :=
  [ -- FEND: the head 0x0000 (R171). NOP: 0x0400 (R172). EXIT: 0x4800 (R196). EDONE: 0x4801 (R197).
    (16, 0x0000, .fend), (16, 0x0400, .nop), (16, 0x4800, .exit), (16, 0x4801, .edone),
    -- divs.w g4, g5, g6 (R183); fma.d f1, f2, f3, f4 (R187)
    (32, 0x0921_298E, .divs 4 5 6 .w), (32, 0x2112_2345, .fma 1 2 3 4 .rne true),
    -- addi g3, g4, -1: head 0x0E00 | gd << 3, tail ga << 27 | 0x00 << 22 | simm22 (R184)
    (48, 0x0E18_203F_FFFF, .addi 3 4 (-1) .x),
    -- li g5, 0x400: head 0x1300 | gd << 3, tail imm64 (R185)
    (80, 0x1328_0000_0000_0000_0400, .li 5 0x400),
    -- fcvtif.d g4, f3: head 0x2500 | 4 << 3 | 1, tail 3 << 11 | 3 << 7 (R188)
    (32, 0x2521_1980, .fcvtif 4 3 .rne true),
    -- b.lt g1, g2, 8 half-words on: head 0x3200 | 1 << 3 | 0b010, tail 2 << 27 | 8 (R190)
    (48, 0x320A_1000_0008, .b .lt 1 2 8),
    -- jt g2, ops, 3 (R193); lpad 7 (R194)
    (80, 0x4310_0003_0007_0000_2000, .jt 2 3 7 0x2000), (32, 0x4500_0007, .lpad 7),
    -- stl.w.ef g11, [g7, 0x100]: head 0x5E00 | 11 << 3 | 2 << 1, tail 7 << 27 | 0b11 << 20 | 0x100 (R112, R209)
    (48, 0x5E5C_3830_0100, .stl 11 .w 7 .none .ef 0x100) ]

/-- Further words, of the other families. -/
def otherWords : List (Nat × Nat × Instr) :=
  [ -- aadd.d.acqrel.device g4, [g5, 16], g6 (R212)
    (80, 0x6B23_2980_5B00_0000_0010, .aadd 4 .d 5 6 (.acqrel .device) false 16),
    -- tld.e2m1 t1, [g4, 0], g9, g5 and tld.bf16 t2, [g4, 0x100], g5 (R233); tgather.fp32 t4, t9, 0, [g3, 0] (R238)
    (80, 0x7319_224A_0000_0000_0000, .tld 1 .e2m1 4 9 5 0 .nf false 0),
    (80, 0x7321_2140_0000_0000_0100, .tld 2 .bf16 4 5 0 0 .nf false 0x100),
    (80, 0x7B40_9006_0000_0000_0000, .tgather 4 .fp32 9 0 3 0 false 0),
    -- tzmask g5, t9 (R241); tmma.e2m1.e2m1 a0, t1, t2 (R242); acvt.bf16.sat t3, a2, 1 (R248)
    (32, 0x7D28_9000, .tzmask 5 9), (48, 0x8200_1299_0000, .tmma 0 1 2 .e2m1 .e2m1 0 0),
    (80, 0x8740_3201_1000_0000_0001, .acvt 3 2 .bf16 .rne true 1 0 0),
    -- tadds.bf16 t2, t1, g7 (R257)
    (48, 0x9621_1380_0000, .tadds 2 1 7 .bf16 0 .rne false),
    -- tcvt.e2m1.fp32.choose t6, t5, 0 and tcvt.e4m3.fp32.sat t6, t5, 2 (R262, R263)
    (48, 0xA269_5000_1000, .tcvtChoose 6 5 .e2m1 .fp32 0 0 .rne false),
    (48, 0xA263_5020_4000, .tcvt 6 5 .e4m3 .fp32 2 0 .rne true),
    -- mset m3, g7 and mpopc g9, m2 (R264)
    (32, 0xA564_00E0, .mset 3 7), (32, 0xA506_4120, .mpopc 9 2),
    -- copy.dl g7, g8, g4 (R222); fence.device.rw (R223); freeze.device g3, g4, g5 (R227)
    (48, 0xB200_3A09_0000, .copy 7 8 4 true false), (16, 0xC078, .fence .device .rw),
    (48, 0xCA18_2158_0000, .freeze 3 4 5 .device),
    -- callat g5, g6, 2 and waitrp g7, g8, 2 (R201); mfcr g9, cr.time and trap g3, 2 (R203)
    (32, 0xD100_2988, .callat 5 6 2), (32, 0xD147_4008, .waitrp 7 8 2),
    (32, 0xE149_0200, .mfcr 9 0x020), (32, 0xE118_0002, .trap 3 2),
    -- sret 1: head 0xF200, tail 0x08 << 27 | 1 (R295)
    (48, 0xF200_4000_0001, .sret 1) ]

/-- A register form's result on 64-bit operands, or on the low halves with the result sign-extended (R182). -/
def byWidth (op : (n : Nat) → BitVec n → BitVec n → BitVec n) (wd : Width) (x y : Word) : Word :=
  match wd with
  | .x => op 64 x y
  | .w => (op 32 (x.setWidth 32) (y.setWidth 32)).signExtend 64

/-- The results of R183 at a width of n bits, in the arithmetic of bit vectors. -/
def integerForms : List ((GReg → GReg → GReg → Width → Instr) × ((n : Nat) → BitVec n → BitVec n → BitVec n)) :=
  [(.add, fun _ x y => x + y),
   (.sub, fun _ x y => x - y),
   (.and, fun _ x y => x &&& y),
   (.or, fun _ x y => x ||| y),
   (.xor, fun _ x y => x ^^^ y),
   (.andn, fun _ x y => x &&& ~~~y),
   (.shl, fun n x y => x <<< (y.toNat % n)),
   (.shr, fun n x y => x >>> (y.toNat % n)),
   (.sra, fun n x y => x.sshiftRight (y.toNat % n)),
   (.rol, fun n x y => x.rotateLeft (y.toNat % n)),
   (.ror, fun n x y => x.rotateRight (y.toNat % n)),
   (.mul, fun _ x y => x * y),
   (.mulhs, fun n x y => ((x.signExtend (2 * n) * y.signExtend (2 * n)) >>> n).setWidth n),
   (.mulhu, fun n x y => ((x.setWidth (2 * n) * y.setWidth (2 * n)) >>> n).setWidth n),
   (.divs, fun n x y => if y = 0 then BitVec.allOnes n else x.sdiv y),
   (.divu, fun n x y => if y = 0 then BitVec.allOnes n else x / y),
   (.rems, fun _ x y => if y = 0 then x else x.srem y),
   (.remu, fun _ x y => if y = 0 then x else x % y),
   (.min, fun _ x y => if x.slt y then x else y),
   (.max, fun _ x y => if x.slt y then y else x),
   (.minu, fun _ x y => if x.ult y then x else y),
   (.maxu, fun _ x y => if x.ult y then y else x),
   (.slt, fun _ x y => if x.slt y then 1 else 0),
   (.sltu, fun _ x y => if x.ult y then 1 else 0),
   (.seq, fun _ x y => if x = y then 1 else 0),
   (.sne, fun _ x y => if x = y then 0 else 1)]

/-- The immediate forms, by the register form whose result they give (R184). -/
def immediateForms : List ((GReg → GReg → BitVec 22 → Width → Instr) × ((n : Nat) → BitVec n → BitVec n → BitVec n)) :=
  [(.addi, fun _ x y => x + y),
   (.andi, fun _ x y => x &&& y),
   (.ori, fun _ x y => x ||| y),
   (.xori, fun _ x y => x ^^^ y),
   (.shli, fun n x y => x <<< (y.toNat % n)),
   (.shri, fun n x y => x >>> (y.toNat % n)),
   (.srai, fun n x y => x.sshiftRight (y.toNat % n)),
   (.rori, fun n x y => x.rotateRight (y.toNat % n)),
   (.muli, fun _ x y => x * y),
   (.slti, fun _ x y => if x.slt y then 1 else 0),
   (.sltui, fun _ x y => if x.ult y then 1 else 0),
   (.seqi, fun _ x y => if x = y then 1 else 0),
   (.mini, fun _ x y => if x.slt y then x else y),
   (.maxi, fun _ x y => if x.slt y then y else x)]

/-- Bits below n for which something holds. -/
def countBits (n : Nat) (p : Nat → Bool) : Nat := ((List.range n).filter p).length

/-- CLZ, CTZ, POPC and BSWAP of R183. -/
def unaryForms : List ((GReg → GReg → Width → Instr) × ((n : Nat) → BitVec n → BitVec n)) :=
  [(.clz, fun n x => BitVec.ofNat n (countBits n (fun i => decide (x.toNat < 2 ^ i)))),
   (.ctz, fun n x => BitVec.ofNat n (countBits n (fun i => decide (x.toNat % 2 ^ (i + 1) = 0)))),
   (.popc, fun n x => BitVec.ofNat n (countBits n (fun i => x.getLsbD i))),
   (.bswap, fun n x => BitVec.ofNat n (((List.range (n / 8)).map (fun k =>
      x.toNat / 2 ^ (8 * k) % 256 * 2 ^ (8 * (n / 8 - 1 - k)))).sum))]

/-- The base of the folio that holds a code address (R122). -/
def folioStart (a : Word) : Word := a &&& ~~~(63 : Word)

/-! Scalar floating point. -/

/-- FP32, or FP64 where d is set (R186). -/
def floatFmt (d : Bool) : Fmt := if d then .fp64 else .fp32

/-- The code that a floating register holds in a format (R68). -/
def State.floatCode (s : State) (r : FReg) (d : Bool) : Nat := if d then (s.f r).toNat else ((s.f r).setWidth 32).toNat

/-- FADD, FSUB, FMUL and FDIV on codes: the exact result on values, rounded once (R187). -/
def floatForms : List ((FReg → FReg → FReg → Round → Bool → Instr) × (Fmt → Round → Nat → Nat → Nat)) :=
  [(.fadd, fun f rm a b => addCode f rm false (f.value a) (f.value b)),
   (.fsub, fun f rm a b => addCode f rm false (f.value a) (negVal (f.value b))),
   (.fmul, fun f rm a b => resultCode f rm false (mulVal (f.value a) (f.value b))),
   (.fdiv, fun f rm a b => resultCode f rm false (divVal (f.value a) (f.value b)))]

/-- FMIN and FMAX (R187). -/
def floatExtremes : List ((FReg → FReg → FReg → Bool → Instr) × (Fmt → Nat → Nat → Nat)) :=
  [(.fmin, fun f a b => extremeCode f false a b), (.fmax, fun f a b => extremeCode f true a b)]

/-- FABS clears the sign bit of a code, and FNEG inverts it (R187). -/
def floatSigns : List ((FReg → FReg → Bool → Instr) × (Fmt → Nat → Nat)) :=
  [(.fabs, fun f a => a % 2 ^ (f.bits - 1)),
   (.fneg, fun f a => if a / 2 ^ (f.bits - 1) % 2 = 1 then a % 2 ^ (f.bits - 1) else a % 2 ^ (f.bits - 1) + 2 ^ (f.bits - 1))]

/-- The compares of R189. -/
def floatCompares : List ((GReg → FReg → Bool → Instr) × (Val → Val → Bool)) :=
  [(.fcmpeq, eqVal), (.fcmplt, ltVal), (.fcmple, leVal)]

/-- The canonical NaN of FP32 and of FP64 (R187, R252). -/
def quietNan (d : Bool) : Nat := if d then 0x7FF8_0000_0000_0000 else 0x7FC0_0000

/-! Steps. -/

/-- In a step from `s` the strand `u.cur` has its turn in the state `u`: the agenda is empty and everyone else is owed a
move, or the agenda names the strand (R45). -/
def State.turnsTo (s u : State) : Prop :=
  s.pass.agenda = [] ∧ u = { s.pass with agenda := s.pass.round } ∨
    ∃ w rest, s.pass.agenda = .strand w :: rest ∧ u = { s.pass with agenda := rest, cur := w }

/-- It is free to go on, and nothing is due at its instruction boundary. -/
def State.freeTurn (s u : State) : Prop := s.turnsTo u ∧ u.runnable u.cur = true ∧ u.boundary u.cur = none

/-! Transfers of control. -/

/-- The head at a target can be run, or the fetch of its folio faults, which is no fault of the transfer (R169, R195). -/
def State.validTarget (s : State) (a : Word) : Prop :=
  (∃ e, s.fetch s.cur a = .error e) ∨
  ∃ x, s.fetch s.cur a = .ok x ∧ a.toNat % 2 = 0 ∧ headAt x.folio (a.toNat % 64 / 2) ≠ .notAHead

/-- The target is odd, or no head (R169). -/
def State.badTarget (s : State) (a : Word) : Prop :=
  ∃ x, s.fetch s.cur a = .ok x ∧ (a.toNat % 2 = 1 ∨ headAt x.folio (a.toNat % 64 / 2) = .notAHead)

/-- Checked landing: the head at the target is an LPAD with the transfer's label, which is not 0 (R195). -/
def State.lands (s : State) (l : BitVec 16) (a : Word) : Prop :=
  s.me.mode = .user → s.resident.lpad = true → ∀ x, s.fetch s.cur a = .ok x →
    l ≠ 0 ∧ decodeAt x.folio (a.toNat % 64 / 2) = .ok (.lpad l)

/-- A head that is another, or under another label (R195). -/
def State.misses (s : State) (l : BitVec 16) (a : Word) : Prop :=
  s.me.mode = .user ∧ s.resident.lpad = true ∧ ∃ x, s.fetch s.cur a = .ok x ∧
    (l = 0 ∨ decodeAt x.folio (a.toNat % 64 / 2) ≠ .ok (.lpad l))

/-- The target of a branch: a signed number of halfwords from the folio (R174). -/
def State.branchTo (s : State) {n : Nat} (off : BitVec n) : Word := folioStart s.me.pc + off.signExtend 64 * 2

/-- The conditions of R190. -/
def condition (c : Cond) (x y : Word) : Bool :=
  match c with
  | .eq => x == y
  | .ne => x != y
  | .lt => x.slt y
  | .ge => !x.slt y
  | .ltu => x.ult y
  | .geu => !x.ult y

/-- The state with a return address pushed, where no spill is due: the errand's and the supervisor's stores hold 8, the
main strand's 32 (R34, R79, R287). -/
def State.pushed (s : State) : State :=
  let short (l : List Word) : List Word := if l.length < 8 then l ++ [s.me.npc] else l.drop 1 ++ [s.me.npc]
  s.setMe (if s.me.mode = .supervisor then { s.me with sret := short s.me.sret }
    else if s.cur.errand then { s.me with ret := short s.me.ret }
    else { s.me with ret := s.me.ret ++ [s.me.npc] })

/-- The main strand's store is full: a call spills (R79). -/
def State.mustSpill (s : State) : Bool :=
  decide (s.me.mode = .user) && !s.cur.errand && decide (32 ≤ s.me.ret.length)

/-- The store that RET pops. -/
def State.returns (s : State) : List Word := if s.me.mode = .supervisor then s.me.sret else s.me.ret

/-- The state with the newest return address popped. -/
def State.popped (s : State) : State :=
  s.setMe (if s.me.mode = .supervisor then { s.me with sret := s.me.sret.dropLast } else { s.me with ret := s.me.ret.dropLast })

/-- The state in which BRC examines its target: the main strand's rotation base has stepped back (R63, R191). -/
def State.rotated (s : State) : State :=
  if s.cur.errand then s else s.setHere { s.here with rot := s.here.rot - 1 }


/-! Loads, stores and atomics. -/

/-- No write or copy of the core is still to be performed. -/
def State.idle (s : State) : Prop := s.here.writes = [] ∧ s.here.copies = []

/-- The address that a load or a store names (R207). -/
def State.address (s : State) {n : Nat} (gb : GReg) (off : BitVec n) : Word := s.g gb + off.signExtend 64

/-- What a load leaves beside its result: translations that the TLBs learn (R311), the requests for lines of the peer device
(R363), and CR.SCOPEMISS after an acquire (R132). -/
def State.loaded (s : State) (o : Operand) (acq : Option Scope) : State :=
  ((s.learnFrom o).request [o]).acquire acq o.va o.pieces

/-- A loaded value, sign- or zero-extended (R210). -/
def extended (sx : Bool) (bs : List Byte) : Word :=
  if sx then (BitVec.ofNat (8 * bs.length) (leNat bs)).signExtend 64 else BitVec.ofNat 64 (leNat bs)

/-- The low n bytes of a value, lowest first (R116). -/
def lowBytes (n : Nat) (v : Word) : List Byte := natLe n v.toNat

/-- What a store leaves: one more write that is still to be performed, with its bytes at the places where its operand
lies (R58, R59, R211). -/
def State.stored (s : State) (o : Operand) (bs : List Byte) (rel : Option Scope) : State :=
  (s.learnFrom o).pushWrite (o.space, o.lo, o.lo + o.len) (o.segs bs) rel false

/-- A byte of physical memory belongs to an operand. -/
def Operand.coversByte (o : Operand) (a : Nat) : Prop :=
  match o.loc with
  | .mem acc => ∃ p ∈ acc.pieces, p.pa ≤ a ∧ a < p.pa + p.len
  | .store _ _ => False

/-- A byte of a local store belongs to an operand. -/
def Operand.coversStore (o : Operand) (c : CoreId) (off : Nat) : Prop :=
  match o.loc with
  | .mem _ => False
  | .store d l => d = c ∧ l.off ≤ off ∧ off < l.off + o.len

/-- Every byte outside an operand reads as before. -/
def SameOutside (o : Operand) (s t : State) : Prop :=
  (∀ a, ¬o.coversByte a → t.byteAt a = s.byteAt a) ∧
  ∀ c off, ¬o.coversStore c off → t.storeByte c off = s.storeByte c off

/-- The atomics with one source: the new value from the old one and the source, in n bits (R213). -/
def atomicForms :
    List ((GReg → Size3 → GReg → GReg → MemOrd → Bool → BitVec 32 → Instr) × ((n : Nat) → BitVec n → BitVec n → BitVec n)) :=
  [(.aswap, fun _ _ y => y),
   (.aadd, fun _ x y => x + y),
   (.aand, fun _ x y => x &&& y),
   (.aor, fun _ x y => x ||| y),
   (.axor, fun _ x y => x ^^^ y),
   (.amin, fun _ x y => if y.slt x then y else x),
   (.amax, fun _ x y => if x.slt y then y else x),
   (.aminu, fun _ x y => if y.ult x then y else x),
   (.amaxu, fun _ x y => if x.ult y then y else x)]

/-- A source of an atomic: a register's low bytes, or a register pair for 16 bytes (R212). -/
def State.source (s : State) (r : GReg) (n : Nat) : BitVec (8 * n) :=
  BitVec.ofNat (8 * n) ((s.g r).toNat + (if n = 16 then (s.g (r + 1)).toNat * 2 ^ 64 else 0))

/-- The old value in the destination, zero-extended, or in a pair; g0 discards a pair whole (R212). -/
def State.gotOld (t : State) (gd : GReg) (n old : Nat) : Prop :=
  t.holds gd (BitVec.ofNat 64 old) ∧ (n = 16 → gd.val ≠ 0 → gd.val < 31 → t.g (gd + 1) = BitVec.ofNat 64 (old / 2 ^ 64))

/-- The registers that an atomic writes. -/
def atomicWritten (gd : GReg) (sz : Size3) : List GReg := if sz = .q then [gd, gd + 1] else [gd]

/-- An atomic is performed: the operand's n bytes become `new`, as a release or not. -/
def State.swapped (s : State) (o : Operand) (new : Nat) (ord : MemOrd) : State :=
  (s.loaded o (acqScope ord)).writeNow o (natLe o.len new) (relScope ord)

/-- An atomic may be performed on an operand at once: no write over the link to its line is under way (R126). -/
def State.atomicReady (s : State) (sz : Size3) (addr : Word) (sp : Bool) (o : Operand) : Prop :=
  s.idle ∧ s.acknowledged s.cur = true ∧ addr.toNat % size3Bytes sz = 0 ∧ s.operand sp .both addr (size3Bytes sz) = .ok o ∧
    size3Bytes sz ≤ o.atomicSize ∧ (s.learnFrom o).sweepIn o = false ∧ s.sentOver o.physical = false ∧
    (s.learnFrom o).touch .both [o] = .ok ()

/-- An access of an instruction stops it: a fault of the access is the instruction's, and where the access has to be waited
for the instruction waits (R33, R60, R365). -/
def StopsWith {α : Type} (i : Instr) (s : State) (g : Got α) : Prop :=
  (∀ f, g = .fault f → Raises i s f) ∧ ∀ u w, g = .wait u w → exec i s = .next (u.setWait w)

/-! Tiles and accumulators in memory. -/

/-- The rows that a mask selects, lowest first. -/
def rowsOfMask (m : Word) : List (Fin 64) := (List.finRange 64).filter (fun i => m.getLsbD i.val)

/-- The data that a row of an operand gives to a tile row, with the padding of MXFP6 cleared (R72, R233). -/
def rowData (ty : Ty) (bs : List Byte) : Row :=
  if ty = .e2m3 ∨ ty = .e3m2 then BitVec.ofNat 2048 (leNat (bs.take 192)) else BitVec.ofNat 2048 (leNat bs)

/-- The units of the rows of TLD, TST, TLDX and TSTX that a mask selects: row i at the base plus i strides (R233). -/
def rowUnits (ty : Ty) (b : Nat) (a stride m : Word) : List MemUnit :=
  (rowsOfMask m).map (fun i => ⟨i.val, a + stride * BitVec.ofNat 64 i.val, b + dataBytes ty, a⟩)

/-- The units of all 64 rows, which a qualified move waits for (R113, R236). -/
def everyRow (ty : Ty) (b : Nat) (a stride : Word) : List MemUnit :=
  (List.finRange 64).map (fun i => ⟨i.val, a + stride * BitVec.ofNat 64 i.val, b + dataBytes ty, a⟩)

/-- Rows with whether a mask selects them: what a tile store checks (R58, R235). -/
def withMask (m : Word) (us : List MemUnit) : List (Bool × MemUnit) :=
  ((List.finRange 64).zip us).map (fun p => (m.getLsbD p.1.val, p.2))

/-- The rows that a mask selects among the operands of all 64, with their operands. -/
def picked (m : Word) (os : List Operand) : List (Fin 64 × Operand) :=
  ((List.finRange 64).zip os).filter (fun p => m.getLsbD p.1.val)

/-- Where an operand in a local store lies. -/
def Operand.store (o : Operand) : Option (CoreId × Nat × Nat) :=
  match o.loc with
  | .mem _ => none
  | .store c l => some (c, l.off, o.len)

/-- No two operands share a granule of a local store (R111). -/
def Apart (os : List Operand) : Prop :=
  os.Pairwise (fun o p => ∀ c a n d b m, o.store = some (c, a, n) → p.store = some (d, b, m) →
    c = d → ∀ g ∈ granules a n, g ∉ granules b m)

/-- Every granule of an operand in a local store is FULL, or every one is EMPTY. -/
def State.rowFull (s : State) (o : Operand) : Bool := o.store.all (fun p => (s.core p.1).allFull p.2.1 p.2.2)

def State.rowEmpty (s : State) (o : Operand) : Bool := o.store.all (fun p => (s.core p.1).allEmpty p.2.1 p.2.2)

/-- The granules of an operand become EMPTY by a row of a tile move, whose task claims them. -/
def State.takeRow (s : State) (o : Operand) : State :=
  match o.store with
  | some (c, a, n) => (s.mapCore c (·.setFull a n false)).claim c a n
  | none => s

/-- Bytes put into an operand in a local store by a row of a tile move, whose granules become FULL and its task's claim. -/
def State.putRow (s : State) (o : Operand) (bs : Option (List Byte)) : State :=
  match o.store with
  | some (c, a, n) => (s.mapCore c (fun k => (match bs with
      | some b => k.writeLocal a b false
      | none => k).setFull a n true)).claim c a n
  | none => s

/-- The units of their scales, for TLD and TST of a scaled type. -/
def scaleUnits (ty : Ty) (gx m : Word) : List MemUnit :=
  if ty.scaled then (rowsOfMask m).map (fun i =>
    ⟨64, gx + BitVec.ofNat 64 (scaleBytes ty) * BitVec.ofNat 64 i.val, scaleBytes ty, gx⟩) else []

/-- The units of the scales of all 64 rows. -/
def everyScale (ty : Ty) (gx : Word) : List MemUnit :=
  if ty.scaled then (List.finRange 64).map (fun i =>
    ⟨64, gx + BitVec.ofNat 64 (scaleBytes ty) * BitVec.ofNat 64 i.val, scaleBytes ty, gx⟩) else []

/-- What a tile store writes for its selected rows, and for their scales (R235). -/
def rowParts (t : Tile) (ty : Ty) (b : Nat) (m : Word) (os : List Operand) : List (Operand × List Byte) :=
  (picked m os).map (fun p => (p.2, storedRow t ty b p.1))

def scaleParts (t : Tile) (ty : Ty) (m : Word) (xs : List Operand) : List (Operand × List Byte) :=
  (picked m xs).map (fun p => (p.2, natLe (scaleBytes ty) t.side[p.1].toNat))

/-- A tile store pushes one write for its parts, if it has any. -/
def State.pushParts (u : State) (range : List (Space × Nat × Nat)) (ps : List (Operand × List Byte)) : State :=
  if ps = [] then u else u.pushRows range ps

/-- The range of the scales of a tile move (R237). -/
def State.scaleRange (s : State) (sp : Bool) (ty : Ty) (gx : Word) : List (Space × Nat × Nat) :=
  s.rangeOf sp gx (BitVec.ofNat 64 (scaleBytes ty)) 64 (scaleBytes ty)


/-! Elements of tiles and accumulators. -/

/-- What a form that writes elements leaves in td: each element of a selected row, the rows that are merged, and a sidecar of
zeros (R73, R251). -/
def Elements (s t : State) (td : TReg) (ty : Ty) (m : MReg) (f : Fin 64 → Nat → Nat) : Prop :=
  ∀ i : Fin 64,
    ((s.mask m).getLsbD i.val = true → ∀ k, k < ty.elems → (t.tile td).code ty i k = f i k % 2 ^ typeBits ty) ∧
    ((s.mask m).getLsbD i.val = false → (t.tile td).rows[i] = (s.tile td).rows[i]) ∧ (t.tile td).side[i] = 0

/-- An instruction that writes one tile. -/
def WritesTile (i : Instr) (s : State) (td : TReg) (P : State → Prop) : Prop :=
  Completes i s { t := [tileSlot s.here.rot td] } P

/-- The low byte of an exact integer, clamped or not (R254). -/
def byteOf (sat : Bool) (v : Int) : Nat := ((if sat then max (-128) (min v 127) else v) % 256).toNat

/-- A signed byte. -/
def signed8 (c : Nat) : Int := (BitVec.ofNat 8 c).toInt

/-- TADD, TSUB, TMUL and their scalar forms: integers for .i8, else the rounded result on values (R254). -/
def roundedForms : List ((TReg → TReg → TReg → Ty → MReg → Round → Bool → Instr) ×
    (TReg → TReg → GReg → Ty → MReg → Round → Bool → Instr) × (Ty → Round → Bool → Nat → Nat → Nat)) :=
  [(.tadd, .tadds, fun ty rm sat a b => if ty = .i8 then byteOf sat (signed8 a + signed8 b)
      else addCode (Ty.fmt ty) rm sat ((Ty.fmt ty).value a) ((Ty.fmt ty).value b)),
   (.tsub, .tsubs, fun ty rm sat a b => if ty = .i8 then byteOf sat (signed8 a - signed8 b)
      else addCode (Ty.fmt ty) rm sat ((Ty.fmt ty).value a) (negVal ((Ty.fmt ty).value b))),
   (.tmul, .tmuls, fun ty rm sat a b => if ty = .i8 then byteOf sat (signed8 a * signed8 b)
      else resultCode (Ty.fmt ty) rm sat (mulVal ((Ty.fmt ty).value a) ((Ty.fmt ty).value b)))]

/-- The larger or the smaller of two codes (R254). -/
def extreme (max : Bool) (ty : Ty) (a b : Nat) : Nat :=
  if ty = .i8 then (if signed8 a < signed8 b then (if max then b else a) else (if max then a else b))
  else extremeCode (Ty.fmt ty) max a b

/-- A compare of two codes (R256). -/
def allOnesIf (ty : Ty) (r : Bool) : Nat := if r then 2 ^ typeBits ty - 1 else 0

/-- The forms of two operands that take a type and a mask only (R254 to R256). -/
def plainForms : List ((TReg → TReg → TReg → Ty → MReg → Instr) × (Ty → Nat → Nat → Nat)) :=
  [(.tmin, extreme false),
   (.tmax, extreme true),
   (.tand, fun _ a b => a &&& b),
   (.tor, fun _ a b => a ||| b),
   (.txor, fun _ a b => a ^^^ b),
   (.tshl, fun ty a b => a * 2 ^ (b % typeBits ty)),
   (.tshr, fun ty a b => a / 2 ^ (b % typeBits ty)),
   (.tsra, fun ty a b => ((BitVec.ofNat (typeBits ty) a).sshiftRight (b % typeBits ty)).toNat),
   (.tcmpeq, fun ty a b => allOnesIf ty (eqVal ((Ty.fmt ty).value a) ((Ty.fmt ty).value b))),
   (.tcmplt, fun ty a b => allOnesIf ty (ltVal ((Ty.fmt ty).value a) ((Ty.fmt ty).value b))),
   (.tcmple, fun ty a b => allOnesIf ty (leVal ((Ty.fmt ty).value a) ((Ty.fmt ty).value b))),
   (.tcmpun, fun ty a b => allOnesIf ty (((Ty.fmt ty).value a).isNan || ((Ty.fmt ty).value b).isNan))]

/-- The approximations of R96 to R98. -/
def approximations : List ((TReg → TReg → Ty → MReg → Instr) × (Nat → Nat)) :=
  [(.texp2, approxExp2), (.trcp, approxRcp), (.trsq, approxRsqrt)]

/-- The codes of a row, of a column over the selected rows in ascending order. -/
def rowList (t : Tile) (ty : Ty) (i : Fin 64) : List Nat := (List.range ty.elems).map (t.code ty i)

def columnList (t : Tile) (ty : Ty) (m : Word) (k : Nat) : List Nat := (rowsOfMask m).map (fun i => t.code ty i k)

/-- Extremes over a list (R260). -/
def extremeOf (max : Bool) (ty : Ty) (l : List Nat) : Nat :=
  if ty = .i8 then
    match l with
    | [] => if max then 0x80 else 0x7F
    | c :: rest => rest.foldl (extreme max ty) c
  else
    match l.filter (fun c => !((Ty.fmt ty).isNan c)) with
    | [] => canonical (Ty.fmt ty)
    | c :: rest => rest.foldl (extreme max ty) c

/-- The sum of a list in the tree of R260, and the second rounding of .bf16 and .fp16. -/
def sumOf (ty : Ty) (rm : Round) (l : List Nat) : Nat :=
  let v := treeSum (l.map (fun c => convert (Ty.fmt ty) .fp32 c .rne false))
  if ty = .fp32 then v else convert .fp32 (Ty.fmt ty) v rm false

/-- The extreme reductions (R258, R259): the row form, the column form, and which extreme they take. -/
def extremeReductions : List ((TReg → TReg → Ty → MReg → Instr) × (TReg → TReg → Ty → MReg → Instr) × Bool) :=
  [(.trmax, .tcmax, true), (.trmin, .tcmin, false)]

/-- What a column reduction leaves in td: row 0, and 63 rows of zeros (R259). -/
def Column (s t : State) (td ta : TReg) (ty : Ty) (m : MReg) (f : List Nat → Nat) : Prop :=
  (∀ k, k < ty.elems → (t.tile td).code ty 0 k = f (columnList (s.tile ta) ty (s.mask m) k) % 2 ^ typeBits ty) ∧
  (∀ i : Fin 64, i ≠ 0 → (t.tile td).rows[i] = 0) ∧ ∀ i : Fin 64, (t.tile td).side[i] = 0

/-! Conversions. -/

/-- The value of an element under its block's scale (R84). -/
def tileValue (t : Tile) (ty : Ty) (i : Fin 64) (k : Nat) : Val := elementValue ty (scaleAt t.side[i] (k / 32)) (t.code ty i k)

/-- The source element that part h of a conversion puts at target element k (R263). -/
def sourceOf (ty tys : Ty) (h k : Nat) : Option Nat :=
  if tys.elems ≤ ty.elems then
    if tys.elems * h ≤ k ∧ k < tys.elems * (h + 1) then some (k - tys.elems * h) else none
  else some (ty.elems * h + k)

/-- What a conversion of the values `v` (none: merged) leaves in td; `scale` is the scale of a block of a scaled type. -/
def Converted (s t : State) (td : TReg) (ty : Ty) (m : MReg) (rm : Round) (sat : Bool) (v : Fin 64 → Nat → Option Val)
    (scale : Fin 64 → Nat → Nat) : Prop :=
  ∀ i : Fin 64,
    ((s.mask m).getLsbD i.val = false → (t.tile td).rows[i] = clearPadding ty (s.tile td).rows[i] ∧
      (t.tile td).side[i] = clearScales ty (s.tile td).side[i]) ∧
    ((s.mask m).getLsbD i.val = true → clearPadding ty (t.tile td).rows[i] = (t.tile td).rows[i] ∧
      clearScales ty (t.tile td).side[i] = (t.tile td).side[i] ∧ ∀ k, k < ty.elems →
      match v i k with
      | none => (t.tile td).code ty i k = (s.tile td).code ty i k ∧
          (ty.scaled = true → scaleAt (t.tile td).side[i] (k / 32) = scaleAt (s.tile td).side[i] (k / 32))
      | some x =>
        if ty.scaled then
          (t.tile td).code ty i k = encodeScaled ty (scale i (k / 32)) x rm sat % 2 ^ typeBits ty ∧
            scaleAt (t.tile td).side[i] (k / 32) = scale i (k / 32) % 256
        else (t.tile td).code ty i k = encodeVal (Ty.fmt ty) x rm sat % 2 ^ typeBits ty)

/-- The scale that R91 chooses for a block, from its 32 values. -/
def chosenScale (ty : Ty) (v : Fin 64 → Nat → Option Val) (i : Fin 64) (b : Nat) : Nat :=
  chooseScale ty ((List.range 32).filterMap (fun j => v i (32 * b + j)))

/-! Accumulators. -/

/-- What a form that writes an accumulator leaves in it: each element that both masks select, and the others as they were
(R244). -/
def AccElements (s t : State) (ad : AReg) (mr mc : MReg) (f : Fin 64 → Fin 64 → Nat) : Prop :=
  ∀ i j : Fin 64, accCode (t.acc ad) i j =
    if (s.mask mr).getLsbD i.val && (s.mask mc).getLsbD j.val then f i j % 2 ^ 32 else accCode (s.acc ad) i j

/-- The values of a tile row. -/
def valuesOf (t : Tile) (ty : Ty) (i : Fin 64) : List Val := (List.range ty.elems).map (tileValue t ty i)

/-- The sum that a saturating INT32 accumulator takes (R104). -/
def int32Of (v : Int) : Nat := ((max (-(2 ^ 31)) (min v (2 ^ 31 - 1))) % 2 ^ 32).toNat

def signed32 (c : Nat) : Int := (BitVec.ofNat 32 c).toInt

/-- The row pairs of a TMMA one of whose operand rows is a zero row (R64, R65). -/
def zeroPairs (s : State) (ta tb : TReg) (mr mc : MReg) : Nat :=
  (((rowsOfMask (s.mask mr)).map (fun i => ((rowsOfMask (s.mask mc)).filter (fun j =>
    decide ((s.tile ta).rows[i] = 0 ∨ (s.tile tb).rows[j] = 0))).length)).sum)

/-- The tile lies in the accumulator's columns that part h of ACVT converts, and a mask selects the column (R247). -/
def acvtSource (s : State) (as : AReg) (ty : Ty) (h : Fin 8) (mc : MReg) (i : Fin 64) (k : Nat) : Option Val :=
  if 64 * h.val ≤ k ∧ k < 64 * h.val + 64 ∧ (s.mask mc).getLsbD (k - 64 * h.val) = true then
    some (if ty = .i8 ∨ ty = .i32 then .ofRat ((signed32 (accCode (s.acc as) i (Fin.ofNat 64 (k - 64 * h.val))) : Int) : Rat)
      else Fmt.fp32.value (accCode (s.acc as) i (Fin.ofNat 64 (k - 64 * h.val))))
  else none


/-! Forms that put earlier writes first. -/

/-- The strand's earlier writes can all be performed, and `u` is the state once they are (R58, R129); a `wide` form also
finds its writes over the link acknowledged (R364). -/
def State.drainsTo (s u : State) (wide : Bool) : Prop :=
  u = s.drainStrand s.cur ∧ u.drained s.cur = true ∧ (wide = true → u.acknowledged s.cur = true)

/-- The same for a form that acts as a fence.span.rw or wider: what it reads and what follows it comes after the reads of
earlier copies (R126, R154, R155, R286, R295). -/
def State.fencesTo (s u : State) : Prop :=
  ∃ v : State, s.drainsTo v true ∧ u = v.setMe { v.me with rfloor := v.here.order }

/-- A copy is outstanding, in the open batch, with the ranges of both sides (R55, R216). -/
def State.withCopy (s : State) (form : CopyForm) (dst src : Word) (d : Vector Word 3) (dsp ssp : Bool) (os xs : List Operand) :
    State :=
  s.setHere { s.here with
    order := s.here.order + 1
    copies := s.here.copies ++ [{ dst := dst, src := src, dsc := d, form := form, dsp := dsp, ssp := ssp, batch := none,
                                  pieces := 0, failed := false, srange := s.copyRange ssp src d d[1], drange := s.copyRange dsp dst d d[2],
                                  sphys := os.flatMap Operand.physical, dphys := xs.flatMap Operand.physical,
                                  seq := s.here.order, floor := s.me.wfloor, rfloor := s.me.rfloor }] }

/-- What a COPY or COPYR needs to retire: a block of some bytes, on both sides readable or writable, and a free place
among 64 copies that are outstanding or failed and not yet reported (R216, R217, R329). -/
def State.copyReady (s : State) (dst src : Word) (d : Vector Word 3) (dsp ssp : Bool) (os xs : List Operand) : Prop :=
  emptyBlock d = false ∧ s.units ssp .early (blockUnits d src d[1]) = .ok os ∧
    s.units dsp .write (blockUnits d dst d[2]) = .ok xs ∧
    (∀ o ∈ os, (s.learnAll (os ++ xs)).dataFault .early o = none) ∧
    s.here.copies.length + (s.here.batches.map (·.failed.length)).sum < 64

/-- The open batch is sealed under the batch counter (R221). -/
def Core.sealed (k : Core) : Core :=
  { k with
    copies := k.copies.map (fun x => if x.batch = none then { x with batch := some k.batchCtr } else x)
    batches := k.batches.map (fun b => if b.num = none then { b with num := some k.batchCtr } else b)
    batchCtr := k.batchCtr + 1 }

/-- The failed batches that are sealed and have no copy outstanding (R217). -/
def Core.failedBatches (k : Core) : List Batch :=
  k.batches.filter (fun b => b.num.isSome && !k.unfinished.any (fun u => b.num == some u))

/-! Barrier cells. -/

/-- A cell after an arrival: the last one that it expects ends the phase (R41). -/
def arrivedCell (c : BarCell) : BarCell :=
  if c.arrived + 1 = c.expect then { c with arrived := 0, phase := c.phase + 1 } else { c with arrived := c.arrived + 1 }

/-- An operand of a barrier instruction names a cell of a gang, found at a place (R225). -/
def State.cellFound (s : State) (v : Word) (foreign : Bool) (k : GangKey) (n : CellName) (p : Place) : Prop :=
  cellName v foreign = some n ∧ s.cellPlace k n.cell = some p

/-- A cache takes part in the sweep of a frame: its die or the peer device is in FDOM, and it can answer (R153, R156). -/
def State.swept (s : State) (f : Nat) (k : CacheId) : Prop :=
  match k with
  | .slice n => (if n.val / 32 = 0 then (s.frame f).die0 else (s.frame f).die1) = true
  | .core c => (if c.val / 128 = 0 then (s.frame f).die0 else (s.frame f).die1) = true ∧ (s.core c).asleep = false
  | .peer => (s.frame f).peer = true ∧ s.link.state = .up

/-! The end of a task and of an errand. -/

/-- EXIT has retired and the task has ended (R28). -/
def State.exited (u : State) : State :=
  u.retire.setHere { u.retire.here with task := u.retire.here.task.map (fun r => { r with ended := true }) }

/-- A task of a gang has ended or been killed (R29). -/
def State.over (s : State) (g : Gang) (p : Nat) : Prop := p ∈ g.dead ∨ ∃ x, g.peers[p]? = some x ∧ s.taskEnded x = true

/-- No errand of a gang's tasks is in progress or queued, but for a core's own; a saved task's area tells (R331, R332). -/
def State.errandless (s : State) (g : Gang) (but : Option CoreId) : Prop :=
  ∀ (p : Nat) (x : Place), g.peers[p]? = some x → match x with
    | .core c => some c = but ∨ (s.core c).run = none ∧ (s.core c).mbox = []
    | .saved pa => p ∈ g.dead ∨ (leNat (s.mem.cells.read (pa + 0x38) 8)) % 2 = 0 ∧ leNat (s.mem.cells.read (pa + 0x2160) 8) = 0

/-- A gang has retired: it is out of the schedule, its cores are free, and its launch counts it, or completes (R29, R353). -/
def State.releases (t : State) (g : Gang) (l : Launch) : Prop :=
  (∀ h ∈ t.sched.gangs, h.key ≠ g.key) ∧
  (∀ c ∈ g.cores, (t.core c).task = none ∧ (t.core c).held = false ∧ (t.core c).halting = false) ∧
  (l.retired + 1 + l.killed ≠ l.gangs → t.launch l.id = some { l with retired := l.retired + 1 }) ∧
  (l.retired + 1 + l.killed = l.gangs → t.launch l.id = none)

/-- The registers of an errand that starts: g1 to g3 name its caller's peer, gang and slot, g10 to g13 hold its arguments
(R35). -/
def errandRegs (e : ErrandMsg) (r : GReg) : Word :=
  match r.val with
  | 1 => BitVec.ofNat 64 e.caller.peer
  | 2 => BitVec.ofNat 64 e.caller.key.gang
  | 3 => BitVec.ofNat 64 e.caller.slot.val
  | 10 => e.args[0]
  | 11 => e.args[1]
  | 12 => e.args[2]
  | 13 => e.args[3]
  | _ => 0

/-! Reads and writes of control registers. -/

/-- CR.SSTATUS to CR.SDELEG, in the order of their numbers from 0x100 on; CR 0x109 to 0x10F are not assigned (R292). -/
def Strand.exceptionRegs (t : Strand) : List Word :=
  [t.sstatus, t.sepc, t.svec, t.scause, t.sfaddr, t.sfinfo, t.sarg, t.sscratch, t.sdeleg]

/-- Numbers of control registers and what they read in the main strand of a task (R75 to R78, R80, R292, R294). -/
def State.userRegs (s : State) (r : Resident) : List (Nat × Word) :=
  [(0x001, BitVec.ofNat 64 ((if r.spanned then 0x100 else 0) + 7)), (0x002, 0x0810_2040),
   (0x010, BitVec.ofNat 64 r.peer), (0x011, BitVec.ofNat 64 r.key.gang), (0x012, BitVec.ofNat 64 r.peers),
   (0x013, BitVec.ofNat 64 r.depth), (0x020, s.clock), (0x021, s.here.codegen.setWidth 64),
   (0x030, if s.cur.errand then 0 else BitVec.ofNat 64 s.here.rot.val), (0x031, s.here.main.rspill),
   (0x032, BitVec.ofNat 64 (if s.cur.errand then s.me.ret.length else s.me.spilled.toNat * 2 ^ 32 + s.me.ret.length)),
   (0x040, s.here.scopemiss), (0x041, s.here.fcause)]

/-- The privileged registers that describe the task and the core (R76, R148, R292). -/
def State.placeRegs (s : State) (r : Resident) : List (Nat × Word) :=
  [(0x110, BitVec.ofNat 64 (r.part.toNat * 2 ^ 16 + r.ctx.toNat)), (0x111, r.ptroot),
   (0x112, (s.partQuires s.cur.core).setWidth 64),
   (0x113, BitVec.ofNat 64 (s.cur.core.val / 128 * 2 ^ 8 + s.cur.core.val)), (0x120, s.cg.setWidth 64),
   (0x121, r.policy.setWidth 64)]

/-- The numbers of the control registers that are assigned (R75, R76, R292, R294). -/
def assignedNumbers : List Nat :=
  [0x001, 0x002, 0x010, 0x011, 0x012, 0x013, 0x020, 0x021, 0x030, 0x031, 0x032, 0x040, 0x041] ++
    (List.range 9).map (0x100 + ·) ++ [0x110, 0x111, 0x112, 0x113, 0x120, 0x121] ++ (List.range 7).map (0x140 + ·) ++
    (List.range 15).map (0x181 + ·)

/-- A control register may be used by the strand: it is assigned, and not privileged in user mode (R74, R292). -/
def State.crOpen (s : State) (n : Nat) : Prop := (s.readCr n).isSome = true ∧ (s.me.mode = .user → n < 0x100)


/-! Supervisor forms and the steps of a core. -/

/-- The wait of a barrier instruction on its cell is over. -/
def State.leftCell (s : State) : State :=
  s.setHere { s.here with barPhase := none, barCell := none, barLost := false }

/-- The policy of a level: 0 the task, 1 the gang, 2 the launch, 3 the queue, two bits each (R47, R292). -/
def policyAt (policy : BitVec 8) (n : Nat) : Nat := policy.toNat / 4 ^ n % 4

/-- The lowest level that decides, with its policy: 1 RETRY, where a retry is possible, 2 KILL_SELF, 3 KILL_PARENT; a
level of policy 0 ignores (R48). -/
def decidedBy (policy : BitVec 8) (retry : Bool) : Option (Nat × Nat) :=
  ((List.range 4).map (fun n => (n, policyAt policy n))).find? (fun x => x.2 != 0 && (retry || x.2 != 1))

/-- The unit that a level's policy kills: KILL_SELF its own, KILL_PARENT the next larger one (R47). -/
def killedBy (r : Resident) (q : QueueId) (n p : Nat) : KillTarget :=
  match (if p = 2 then n else n + 1) with
  | 0 => .task r.key r.peer
  | 1 => .gang r.key
  | 2 => .launch r.key.launch
  | 3 => .queue q
  | _ => .context r.ctx

/-- The record of a fault (R321): CAUSE, KIND, LEVEL, POLICY, CORE, PEER and GANG; CTX, PART, QUEUE and INFO; bits 56:1 of an
address as PC; ADDR. -/
def recordAt (s : State) (w : Who) (f : FaultInfo) (r : Resident) (n p : Nat) (pc : Word) : Word × Word × Word × Word :=
  (BitVec.ofNat 64 (f.cause.code * 2 ^ 56 + f.kind.toNat * 2 ^ 52 + n * 2 ^ 49 + p * 2 ^ 47 + w.core.val * 2 ^ 39
      + r.peer * 2 ^ 31 + r.key.gang),
    BitVec.ofNat 64 (r.ctx.toNat * 2 ^ 52 + r.part.toNat * 2 ^ 49 + ((s.launch r.key.launch).map (·.queue.val)).getD 0 * 2 ^ 44
      + f.info.toNat),
    pc &&& 0x01FF_FFFF_FFFF_FFFE, f.addr)

/-- The record of a fault at the strand's own address. -/
def unitRecord (s : State) (w : Who) (f : FaultInfo) (r : Resident) (n p : Nat) : Word × Word × Word × Word :=
  recordAt s w f r n p (s.strand w).pc

/-- The core's caches hold nothing that `bad` names, and its check epoch has advanced (R298, R313). -/
def Core.cleared (k : Core) (tlb : TlbEntry → Bool) (walk : WalkEntry → Bool) : Core :=
  { k with
    tlb := k.tlb.filter (fun e => !tlb e)
    itlb := k.itlb.filter (fun e => !tlb e)
    walks := k.walks.filter (fun e => !walk e)
    epoch := k.epoch + 1 }

/-- Earlier writes of the strand are performed, then the retired accesses of a context, those sent over the link too, and
none is left that uses a removed translation (R120, R295, R298). -/
def State.settlesContext (s v u : State) (ctx : Word) : Prop :=
  s.fencesTo v ∧ ctx.toNat ≤ 4095 ∧ u = v.drainContext ctx.toNat ∧
    (∀ c : CoreId, (u.core c).usesContext ctx.toNat = false) ∧
    ∀ x ∈ u.link.unacked, ∀ c, x.core = some c → (u.core c).task.map (·.ctx.toNat) ≠ some ctx.toNat

/-- Every core changed in one way. -/
def State.everyCore (s : State) (f : Core → Core) : State := { s with cores := s.cores.map f }

/-- A range of pages: from the page of an address, `n` pages (R298). -/
def pagesHit (va size lo n : Nat) : Bool := decide (va < lo / 0x8000 * 0x8000 + n * 0x8000 ∧ lo / 0x8000 * 0x8000 < va + size)

/-- A TLB entry of a context in a range of pages; a walk-cache entry likewise. -/
def tlbHits (ctx : Word) (lo : Word) (n : Nat) (e : TlbEntry) : Bool :=
  decide (e.ctx.toNat = ctx.toNat) && pagesHit e.va (2 ^ e.bits) lo.toNat n

def walkHits (ctx : Word) (lo : Word) (n : Nat) (e : WalkEntry) : Bool :=
  decide (e.ctx.toNat = ctx.toNat) && pagesHit (e.tag * 2 ^ levelLow e.level) (2 ^ levelLow e.level) lo.toNat n

/-- What an event makes of a state: `exec` answers a next state of which `P` holds. -/
def Becomes (i : Instr) (s : State) (P : State → Prop) : Prop := ∃ t, exec i s = .next t ∧ P t


/-! Copies: what a piece does. -/

/-- Two operands have a byte in common. -/
def Operand.shares (o p : Operand) : Prop :=
  (∃ a, o.coversByte a ∧ p.coversByte a) ∨ ∃ c off, o.coversStore c off ∧ p.coversStore c off

/-- The pieces of an operand in memory do not overlap: no two of its pages lie at one frame. -/
def Operand.simple (o : Operand) : Prop :=
  o.pieces.Pairwise (fun p q => p.pa + p.len ≤ q.pa ∨ q.pa + q.len ≤ p.pa)

/-- The access tables let a copy write an operand, and read it for a COPYR (R316, R317). -/
def State.copyGrants (s : State) (m : Master) (form : CopyForm) (o : Operand) : Prop :=
  ∀ a, o.coversByte a → s.granted m a .write = true ∧ (form ≠ .copy → s.granted m a .read = true)

/-- The element that a copy leaves, from the old one and that of the source (R216, R218). -/
def copiedElement (form : CopyForm) (old a : Nat) : Nat :=
  match form with
  | .copy => a
  | .fp32 => addCode .fp32 .rne false (Fmt.fp32.value old) (Fmt.fp32.value a)
  | .fp32Lossy => addCode .fp32 .rne false (Fmt.fp32.value old)
      (Fmt.fp32.value (convert .bf16 .fp32 (convert .fp32 .bf16 a .rne false) .rne false))
  | .bf16 => addCode .bf16 .rne false (Fmt.bf16.value old) (Fmt.bf16.value a)

/-- The bytes of an element: 1 for a COPY (R218). -/
def elementBytes : CopyForm → Nat
  | .copy => 1 | .fp32 | .fp32Lossy => 4 | .bf16 => 2

/-- Element `i` of an operand. -/
def State.element (s : State) (form : CopyForm) (o : Operand) (i : Nat) : Nat :=
  leNat (((s.bytesAt o).drop (i * elementBytes form)).take (elementBytes form))

/-- Both sides of every part of a copy's next piece are found (R216). -/
def State.pieceSides (s : State) (c : CoreId) (x : CopyOp) (ps : List (Operand × Operand)) : Prop :=
  (pieceParts x x.pieces).map (fun p =>
      (s.copySide c x.ssp .lateRead p.1 p.2.2,
        s.copySide c x.dsp (if x.form = .copy then .lateWrite else .lateBoth) p.2.1 p.2.2)) =
    ps.map (fun p => (some (.ok p.1), some (.ok p.2)))

/-! Kills and records. -/

/-- A record that names no core: CAUSE, KIND, LEVEL and GANG; CTX, PART and QUEUE; no ROW, LEVEL and REASON; PC and ADDR
0 (R321). -/
def Describes (r : Word × Word × Word × Word) (cause kind level gang ctx part queue : Nat) : Prop :=
  r.1.toNat / 2 ^ 56 = cause ∧ r.1.toNat / 2 ^ 52 % 2 ^ 4 = kind ∧ r.1.toNat / 2 ^ 49 % 2 ^ 3 = level ∧
    r.1.toNat / 2 ^ 24 % 2 ^ 23 = 0 ∧ r.1.toNat % 2 ^ 24 = gang ∧
    r.2.1.toNat / 2 ^ 52 = ctx ∧ r.2.1.toNat / 2 ^ 49 % 2 ^ 3 = part ∧ r.2.1.toNat / 2 ^ 44 % 2 ^ 5 = queue ∧
    r.2.1.toNat % 2 ^ 44 = 0xFFFC ∧ r.2.2 = (0, 0)

/-- Nothing stands in the way of a kill: no strand that it reaches is in supervisor mode (R289), and every write that they
have retired is performed, over the link too (R49). -/
def State.killsAtOnce (s : State) (k : KillTarget) : Prop :=
  ∀ c ∈ s.killedCores k, (s.core c).main.mode = .user ∧ (s.core c).err.mode = .user ∧ (s.core c).writes = [] ∧
    ∀ u ∈ s.link.unacked, u.core ≠ some c

/-- A cell of a gang one of whose tasks is killed (R44). -/
def loweredCell (c : BarCell) : BarCell :=
  if c.expect = 0 then c
  else if c.expect = 1 then { c with expect := 0, arrived := 0 }
  else if c.arrived.toNat + 1 < c.expect.toNat then { c with expect := c.expect - 1 }
  else { expect := c.expect - 1, arrived := 0, phase := c.phase + 1 }

/-- A dirty line has lost its data: its 128 bytes are zeros, good data from then on, the line is dirty no more, and nothing
else has changed (R324). -/
def LineLost (s : State) (line : Nat) (t : State) : Prop :=
  (∀ a, (line * 128 ≤ a ∧ a < line * 128 + 128 → t.byteAt a = 0) ∧
    (a < line * 128 ∨ line * 128 + 128 ≤ a → t.byteAt a = s.byteAt a)) ∧
  line ∉ t.mem.ecc ∧ (∀ l, l ≠ line → (l ∈ t.mem.ecc ↔ l ∈ s.mem.ecc)) ∧
  t.mem.masters = s.mem.masters.filter (fun p => p.1 != line) ∧
  { t.mem with cells := s.mem.cells, ecc := s.mem.ecc, masters := s.mem.masters } = s.mem ∧ { t with mem := s.mem } = s

/-- The callers of a killed task's errands hear of it: FAULTED with the cause for the one in progress, unless it has
replied, and ABSENT for the queued ones (R49). -/
def State.answersCallers (s t : State) (c : CoreId) (cause : Nat) : Prop :=
  (∀ r, (s.core c).run = some r → r.replied = false → ⟨r.caller, .faulted, BitVec.ofNat 64 cause⟩ ∈ t.replies) ∧
  ∀ e ∈ (s.core c).mbox, ⟨e.caller, .absent, 0⟩ ∈ t.replies

/-! The scheduler, the host, the link and the management processor. -/

/-- A context that an enabled queue names, and a partition that one names. -/
def State.ctxEnabled (s : State) (ctx : BitVec 12) : Bool :=
  (List.finRange 32).any (fun q => (s.queueAt q).enable && decide ((s.queueAt q).ctx = ctx))

def State.partBusy (s : State) (p : BitVec 3) : Bool :=
  (List.finRange 32).any (fun q => (s.queueAt q).enable && decide ((s.queueAt q).part = p))

/-- What the checks of a CONFIG command look at (R369). -/
def State.confCheck (s : State) (es : List ConfEntry) : ConfCheck :=
  ⟨s.ctxEnabled, s.partBusy, s.conf, es.foldl Conf.apply s.conf⟩

/-- A flit of a KIND passes its checks (R360). -/
def State.carries (s : State) (h : BitVec 96) (kind : Nat) : Prop :=
  s.link.state = .up ∧ h.toNat % 2 ^ 56 = 0 ∧ flitKind h = kind

/-- It is the next in sequence (R361). -/
def State.inSequence (s : State) (h : BitVec 96) (kind : Nat) : Prop := s.carries h kind ∧ flitSeq h = s.link.expect

/-- The entries of the replay buffer that a header does not acknowledge (R361). -/
def Link.unackedFlits (l : Link) (h : BitVec 96) : List Flit := l.replay.filter (fun f => !seqCovers (flitAck h) f.seq)

/-- A read through BAR2 completes with Completer Abort, which is recorded (R354, R356). -/
def State.aborts (s : State) (a : Nat) : State :=
  { s with hostReads := s.hostReads ++ [⟨2, a, none⟩], port := { s.port with completerAbort := true } }

/-- The newest entry of the event log is of KIND 15 and names a master and a physical address (R317, R375); its layout is the
model's choice (log entry 102). -/
def State.logsDenial (t : State) (m : Master) (pa : Nat) : Prop :=
  ∃ target, t.mgmt.log.getLast? =
    some (0x00F0_0000_0000_0000, BitVec.ofNat 64 (m.part.toNat * 2 ^ 12 + m.ctx.toNat), target, BitVec.ofNat 64 pa)

/-- It names a state of the link: 0 DOWN, 1 TRAINING, 2 UP, the model's layout (log entry 117). -/
def State.logsLink (t : State) (n : Nat) : Prop :=
  t.mgmt.log.getLast? = some (0x00F0_0000_0000_0000, BitVec.ofNat 64 n, 0, 0)

/-- The bytes from an address on are these, and every other byte is as it was. -/
def Stored (s t : State) (pa : Nat) (bs : List Byte) : Prop :=
  (∀ j, j < bs.length → t.byteAt (pa + j) = bs.getD j 0) ∧
  (∀ a, a < pa ∨ pa + bs.length ≤ a → t.byteAt a = s.byteAt a) ∧ ∀ c off, t.storeByte c off = s.storeByte c off

/-- The home of a transaction is device memory inside one line, where the access table grants the master its access. -/
def State.homeGrants (s : State) (m : Master) (pa n : Nat) (r : Right) : Prop :=
  s.linkReady = true ∧ inLine pa n = true ∧ s.granted m pa r = true

/-- No frame bit stands in the way of a write. -/
def State.homeOpen (s : State) (pa : Nat) : Prop := (s.attrAt pa).fcount = 0 ∧ (s.attrAt pa).sweep = false

/-- The freeze events of this device over the frame of an address that the peer device has not acknowledged: what it sent
before its acknowledgement may have passed its check before the freeze, and comes before the freeze point (R152, R161). -/
def State.peerOwed (s : State) (pa : Nat) : Nat :=
  (s.frz.ops.filter (fun o => o.peerWait && o.frames.contains (pa / 0x8000))).length

/-- Nothing stands in the way of a transaction of the peer device at its home. -/
def State.homePasses (s : State) (pa : Nat) : Prop := (s.attrAt pa).fcount ≤ s.peerOwed pa ∧ (s.attrAt pa).sweep = false

/-- The value that an atomic of the link writes, in n bits, from the old one, the source and the compare value (R213). -/
def linkAtomicValue (n : Nat) (op : AOp) (x y c : BitVec n) : Option (BitVec n) :=
  match op with
  | .swap => some y
  | .cas => if x = c then some y else none
  | .add => some (x + y)
  | .and => some (x &&& y)
  | .or => some (x ||| y)
  | .xor => some (x ^^^ y)
  | .min => some (if y.slt x then y else x)
  | .max => some (if x.slt y then y else x)
  | .minu => some (if y.ult x then y else x)
  | .maxu => some (if x.ult y then y else x)
  | .fadd => some (BitVec.ofNat n (addCode .fp32 .rne false (Fmt.fp32.value x.toNat) (Fmt.fp32.value y.toNat)))

/-- The element that a reduce-write of the link leaves: a BF16 sum, or an FP32 one whose .LOSSY addend is a BF16 code (R218,
R363). -/
def reducedElement (bf16 lossy : Bool) (old : Nat) (e : BitVec 32) : Nat :=
  if bf16 then addCode .bf16 .rne false (Fmt.bf16.value old) (Fmt.bf16.value (e.toNat % 2 ^ 16))
  else addCode .fp32 .rne false (Fmt.fp32.value old)
    (Fmt.fp32.value (if lossy then convert .bf16 .fp32 (e.toNat % 2 ^ 16) .rne false else e.toNat))

/-- A command stands in the mailbox (R367, R368). -/
def State.commanded (s : State) (op : Nat) : Prop := s.mgmt.go = true ∧ s.mgmt.running.toNat = op

/-- A measurement register is extended (R372). -/
def State.measures (t s : State) (i : Fin 4) (d : List Byte) : Prop :=
  t.mgmt.meas[i] = sha512 (digestBytes s.mgmt.meas[i] ++ d)

/-- The slice of a line, of die 0 for host memory, and its set there (R16, R18, R107, R357). -/
def setOfLine (line : Nat) : Nat × Nat :=
  (if memType (line * 128) = .device then homeSlice (line * 128) else homeSlice (line * 128) % 32,
    Config.l2Set line % 2048)

/-- The debug port is open: every queue is disabled, the access tables and the tenant keys are empty, and every local store
and every L2 line is zero (R374). The L2 lines are the lines that Config.inL2 names, as far as the 16 ways of their sets have
room for them (R16; log entry 13). -/
def State.unlockedBy (s t : State) : Prop :=
  t.mgmt.go = false ∧ t.mgmt.result.toNat = 0 ∧ t.mgmt.lifecycle = 3 ∧ t.conf.access = [] ∧ t.conf.keys = [] ∧
  (∀ c off, t.storeByte c off = 0) ∧ (∀ q, (t.queueAt q).enable = false) ∧
  ∃ ls : List Nat, ls.Nodup ∧ (∀ line ∈ ls, Config.inL2 s.ticks line = true) ∧
    (∀ x, (ls.filter (fun l => setOfLine l == x)).length ≤ 16) ∧
    ∀ a, memType a = .device ∨ memType a = .host →
      (a / 128 ∈ ls → t.byteAt a = 0) ∧
      (Config.inL2 s.ticks (a / 128) = true → t.byteAt a ≠ 0 →
        (ls.filter (fun l => setOfLine l == setOfLine (a / 128))).length = 16)

/-- A command has ended with a result: GO is 0 (R367). -/
def State.answered (t : State) (result : Nat) : Prop := t.mgmt.go = false ∧ t.mgmt.result.toNat = result

/-- The entries of a CONFIG command (R369). -/
def State.confEntries (s : State) : List ConfEntry := (List.range s.mgmt.confCount).map s.mgmt.entry

end Sys2Proof.Machine

open Sys2Proof Sys2Proof.Machine

/-! Encoding. -/

/-- The decoder reads words written out from the encodings of the manual as the instructions that they stand for. -/
def Obligations.DecodeWords : Prop := ∀ x ∈ sampleWords ++ otherWords, decodeTableWord x.1 x.2.1 = some x.2.2

/-- The head and the tail that the encoder writes for a well-formed instruction decode to that instruction, whatever its
operands are (R165 to R177). -/
def Obligations.DecodeEncode : Prop := ∀ i e, WellFormed i → encode i = some e → decode e.head e.tail = .ok i

/-! The step. -/

/-- A step of a strand that is free to go on fetches the folio at its pc, decodes the head there and is `exec` of that
instruction, with the successor address latched and the fetched line cached (R62, R122, R168). Where the fetch faults, the
step takes that fault (R145); an odd pc and an address that is no head are an ILLEGAL_INSTRUCTION (R169), and so is a head
that decodes to nothing, but for a head of class 0x3C in user mode that only step 3 of R170 rejects: that is a
PRIVILEGED_INSTRUCTION (R167, R170). Such a fault takes back what a waiting instruction there had performed (R60, R230).
Under checked landing the first head of an errand is an LPAD, and runs like any other; else there is an LPAD_MISMATCH
(R199). What is due at a boundary comes before the instruction. Before it, only time has passed, the scheduler has noted its
next units, and what it might not have seen is there for it (log entry 25); a step that finds a move in the agenda makes
that move, and one that finds none gives the current strand its turn and owes everyone else a move (R45). The model's own
choices in it: log entries 1, 25, 73 and 99. -/
def Obligations.StepRunsDecoded : Prop :=
  (∀ (s u : State) (x : Fetched) (i : Instr),
    s.freeTurn u → (u.landingDue u.cur = true → ∃ l, i = .lpad l) →
    u.fetch u.cur u.me.pc = .ok x → u.me.pc.toNat % 2 = 0 →
    headAt x.folio (u.me.pc.toNat % 64 / 2) ≠ .notAHead →
    decodeAt x.folio (u.me.pc.toNat % 64 / 2) = .ok i →
    step s = exec i ((u.afterFetch u.cur.core x).setMe
      { u.me with npc := successor x.folio (folioStart u.me.pc) (u.me.pc.toNat % 64 / 2) })) ∧
  (∀ (s u : State) (f : FaultInfo), s.freeTurn u → u.fetch u.cur u.me.pc = .error f →
    step s = .next (u.forget.raise u.cur f)) ∧
  (∀ (s u : State) (x : Fetched), s.freeTurn u → u.fetch u.cur u.me.pc = .ok x →
    (u.me.pc.toNat % 2 = 1 ∨ headAt x.folio (u.me.pc.toNat % 64 / 2) = .notAHead) →
    step s = .next (u.forget.raise u.cur (plainFault .illegalInstruction u.me.pc))) ∧
  (∀ (s u : State) (x : Fetched) (r : Reject), s.freeTurn u → u.landingDue u.cur = false →
    u.fetch u.cur u.me.pc = .ok x → u.me.pc.toNat % 2 = 0 →
    headAt x.folio (u.me.pc.toNat % 64 / 2) ≠ .notAHead →
    decodeAt x.folio (u.me.pc.toNat % 64 / 2) = .error r →
    step s = .next (u.forget.raise u.cur (plainFault
      (if u.me.mode = .user ∧ leNat ((x.folio.drop (u.me.pc.toNat % 64)).take 2) / 2 ^ 10 = 0x3C ∧ r ≠ .reservedClass ∧
          r ≠ .tailLength then .privilegedInstruction
        else .illegalInstruction) u.me.pc))) ∧
  (∀ (s u : State) (x : Fetched), s.freeTurn u → u.landingDue u.cur = true →
    u.fetch u.cur u.me.pc = .ok x → u.me.pc.toNat % 2 = 0 →
    headAt x.folio (u.me.pc.toNat % 64 / 2) ≠ .notAHead →
    (∀ l, decodeAt x.folio (u.me.pc.toNat % 64 / 2) ≠ .ok (.lpad l)) →
    step s = .next (u.forget.raise u.cur (plainFault .lpadMismatch u.me.pc))) ∧
  (∀ (s u : State) (i : Instr), s.turnsTo u → u.runnable u.cur = true → u.boundary u.cur = some i → step s = exec i u) ∧
  (∀ (s : State) (i : Instr) (rest : List Move),
    s.pass.agenda = .event i :: rest → encode i = none → step s = exec i { s.pass with agenda := rest }) ∧
  (∀ (s : State) (w : Who), s.runnable w = true → w ≠ s.cur → .strand w ∈ s.round) ∧
  (∀ (s t : State), s.pass.agenda = [] → s.pass.runnable s.pass.cur = false → step s = .next t →
    t = { s.pass with agenda := s.pass.round })

/-! Every state. -/

/-- A step keeps every memory of the machine in canonical form. The model's own choices in it: log entry 3. -/
def Obligations.CanonicalKept : Prop := ∀ s t, Canonical s → step s = .next t → Canonical t

/-- The memories are in canonical form at reset. The model's own choices in it: log entry 3. -/
def Obligations.CanonicalReset : Prop := Canonical State.reset

/-- g0 reads 0 and m0 reads all ones, and a write of either changes nothing (R67). -/
def Obligations.HardwiredRegisters : Prop :=
  ∀ (s : State) (v : Word), s.g 0 = 0 ∧ s.setG 0 v = s ∧ s.mask 0 = BitVec.allOnes 64 ∧ s.setMask 0 v = s

/-! Which forms a strand may run (R36, R67, R74, R170, R285, R287). -/

/-- A privileged form in user mode, a form that supervisor mode bars, a CALLAT that the code object does not enable, a form
that names a tile, accumulator or mask register in an errand, another form that R36 or R67 bars there, in the errand
strand's supervisor mode too (CSAVE, CLOAD, HALT, RESUME, MBOXSET and POLSET among them, and any form that names g16 to
g31), and an errand's form in the main strand: each takes its fault, in the order of R170. The model's own choices in it:
log entry 74 (a form that names a tile, in an errand in supervisor mode). -/
def Obligations.BarredForms : Prop :=
  ∀ (i : Instr) (s : State),
    (s.me.mode = .user → privileged i = true → Raises i s (plainFault .privilegedInstruction s.me.pc)) ∧
    (s.me.mode = .supervisor → supervisorBarred i = true → Raises i s (plainFault .illegalInstruction s.me.pc)) ∧
    (s.me.mode = .user → isCallat i = true → s.resident.callat = false →
      Raises i s (plainFault .illegalInstruction s.me.pc)) ∧
    (s.me.mode = .user → privileged i = false → s.cur.errand = true → namesTile i = true →
      Raises i s (plainFault .errandTile 0)) ∧
    (s.me.mode = .user → privileged i = false → s.cur.errand = true → namesTile i = false →
      (errandBarred i = true ∨ (gregs i).any (fun r => decide (16 ≤ r)) = true) →
      Raises i s (plainFault .illegalInstruction s.me.pc)) ∧
    (s.me.mode = .supervisor → s.cur.errand = true →
      (errandBarred i = true ∨ (gregs i).any (fun r => decide (16 ≤ r)) = true) →
      Raises i s (plainFault .illegalInstruction s.me.pc)) ∧
    (s.me.mode = .user → privileged i = false → s.cur.errand = false → mainBarred i = true →
      Raises i s (plainFault .illegalInstruction s.me.pc))

/-! Taking an exception and returning from one. -/

/-- A fault of a user-mode strand whose CR.SDELEG bit is 0 enters supervisor mode, once the strand's earlier writes have been
performed, those over the link with their acknowledgements: CR.SSTATUS, CR.SEPC, CR.SCAUSE, CR.SFADDR and CR.SFINFO are
written, the supervisor return store is empty, CR.SARG and the registers of both banks stay, and the strand goes on at
CR.SVEC (R285, R286, R292). Nothing else changes but what those writes change, a log entry for an access that a table
denied (R317), and prefetched code that a FETCH_UNPUBLISHED discards (R139). A fault whose bit is 1 is contained (R48):
the lowest level whose policy does not ignore it decides. RETRY sets the back-off and CR.FCAUSE and, for the first of a run,
writes the record; a kill policy writes the record of the unit and kills that unit; where every level ignores, the queue
is killed (R47, R48, R80, R321, R326). A fault in supervisor mode takes the strand out of supervisor mode, writes a record of
KIND 5 with CR.SEPC as its PC, and kills the task whatever its policies (R288). The model's own choices in it: log entries
18 and 104 (LEVEL, POLICY, INFO and ADDR of a KIND 5 record). -/
def Obligations.FaultEntry : Prop :=
  (∀ (s u v : State) (w : Who) (f : FaultInfo),
    u = s.drainStrand w → u.drained w = true → u.acknowledged w = true → (w.errand && u.owesFault w.core) = false →
    v = (match f.denied with
      | some (target, pa) => u.logDeniedAt ((u.core w.core).task.getD Resident.idle).master target pa
      | none => u) →
    (s.strand w).mode = .user → (s.strand w).sdeleg.getLsbD f.cause.code = false →
    s.raise w f = (if f.cause = .fetchUnpublished then v.mapCore w.core (fun k => { k with prefetched := [] }) else v).setStrand
      w { v.strand w with
        mode := .supervisor
        pc := (u.strand w).svec
        npc := (u.strand w).svec
        sstatus := ((u.strand w).sstatus &&& 0x400) ||| (0x100 ||| (if w.errand then 0x80 else 0))
        sepc := (u.strand w).pc &&& 0x01FF_FFFF_FFFF_FFFE
        scause := BitVec.ofNat 64 f.cause.code
        sfaddr := f.addr
        sfinfo := f.info.setWidth 64
        sret := []
        wait := none
        rfloor := (v.core w.core).order
        lastFault := some f }) ∧
  (∀ (s : State) (w : Who) (f : FaultInfo),
    (s.strand w).mode = .user → (s.strand w).sdeleg.getLsbD f.cause.code = true → f.denied = none →
    f.cause ≠ .fetchUnpublished → ¬(w.errand = true ∧ neverRetried f.cause = true) → s.raise w f = s.contain w f) ∧
  (∀ (s : State) (w : Who) (f : FaultInfo) (r : Resident) (n : Nat),
    (s.core w.core).task = some r → (f.kind = 0 ∨ f.kind = 2) → (s.strand w).retries < 255 →
    ¬(w.errand = true ∧ neverRetried f.cause = true) →
    decidedBy r.policy true = some (n, 1) →
    ∃ t, s.contain w f = t ∧
      (t.core w.core).fcause = BitVec.ofNat 64 (2 ^ 63 + f.cause.code) ∧
      t.strand w = { s.strand w with
        retries := (s.strand w).retries + 1
        backoff := if (s.strand w).retries = 0 then 1 else min 128 (2 * (s.strand w).backoff)
        inBackoff := true, lastFault := some f, wait := none } ∧
      (0 < (s.strand w).retries → t.mgmt = s.mgmt) ∧
      ((s.strand w).retries = 0 → t.mgmt.logNext = s.mgmt.logNext + 1 ∧
        t.mgmt.log.getLast? = some (unitRecord s w f r n 1)) ∧ SameBytes s t) ∧
  (∀ (s : State) (w : Who) (f : FaultInfo) (r : Resident) (n p : Nat) (l : Launch),
    (s.core w.core).task = some r → s.launch r.key.launch = some l →
    ((f.kind = 0 ∨ f.kind = 2) ∧ (s.strand w).retries < 255 ∧ decidedBy r.policy true = some (n, p) ∧ p ≠ 1 ∨
      f.kind ≠ 0 ∧ f.kind ≠ 2 ∧ decidedBy r.policy false = some (n, p)) →
    s.contain w f = ((s.appendLog (unitRecord s w f r n p)).setLaunch { l with
      firstFault := l.firstFault.orElse (fun _ => some (unitRecord s w f r n p)) }).killUnit
        (killedBy r l.queue n p) f.cause.code (unitRecord s w f r n p)) ∧
  (∀ (s : State) (w : Who) (f : FaultInfo) (r : Resident) (l : Launch),
    (s.core w.core).task = some r → s.launch r.key.launch = some l →
    ((f.kind = 0 ∨ f.kind = 2) ∧ (s.strand w).retries < 255 ∧ decidedBy r.policy true = none ∨
      f.kind ≠ 0 ∧ f.kind ≠ 2 ∧ decidedBy r.policy false = none) →
    s.contain w f = ((s.appendLog (unitRecord s w f r 3 0)).setLaunch { l with
      firstFault := l.firstFault.orElse (fun _ => some (unitRecord s w f r 3 0)) }).killUnit (.queue l.queue) f.cause.code
        (unitRecord s w f r 3 0)) ∧
  (∀ (s : State) (w : Who) (f : FaultInfo) (r : Resident) (l : Launch) (x : Word × Word × Word × Word),
    (s.strand w).mode = .supervisor → (s.core w.core).task = some r → s.launch r.key.launch = some l →
    f.denied = none → f.cause ≠ .fetchUnpublished →
    x = recordAt s w { f with kind := 5 } r 0 2 (s.strand w).sepc →
    s.raise w f = (((s.setStrand w { s.strand w with mode := .user, wait := none }).appendLog x).setLaunch { l with
      firstFault := l.firstFault.orElse (fun _ => some x) }).killUnit (.task r.key r.peer) f.cause.code x)

/-- TRAP retires and enters supervisor mode: CR.SCAUSE is imm16, CR.SEPC the successor, CR.SARG the operand, CR.SFADDR 0 and
CR.SFINFO 0xFFFC, and the strand goes on at CR.SVEC (R204, R286). In an errand it is an ILLEGAL_INSTRUCTION. -/
def Obligations.TrapEntry : Prop :=
  (∀ (s u : State) (r : GReg) (imm : BitVec 16),
    s.issueFault (.trap r imm) = none → u = s.drainStrand s.cur → u.drained s.cur = true → u.acknowledged s.cur = true →
    exec (.trap r imm) s = .next (u.count.setMe { u.me.cleared with
      mode := .supervisor
      pc := u.me.svec
      npc := u.me.svec
      sstatus := (u.me.sstatus &&& 0x400) ||| BitVec.ofNat 64 (r.val * 2048)
      sepc := u.me.npc &&& 0x01FF_FFFF_FFFF_FFFE
      scause := imm.setWidth 64
      sfaddr := 0
      sfinfo := 0xFFFC
      sarg := u.g r
      sret := []
      rfloor := u.here.order })) ∧
  (∀ (s : State) (r : GReg) (imm : BitVec 16), s.me.mode = .user → s.cur.errand = true →
    Raises (.trap r imm) s (plainFault .illegalInstruction s.me.pc))

/-- SRET with k = 0 after a fault goes back to user mode at CR.SEPC and changes no register; after a TRAP it writes CR.SARG
to the user register that the TRAP named, if it named one; the main strand's first one after a CLOAD starts the loaded task
(R297). After a demand fault, a frame of the pool that now backs the address stays with the context (R320). SRET with k = 1
contains the recorded fault, and is an ILLEGAL_INSTRUCTION after a TRAP (R302). The model's own choices in it: log entry 20
(the SRET's own retirement does not end a run of faults). -/
def Obligations.SretResumes : Prop :=
  ∀ (s u v x : State),
    s.me.mode = .supervisor → s.fencesTo u →
    v = x.count.setMe { u.count.me with
      mode := .user
      wait := none
      pc := u.count.me.sepc
      npc := u.count.me.sepc
      g := if u.me.sstatus.extractLsb' 8 2 = 0 ∧ u.me.sstatus.extractLsb' 11 5 ≠ 0
        then u.me.g.set (Fin.ofNat 32 (u.me.sstatus.extractLsb' 11 5).toNat) u.me.sarg else u.me.g } →
    ((u.demandReturn = false ∧ x = u) ∨
      (u.demandReturn = true ∧ ∃ pa found,
        u.translate u.here u.resident .user .read u.me.recorded.addr.toNat = .ok (pa, found) ∧
        ((u.conf.spare u.resident.part (pa / 0x8000) = true ∧
            x = { u with conf := { u.conf with given := (u.resident.ctx, pa / 0x8000) :: u.conf.given } }) ∨
          (u.conf.spare u.resident.part (pa / 0x8000) = false ∧ x = u))) ∨
      (u.demandReturn = true ∧ x = u ∧
        ∃ f, u.translate u.here u.resident .user .read u.me.recorded.addr.toNat = .error f) →
      ((u.here.loading = false ∨ s.cur.errand = true) → exec (.sret 0) s = .next v) ∧
      (u.here.loading = true → s.cur.errand = false →
        exec (.sret 0) s = .next (v.setHere (Core.startErrand { v.here with loading := false })))) ∧
    (u.me.sstatus.extractLsb' 8 2 = 0 → Raises (.sret 1) s (plainFault .illegalInstruction s.me.pc)) ∧
    (u.me.sstatus.extractLsb' 8 2 ≠ 0 →
      exec (.sret 1) s = .next ((u.count.setMe { u.count.me with
        mode := .user, wait := none, pc := u.count.me.sepc, npc := u.count.me.sepc }).contain s.cur u.me.recorded))

/-! Integer forms. -/

/-- Every register form of R183, at both widths, writes the value that R183 gives (division by zero and signed overflow
included) and nothing else; CLZ, CTZ, POPC and BSWAP likewise; an immediate form takes the sign-extended immediate as its
second source (R183, R184). -/
def Obligations.IntegerResults : Prop :=
  (∀ p ∈ integerForms, ∀ (s : State) (gd ga gb : GReg) (wd : Width), s.issueFault (p.1 gd ga gb wd) = none →
    Completes (p.1 gd ga gb wd) s { g := [gd] } (fun t => t.holds gd (byWidth p.2 wd (s.g ga) (s.g gb)))) ∧
  (∀ p ∈ unaryForms, ∀ (s : State) (gd ga : GReg) (wd : Width), s.issueFault (p.1 gd ga wd) = none →
    Completes (p.1 gd ga wd) s { g := [gd] } (fun t => t.holds gd (byWidth (fun n x _ => p.2 n x) wd (s.g ga) 0))) ∧
  (∀ p ∈ immediateForms, ∀ (s : State) (gd ga : GReg) (imm : BitVec 22) (wd : Width), s.issueFault (p.1 gd ga imm wd) = none →
    Completes (p.1 gd ga imm wd) s { g := [gd] } (fun t => t.holds gd (byWidth p.2 wd (s.g ga) (imm.signExtend 64))))

/-- LI, ADR and LEA (R185). -/
def Obligations.ConstantsAndAddresses : Prop :=
  (∀ (s : State) (gd : GReg) (imm : BitVec 64), s.issueFault (.li gd imm) = none →
    Completes (.li gd imm) s { g := [gd] } (fun t => t.holds gd imm)) ∧
  (∀ (s : State) (gd : GReg) (imm : BitVec 32), s.issueFault (.adr gd imm) = none →
    Completes (.adr gd imm) s { g := [gd] } (fun t => t.holds gd (folioStart s.me.pc + imm.signExtend 64))) ∧
  (∀ (s : State) (gd ga gb : GReg) (n : Fin 8) (imm : BitVec 19), s.issueFault (.lea gd ga gb n imm) = none →
    Completes (.lea gd ga gb n imm) s { g := [gd] }
      (fun t => t.holds gd (s.g ga + (s.g gb <<< n.val) + imm.signExtend 64)))

/-- NOP, LPAD and PAUSE retire and change nothing (R172, R194, R206); a strand that reaches a FEND head goes on at the next
folio, and nothing retires (R169, R171). -/
def Obligations.NoEffect : Prop :=
  (∀ i ∈ [Instr.nop, .pause], ∀ s : State, s.issueFault i = none → Completes i s {} (fun _ => True)) ∧
  (∀ (l : BitVec 16) (s : State), s.issueFault (.lpad l) = none → Completes (.lpad l) s {} (fun _ => True)) ∧
  (∀ s : State, exec .fend s = .next (s.setMe { s.me with pc := folioStart s.me.pc + 64 }))

/-! Scalar floating point (R186 to R189). -/

/-- The arithmetic forms of class 0x08 write the code of their result to fd; a NaN operand of an arithmetic form gives the
canonical NaN, whatever the other operand is; FMIN and FMAX answer the operand that is no NaN (R187, R188). -/
def Obligations.FloatArithmetic : Prop :=
  (∀ p ∈ floatForms, ∀ (s : State) (fd fa fb : FReg) (rm : Round) (d : Bool), s.issueFault (p.1 fd fa fb rm d) = none →
    Completes (p.1 fd fa fb rm d) s { f := [fd] } (fun t =>
      t.f fd = BitVec.ofNat 64 (p.2 (floatFmt d) rm (s.floatCode fa d) (s.floatCode fb d)))) ∧
  (∀ p ∈ floatExtremes, ∀ (s : State) (fd fa fb : FReg) (d : Bool), s.issueFault (p.1 fd fa fb d) = none →
    Completes (p.1 fd fa fb d) s { f := [fd] } (fun t =>
      t.f fd = BitVec.ofNat 64 (p.2 (floatFmt d) (s.floatCode fa d) (s.floatCode fb d)))) ∧
  (∀ p ∈ floatSigns, ∀ (s : State) (fd fa : FReg) (d : Bool), s.issueFault (p.1 fd fa d) = none →
    Completes (p.1 fd fa d) s { f := [fd] } (fun t => t.f fd = BitVec.ofNat 64 (p.2 (floatFmt d) (s.floatCode fa d)))) ∧
  (∀ (s : State) (fd fa : FReg) (rm : Round) (d : Bool), s.issueFault (.fsqrt fd fa rm d) = none →
    Completes (.fsqrt fd fa rm d) s { f := [fd] } (fun t =>
      t.f fd = BitVec.ofNat 64 (resultCode (floatFmt d) rm false (sqrtVal ((floatFmt d).value (s.floatCode fa d)))))) ∧
  (∀ (s : State) (fd fa fb fc : FReg) (rm : Round) (d : Bool), s.issueFault (.fma fd fa fb fc rm d) = none →
    Completes (.fma fd fa fb fc rm d) s { f := [fd] } (fun t =>
      t.f fd = BitVec.ofNat 64 (addCode (floatFmt d) rm false
        (mulVal ((floatFmt d).value (s.floatCode fa d)) ((floatFmt d).value (s.floatCode fb d)))
        ((floatFmt d).value (s.floatCode fc d))))) ∧
  (∀ p ∈ floatForms, ∀ (d : Bool) (rm : Round) (a b : Nat),
    (floatFmt d).isNan a = true ∨ (floatFmt d).isNan b = true → p.2 (floatFmt d) rm a b = quietNan d) ∧
  (∀ p ∈ floatExtremes, ∀ (d : Bool) (a b : Nat),
    ((floatFmt d).isNan a = true → (floatFmt d).isNan b = true → p.2 (floatFmt d) a b = quietNan d) ∧
    ((floatFmt d).isNan a = true → (floatFmt d).isNan b = false → p.2 (floatFmt d) a b = b) ∧
    ((floatFmt d).isNan a = false → (floatFmt d).isNan b = true → p.2 (floatFmt d) a b = a))

/-- The moves, conversions, compares and classification of class 0x09. The model's own choices in it: log entry 27. -/
def Obligations.FloatMoves : Prop :=
  (∀ (s : State) (fd : FReg) (gs : GReg) (d : Bool), s.issueFault (.fmvfg fd gs d) = none →
    Completes (.fmvfg fd gs d) s { f := [fd] } (fun t =>
      t.f fd = if d then s.g gs else ((s.g gs).setWidth 32).setWidth 64)) ∧
  (∀ (s : State) (gd : GReg) (fs : FReg) (d : Bool), s.issueFault (.fmvgf gd fs d) = none →
    Completes (.fmvgf gd fs d) s { g := [gd] } (fun t =>
      t.holds gd (if d then s.f fs else ((s.f fs).setWidth 32).setWidth 64))) ∧
  (∀ (s : State) (fd : FReg) (gs : GReg) (rm : Round) (d : Bool), s.issueFault (.fcvtfi fd gs rm d) = none →
    Completes (.fcvtfi fd gs rm d) s { f := [fd] } (fun t =>
      t.f fd = BitVec.ofNat 64 (encodeVal (floatFmt d) (.ofRat (s.g gs).toInt) rm false))) ∧
  (∀ (s : State) (gd : GReg) (fs : FReg) (rm : Round) (d : Bool), s.issueFault (.fcvtif gd fs rm d) = none →
    Completes (.fcvtif gd fs rm d) s { g := [gd] } (fun t =>
      t.holds gd (match (floatFmt d).value (s.floatCode fs d) with
        | .nan _ => 0
        | .inf neg => if neg then BitVec.intMin 64 else BitVec.intMax 64
        | .num _ v => BitVec.ofInt 64 (max (-(2 ^ 63)) (min (roundTo .i32 v rm).floor (2 ^ 63 - 1)))))) ∧
  (∀ (s : State) (fd fs : FReg) (rm : Round), s.issueFault (.fcvtsd fd fs rm) = none →
    Completes (.fcvtsd fd fs rm) s { f := [fd] } (fun t =>
      t.f fd = BitVec.ofNat 64 (encodeVal .fp32 (Fmt.fp64.value (s.floatCode fs true)) rm false))) ∧
  (∀ (s : State) (fd fs : FReg), s.issueFault (.fcvtds fd fs) = none →
    Completes (.fcvtds fd fs) s { f := [fd] } (fun t =>
      t.f fd = BitVec.ofNat 64 (encodeVal .fp64 (Fmt.fp32.value (s.floatCode fs false)) .rne false))) ∧
  (∀ p ∈ floatCompares, ∀ (s : State) (gd : GReg) (fs : FReg) (d : Bool), s.issueFault (p.1 gd fs d) = none →
    Completes (p.1 gd fs d) s { g := [gd] } (fun t =>
      t.holds gd (if p.2 ((floatFmt d).value (s.floatCode fs d)) ((floatFmt d).value (s.floatCode (fs + 1) d)) then 1
        else 0))) ∧
  (∀ (s : State) (gd : GReg) (fs : FReg) (d : Bool), s.issueFault (.fclass gd fs d) = none →
    Completes (.fclass gd fs d) s { g := [gd] } (fun t =>
      t.holds gd (1 <<< classOf (floatFmt d) (s.floatCode fs d))))

/-! Branches, calls and returns (R169, R190 to R195). -/

/-- B and J go on at their target, and B at the successor where its condition fails; BRC counts down, steps the main
strand's rotation base back, taken or not, and goes on at its target while the count is not 0. The model's own choices
in it: log entry 30. -/
def Obligations.Branches : Prop :=
  (∀ (s : State) (c : Cond) (ga gb : GReg) (off : BitVec 27), s.issueFault (.b c ga gb off) = none →
    (condition c (s.g ga) (s.g gb) = false → Completes (.b c ga gb off) s {} (fun _ => True)) ∧
    (condition c (s.g ga) (s.g gb) = true → s.validTarget (s.branchTo off) →
      GoesTo (s.branchTo off) (.b c ga gb off) s {} (fun _ => True)) ∧
    (condition c (s.g ga) (s.g gb) = true → s.badTarget (s.branchTo off) →
      Raises (.b c ga gb off) s (plainFault .illegalInstruction s.me.pc))) ∧
  (∀ (s : State) (off : BitVec 32), s.issueFault (.j off) = none →
    (s.validTarget (s.branchTo off) → GoesTo (s.branchTo off) (.j off) s {} (fun _ => True)) ∧
    (s.badTarget (s.branchTo off) → Raises (.j off) s (plainFault .illegalInstruction s.me.pc))) ∧
  (∀ (s : State) (gc : GReg) (off : BitVec 32), s.issueFault (.brc gc off) = none →
    (s.g gc = 1 → CompletesFrom s.rotated s.me.npc (.brc gc off) s { g := [gc] } (fun t => t.holds gc 0)) ∧
    (s.g gc ≠ 1 → s.validTarget (s.branchTo off) →
      CompletesFrom s.rotated (s.branchTo off) (.brc gc off) s { g := [gc] } (fun t => t.holds gc (s.g gc - 1))) ∧
    (s.g gc ≠ 1 → s.badTarget (s.branchTo off) → Raises (.brc gc off) s (plainFault .illegalInstruction s.me.pc)))

/-- CALL and CALLR push the successor and go on at the target; JR and CALLR are checked under their label; a transfer
that faults pushes nothing and spills nothing. JT goes on at its table's address plus the signed entry that g[gi] picks,
checked like the target of a JR; a load of the entry that faults or waits stops the JT, and an index from the bound on raises
JT_BOUND (R191 to R195). The model's own choices in it: log entry 29. -/
def Obligations.CallsAndJumps : Prop :=
  (∀ (s : State) (off : BitVec 32), s.issueFault (.call off) = none →
    (s.mustSpill = false → s.validTarget (s.branchTo off) → CompletesFrom s.pushed (s.branchTo off) (.call off) s {} (fun _ => True)) ∧
    (s.badTarget (s.branchTo off) → Raises (.call off) s (plainFault .illegalInstruction s.me.pc))) ∧
  (∀ (s : State) (ga : GReg) (l : BitVec 16), s.issueFault (.callr ga l) = none →
    (s.mustSpill = false → s.validTarget (s.g ga) → s.lands l (s.g ga) →
      CompletesFrom s.pushed (s.g ga) (.callr ga l) s {} (fun _ => True)) ∧
    (s.badTarget (s.g ga) → Raises (.callr ga l) s (plainFault .illegalInstruction s.me.pc)) ∧
    (s.validTarget (s.g ga) → s.misses l (s.g ga) → Raises (.callr ga l) s (plainFault .lpadMismatch (s.g ga)))) ∧
  (∀ (s : State) (ga : GReg) (l : BitVec 16), s.issueFault (.jr ga l) = none →
    (s.validTarget (s.g ga) → s.lands l (s.g ga) → GoesTo (s.g ga) (.jr ga l) s {} (fun _ => True)) ∧
    (s.badTarget (s.g ga) → Raises (.jr ga l) s (plainFault .illegalInstruction s.me.pc)) ∧
    (s.validTarget (s.g ga) → s.misses l (s.g ga) → Raises (.jr ga l) s (plainFault .lpadMismatch (s.g ga)))) ∧
  (∀ (s : State) (gi : GReg) (bound l : BitVec 16) (off : BitVec 32), s.issueFault (.jt gi bound l off) = none →
    (bound.toNat ≤ (s.g gi).toNat → Raises (.jt gi bound l off) s (plainFault .jtBound 0)) ∧
    (∀ (u : State) (bs : List Byte) (tbl a : Word), (s.g gi).toNat < bound.toNat →
      tbl = folioStart s.me.pc + off.signExtend 64 →
      s.load false (tbl + s.g gi * 4) 4 .nf none = .ok (u, bs) →
      a = tbl + (BitVec.ofNat 32 (leNat bs)).signExtend 64 →
      (u.validTarget a → u.lands l a → CompletesFrom u a (.jt gi bound l off) s {} (fun _ => True)) ∧
      (u.badTarget a → Raises (.jt gi bound l off) s (plainFault .illegalInstruction u.me.pc)) ∧
      (u.validTarget a → u.misses l a → Raises (.jt gi bound l off) s (plainFault .lpadMismatch a))) ∧
    ((s.g gi).toNat < bound.toNat → StopsWith (.jt gi bound l off) s
      (s.load false (folioStart s.me.pc + off.signExtend 64 + s.g gi * 4) 4 .nf none)))

/-- The spill of R79: a call with 32 addresses held writes the oldest, cut to bits 56:0, to CR.RSPILL + 8 × SPILLED as an
8-byte store, which is still to be performed: no byte of memory changes. A fault of the spill write is the call's, and a
spill that must wait for its address or for an open sweep keeps the call waiting (R157). The model's own choices in it: log
entry 29. -/
def Obligations.CallSpills : Prop :=
  ∀ (s : State) (i : Instr) (a old : Word) (rest : List Word),
    ((∃ off, i = .call off ∧ a = s.branchTo off) ∨ (∃ ga l, i = .callr ga l ∧ a = s.g ga ∧ s.lands l a)) →
    s.issueFault i = none → s.mustSpill = true → s.me.ret = old :: rest → s.validTarget a →
    (∀ o u, s.operand false .write (s.me.rspill + BitVec.ofNat 64 (8 * s.me.spilled.toNat)) 8 = .ok o →
      (s.learnFrom o).sweepIn o = false →
      u = (s.learnFrom o).pushWrite (o.space, o.lo, o.lo + o.len)
        (o.segs (natLe 8 (old &&& 0x01FF_FFFF_FFFF_FFFF).toNat)) none false →
      CompletesFrom (u.setMe { u.me with ret := rest ++ [s.me.npc], spilled := s.me.spilled + 1 }) a i s {}
        (SameBytes s)) ∧
    (∀ o, s.operand false .write (s.me.rspill + BitVec.ofNat 64 (8 * s.me.spilled.toNat)) 8 = .ok o →
      (s.learnFrom o).sweepIn o = true → exec i s = .next ((s.learnFrom o).setWait .sweep)) ∧
    StopsWith i s (s.operand false .write (s.me.rspill + BitVec.ofNat 64 (8 * s.me.spilled.toNat)) 8)

/-- RET goes on at the newest address held; with none held it reads back the last one spilled, and with none of either it
raises RETURN_UNDERFLOW. A refill that faults or has to wait stops the RET, and an address that is no head raises
ILLEGAL_INSTRUCTION (R34, R79, R169, R192). -/
def Obligations.Returns : Prop :=
  ∀ s : State, s.issueFault .ret = none →
    (∀ a, s.returns.getLast? = some a → s.validTarget a → CompletesFrom s.popped a .ret s {} (fun _ => True)) ∧
    (∀ a, s.returns.getLast? = some a → s.badTarget a → Raises .ret s (plainFault .illegalInstruction s.me.pc)) ∧
    (s.returns = [] → s.me.mode = .supervisor ∨ s.cur.errand = true ∨ s.me.spilled = 0 →
      Raises .ret s (plainFault .returnUnderflow 0)) ∧
    (∀ u bs, s.returns = [] → s.me.mode = .user → s.cur.errand = false → s.me.spilled ≠ 0 →
      s.load false (s.me.rspill + BitVec.ofNat 64 (8 * (s.me.spilled.toNat - 1))) 8 .nf none = .ok (u, bs) →
      u.validTarget (BitVec.ofNat 64 (leNat bs) &&& 0x01FF_FFFF_FFFF_FFFF) →
      CompletesFrom (u.setMe { u.me with spilled := s.me.spilled - 1 })
        (BitVec.ofNat 64 (leNat bs) &&& 0x01FF_FFFF_FFFF_FFFF) .ret s {} (fun _ => True)) ∧
    (∀ u bs, s.returns = [] → s.me.mode = .user → s.cur.errand = false → s.me.spilled ≠ 0 →
      s.load false (s.me.rspill + BitVec.ofNat 64 (8 * (s.me.spilled.toNat - 1))) 8 .nf none = .ok (u, bs) →
      u.badTarget (BitVec.ofNat 64 (leNat bs) &&& 0x01FF_FFFF_FFFF_FFFF) →
      Raises .ret s (plainFault .illegalInstruction u.me.pc)) ∧
    (s.returns = [] → s.me.mode = .user → s.cur.errand = false → s.me.spilled ≠ 0 →
      StopsWith .ret s (s.load false (s.me.rspill + BitVec.ofNat 64 (8 * (s.me.spilled.toNat - 1))) 8 .nf none))


/-! Loads, stores and atomics (R57, R112, R113, R209 to R213). -/

/-- A load of n bytes gives the bytes at its address, lowest first, sign- or zero-extended, or the bytes of its strand's
newest write where that is a scalar store, still to be performed, that covers them; it changes no byte of memory (R57,
R209). -/
def Obligations.Loads : Prop :=
  (∀ (s : State) (gd : GReg) (sz : Size) (sx : Bool) (gb : GReg) (ord : MemOrd) (off : BitVec 20) (o : Operand),
    s.issueFault (.ld gd sz sx gb ord off) = none → s.idle →
    s.operand false .read (s.address gb off) (sizeBytes sz) = .ok o → (s.learnFrom o).touch .read [o] = .ok () →
    CompletesFrom (s.loaded o (acqScope ord)) s.me.npc (.ld gd sz sx gb ord off) s { g := [gd] } (fun t =>
      t.holds gd (extended sx (s.bytesAt o)) ∧ SameBytes s t)) ∧
  (∀ (s : State) (gd : GReg) (sz : Size) (sx : Bool) (gb : GReg) (ord : MemOrd) (off : BitVec 20) (o : Operand),
    s.issueFault (.ldl gd sz sx gb ord .nf off) = none → s.idle →
    s.operand true .read (s.address gb off) (sizeBytes sz) = .ok o → (s.learnFrom o).touch .read [o] = .ok () →
    Completes (.ldl gd sz sx gb ord .nf off) s { g := [gd] } (fun t =>
      t.holds gd (extended sx (s.bytesAt o)) ∧ SameBytes s t)) ∧
  (∀ (s : State) (fd : FReg) (d sp : Bool) (gb : GReg) (ord : MemOrd) (off : BitVec 20) (o : Operand),
    s.issueFault (.fld fd d sp gb ord .nf off) = none → s.idle →
    s.operand sp .read (s.address gb off) (if d then 8 else 4) = .ok o → (s.learnFrom o).touch .read [o] = .ok () →
    CompletesFrom (s.loaded o (acqScope ord)) s.me.npc (.fld fd d sp gb ord .nf off) s { f := [fd] } (fun t =>
      t.f fd = BitVec.ofNat 64 (leNat (s.bytesAt o)) ∧ SameBytes s t)) ∧
  (∀ (s : State) (gd : GReg) (sz : Size) (sx : Bool) (gb : GReg) (ord : MemOrd) (off : BitVec 20) (o : Operand)
    (ws : List PendingWrite) (w : PendingWrite),
    s.issueFault (.ld gd sz sx gb ord off) = none → s.here.copies = [] →
    s.operand false .read (s.address gb off) (sizeBytes sz) = .ok o →
    s.here.writes = ws ++ [w] → w.errand = s.cur.errand → w.discard = false → w.space = o.space →
    (w.segs.flatMap (·.bytes)).length = w.hi - w.lo → w.lo ≤ o.lo → o.lo + sizeBytes sz ≤ w.hi → w.hi - w.lo ≤ 8 →
    CompletesFrom (s.learnFrom o) s.me.npc (.ld gd sz sx gb ord off) s { g := [gd] } (fun t =>
      t.holds gd (loadValue (((w.segs.flatMap (·.bytes)).drop (o.lo - w.lo)).take (sizeBytes sz)) sx) ∧ SameBytes s t))

/-- A fault or a wait of the address is the load's and the store's own, for LD, ST, LDL, STL, FLD and FST, qualified or not
(R33, R60, R120), and so is what an LD meets when it reads its data (R317, R324). A local address is found by R109: the own
store, a peer that is on its way or halted with its gang is waited for (R31, R33), a peer that is gone is PEER_ABSENT, and
so is a gang that has retired to a task of another gang (R29). The model's own choices in it: log entries 32, 48 (a gang
that is placed and not started is at its cores) and 100 (a store to an absent peer raises PEER_ABSENT). -/
def Obligations.AddressFaults : Prop :=
  (∀ (s : State) (r : GReg) (sz : Size) (sx : Bool) (gb : GReg) (ord : MemOrd) (q : Fe) (off : BitVec 20),
    (s.issueFault (.ld r sz sx gb ord off) = none →
      StopsWith (.ld r sz sx gb ord off) s (s.operand false .read (s.address gb off) (sizeBytes sz))) ∧
    (s.issueFault (.ldl r sz sx gb ord q off) = none →
      StopsWith (.ldl r sz sx gb ord q off) s (s.operand true .read (s.address gb off) (sizeBytes sz))) ∧
    (s.issueFault (.st r sz gb ord off) = none →
      StopsWith (.st r sz gb ord off) s (s.operand false .write (s.address gb off) (sizeBytes sz))) ∧
    (s.issueFault (.stl r sz gb ord q off) = none →
      StopsWith (.stl r sz gb ord q off) s (s.operand true .write (s.address gb off) (sizeBytes sz)))) ∧
  (∀ (s : State) (r : FReg) (d sp : Bool) (gb : GReg) (ord : MemOrd) (q : Fe) (off : BitVec 20),
    (s.issueFault (.fld r d sp gb ord q off) = none →
      StopsWith (.fld r d sp gb ord q off) s (s.operand sp .read (s.address gb off) (if d then 8 else 4))) ∧
    (s.issueFault (.fst r d sp gb ord q off) = none →
      StopsWith (.fst r d sp gb ord q off) s (s.operand sp .write (s.address gb off) (if d then 8 else 4)))) ∧
  (∀ (s : State) (a : Word) (n : Nat) (k : Kind),
    ((a.toNat / 2 ^ 62 = 3 ∨ a.toNat / 2 ^ 20 % 2 ^ 10 ≠ 0) → s.operand true k a n = .fault (localFault a)) ∧
    (a.toNat / 2 ^ 62 = 0 → a.toNat / 2 ^ 20 % 2 ^ 10 = 0 → a.toNat % 2 ^ 20 + n ≤ 0xA_0000 →
      s.operand true k a n = .ok { va := a, space := .store s.resident.peer, lo := a.toNat % 2 ^ 20, len := n,
                                   loc := .store s.cur.core ⟨s.resident.key, s.resident.peer, a.toNat % 2 ^ 20⟩ }) ∧
    (∀ p pa, a.toNat / 2 ^ 62 = 1 → a.toNat / 2 ^ 20 % 2 ^ 10 = 0 → a.toNat % 2 ^ 20 + n ≤ 0xA_0000 →
      p = a.toNat / 2 ^ 30 % 256 → p < s.resident.peers → p ≠ s.resident.peer →
      (s.peerAt s.resident.key p = .moving pa ∨ s.peerAt s.resident.key p = .saved pa →
        s.operand true k a n = .wait s .migration) ∧
      (∀ c, s.peerAt s.resident.key p = .absent ∨ s.peerAt s.resident.key p = .dead c →
        s.operand true k a n = .fault (plainFault .peerAbsent a))) ∧
    (∀ p q c, a.toNat / 2 ^ 62 = 2 → a.toNat / 2 ^ 20 % 2 ^ 10 = 0 → a.toNat % 2 ^ 20 + n ≤ 0xA_0000 →
      p = a.toNat / 2 ^ 30 % 256 → p < s.resident.peers → q = a.toNat / 2 ^ 38 % 2 ^ 24 → q ≠ s.resident.key.gang →
      q < s.gangCount s.resident →
      (s.retired ⟨s.resident.key.launch, q⟩ = true → s.operand true k a n = .fault (plainFault .peerAbsent a)) ∧
      (s.retired ⟨s.resident.key.launch, q⟩ = false → s.peerAt ⟨s.resident.key.launch, q⟩ p = .core c →
        s.operand true k a n = .ok { va := a, space := .store p, lo := a.toNat % 2 ^ 20, len := n,
                                     loc := .store c ⟨⟨s.resident.key.launch, q⟩, p, a.toNat % 2 ^ 20⟩ }))) ∧
  (∀ (s : State) (r : GReg) (sz : Size) (sx : Bool) (gb : GReg) (ord : MemOrd) (off : BitVec 20) (o : Operand),
    s.issueFault (.ld r sz sx gb ord off) = none → s.idle →
    s.operand false .read (s.address gb off) (sizeBytes sz) = .ok o →
    StopsWith (.ld r sz sx gb ord off) s ((s.learnFrom o).touch .read [o]))

/-- A store with no full/empty qualifier retires with one write still to be performed, of its register's low bytes, lowest
first, at the address that it names; no byte of memory has changed yet. -/
def Obligations.StoresRetire : Prop :=
  (∀ (s : State) (gs : GReg) (sz : Size) (gb : GReg) (ord : MemOrd) (off : BitVec 20) (o : Operand),
    s.issueFault (.st gs sz gb ord off) = none → s.operand false .write (s.address gb off) (sizeBytes sz) = .ok o →
    (s.learnFrom o).sweepIn o = false →
    CompletesFrom (s.stored o (lowBytes (sizeBytes sz) (s.g gs)) (relScope ord)) s.me.npc (.st gs sz gb ord off) s {}
      (SameBytes s)) ∧
  (∀ (s : State) (gs : GReg) (sz : Size) (gb : GReg) (ord : MemOrd) (off : BitVec 20) (o : Operand),
    s.issueFault (.stl gs sz gb ord .nf off) = none → s.operand true .write (s.address gb off) (sizeBytes sz) = .ok o →
    CompletesFrom (s.stored o (lowBytes (sizeBytes sz) (s.g gs)) (relScope ord)) s.me.npc (.stl gs sz gb ord .nf off) s {}
      (SameBytes s)) ∧
  (∀ (s : State) (fs : FReg) (d sp : Bool) (gb : GReg) (ord : MemOrd) (off : BitVec 20) (o : Operand),
    s.issueFault (.fst fs d sp gb ord .nf off) = none → s.operand sp .write (s.address gb off) (if d then 8 else 4) = .ok o →
    (s.learnFrom o).sweepIn o = false →
    CompletesFrom (s.stored o (lowBytes (if d then 8 else 4) (s.f fs)) (relScope ord)) s.me.npc
      (.fst fs d sp gb ord .nf off) s {} (SameBytes s))

/-- A qualified access is one unit: .FE and .FEC read when every granule is FULL, .FEC leaves them EMPTY, .EF writes when
every granule is EMPTY and leaves them FULL, and each waits otherwise (R112, R113). LDL, STL, FLD and FST have one unit; a
qualified TLD, TLDX, TST or TSTX has one for each of its 64 rows, masked off or not, and completes when all are performed
(R236). What the masked-off rows keep is log entry 28. -/
def Obligations.FullEmptyUnits : Prop :=
  (∀ (s : State) (gd : GReg) (sz : Size) (sx : Bool) (gb : GReg) (ord : MemOrd) (q : Fe) (off : BitVec 20) (o : Operand)
    (c : CoreId) (l : LocalAddr),
    s.issueFault (.ldl gd sz sx gb ord q off) = none → s.idle → q = .fe ∨ q = .fec →
    s.operand true .read (s.address gb off) (sizeBytes sz) = .ok o → o.loc = .store c l →
    ((s.core c).allFull l.off (sizeBytes sz) = true → (s.learnFrom o).touch .read [o] = .ok () →
      CompletesFrom (if q = .fec then s.mapCore c (·.setFull l.off (sizeBytes sz) false) else s) s.me.npc
        (.ldl gd sz sx gb ord q off) s { g := [gd] } (fun t => t.holds gd (extended sx (s.bytesAt o)) ∧ SameBytes s t)) ∧
    ((s.core c).allFull l.off (sizeBytes sz) = false →
      exec (.ldl gd sz sx gb ord q off) s = .next (s.setWait .fullEmpty))) ∧
  (∀ (s : State) (fd : FReg) (d : Bool) (gb : GReg) (ord : MemOrd) (q : Fe) (off : BitVec 20) (o : Operand) (c : CoreId)
    (l : LocalAddr) (n : Nat), n = (if d then 8 else 4) →
    s.issueFault (.fld fd d true gb ord q off) = none → s.idle → q = .fe ∨ q = .fec →
    s.operand true .read (s.address gb off) n = .ok o → o.loc = .store c l →
    ((s.core c).allFull l.off n = true → (s.learnFrom o).touch .read [o] = .ok () →
      CompletesFrom (if q = .fec then s.mapCore c (·.setFull l.off n false) else s) s.me.npc
        (.fld fd d true gb ord q off) s { f := [fd] } (fun t =>
          t.f fd = BitVec.ofNat 64 (leNat (s.bytesAt o)) ∧ SameBytes s t)) ∧
    ((s.core c).allFull l.off n = false →
      exec (.fld fd d true gb ord q off) s = .next (s.setWait .fullEmpty))) ∧
  (∀ (s : State) (gs : GReg) (sz : Size) (gb : GReg) (ord : MemOrd) (off : BitVec 20) (o : Operand) (c : CoreId)
    (l : LocalAddr),
    s.issueFault (.stl gs sz gb ord .ef off) = none → s.idle → s.acknowledged s.cur = true →
    s.operand true .write (s.address gb off) (sizeBytes sz) = .ok o → o.loc = .store c l →
    ((s.core c).allEmpty l.off (sizeBytes sz) = true →
      CompletesFrom (s.mapCore c (fun k =>
          (k.writeLocal l.off (lowBytes (sizeBytes sz) (s.g gs)) false).setFull l.off (sizeBytes sz) true)) s.me.npc
        (.stl gs sz gb ord .ef off) s {} (fun t => SameOutside o s t ∧
          ∀ j, j < sizeBytes sz → t.storeByte c (l.off + j) = (lowBytes (sizeBytes sz) (s.g gs)).getD j 0)) ∧
    ((s.core c).allEmpty l.off (sizeBytes sz) = false →
      exec (.stl gs sz gb ord .ef off) s = .next (s.setWait .fullEmpty))) ∧
  (∀ (s : State) (fs : FReg) (d : Bool) (gb : GReg) (ord : MemOrd) (off : BitVec 20) (o : Operand) (c : CoreId)
    (l : LocalAddr) (n : Nat), n = (if d then 8 else 4) →
    s.issueFault (.fst fs d true gb ord .ef off) = none → s.idle → s.acknowledged s.cur = true →
    s.operand true .write (s.address gb off) n = .ok o → o.loc = .store c l →
    ((s.core c).allEmpty l.off n = true →
      CompletesFrom (s.mapCore c (fun k => (k.writeLocal l.off (lowBytes n (s.f fs)) false).setFull l.off n true)) s.me.npc
        (.fst fs d true gb ord .ef off) s {} (fun t => SameOutside o s t ∧
          ∀ j, j < n → t.storeByte c (l.off + j) = (lowBytes n (s.f fs)).getD j 0)) ∧
    ((s.core c).allEmpty l.off n = false →
      exec (.fst fs d true gb ord .ef off) s = .next (s.setWait .fullEmpty))) ∧
  (∀ (s : State) (td : TReg) (ty : Ty) (gb gs gx : GReg) (m : MReg) (q : Fe) (off : BitVec 32) (os xs : List Operand)
    (b : Nat) (i : Instr),
    (i = .tld td ty gb gs gx m q true off ∧ b = 0 ∧ s.units true .read (scaleUnits ty (s.g gx) (s.mask m)) = .ok xs ∨
      i = .tldx td ty gb gs m q true off ∧ b = scaleBytes ty ∧ ty.scaled = true ∧ xs = []) →
    s.issueFault i = none → s.idle → s.here.rowUnits = [] → q = .fe ∨ q = .fec → (q = .fec → Apart os) →
    s.units true .read (everyRow ty b (s.address gb off) (s.g gs)) = .ok os →
    (∀ p ∈ picked (s.mask m) os, s.dataFault .read p.2 = none) →
    (os.all s.rowFull = true → (s.learnAll (os ++ xs)).touch .read xs = .ok () →
      CompletesFrom (if q = .fec then os.foldl State.takeRow s else s) s.me.npc i s
        { t := [tileSlot s.here.rot td] } (fun t =>
          (∀ p ∈ (List.finRange 64).zip os, (s.mask m).getLsbD p.1.val = true →
            (t.tile td).rows[p.1] = rowData ty ((s.bytesAt p.2).drop b)) ∧
          (∀ r : Fin 64, (s.mask m).getLsbD r.val = false → (t.tile td).rows[r] = (s.tile td).rows[r]) ∧ SameBytes s t)) ∧
    (os.any (fun o => !s.rowFull o) = true → Becomes i s (fun t => t.me.wait = some .fullEmpty ∧ t.me.pc = s.me.pc ∧
      t.tile td = s.tile td ∧ SameBytes s t))) ∧
  (∀ (s : State) (ts : TReg) (ty : Ty) (gb gs gx : GReg) (m : MReg) (off : BitVec 32) (os xs : List Operand)
    (b : Nat) (i : Instr) (u : State),
    (i = .tst ts ty gb gs gx m .ef true off ∧ b = 0 ∧
        s.storeUnits true (withMask (s.mask m) (everyScale ty (s.g gx))) = .ok xs ∨
      i = .tstx ts ty gb gs m .ef true off ∧ b = scaleBytes ty ∧ ty.scaled = true ∧ xs = []) →
    s.issueFault i = none → s.idle → s.here.rowUnits = [] → Apart os →
    s.storeUnits true (withMask (s.mask m) (everyRow ty b (s.address gb off) (s.g gs))) = .ok os →
    u = ((List.finRange 64).zip os).foldl (fun u p => u.putRow p.2
      (if (s.mask m).getLsbD p.1.val then some (storedRow (s.tile ts) ty b p.1) else none)) s →
    (os.all s.rowEmpty = true →
      CompletesFrom (u.pushParts (s.scaleRange true ty (s.g gx)) (scaleParts (s.tile ts) ty (s.mask m) xs)) s.me.npc i s {} (fun t =>
          (∀ p ∈ (List.finRange 64).zip os, t.rowFull p.2 = true ∧
            ((s.mask m).getLsbD p.1.val = true → t.bytesAt p.2 = storedRow (s.tile ts) ty b p.1) ∧
            ((s.mask m).getLsbD p.1.val = false → t.bytesAt p.2 = s.bytesAt p.2)) ∧
          ∀ a, t.byteAt a = s.byteAt a)) ∧
    (os.any (fun o => !s.rowEmpty o) = true → Becomes i s (fun t => t.me.wait = some .fullEmpty ∧ t.me.pc = s.me.pc)))

/-- An atomic gives the old value and writes the new one at its address, in one step: the operand's bytes read as the new
value after it. A compare that fails writes nothing, and every other byte reads as before. An atomic at an address that is no
multiple of its size, or wider than the atomic size of its memory, raises MISALIGNED there, before the bytes are touched
(R117, R212, R213). The model's own choices in it: log entry 25. -/
def Obligations.Atomics : Prop :=
  (∀ p ∈ atomicForms, ∀ (s : State) (gd : GReg) (sz : Size3) (gb gs : GReg) (ord : MemOrd) (sp : Bool) (off : BitVec 32)
    (o : Operand), s.issueFault (p.1 gd sz gb gs ord sp off) = none → s.atomicReady sz (s.address gb off) sp o →
    CompletesFrom (s.swapped o (p.2 (8 * size3Bytes sz) (BitVec.ofNat _ (leNat (s.bytesAt o)))
        (s.source gs (size3Bytes sz))).toNat ord) s.me.npc (p.1 gd sz gb gs ord sp off) s { g := atomicWritten gd sz }
      (fun t => t.gotOld gd (size3Bytes sz) (leNat (s.bytesAt o)) ∧
        leNat (t.bytesAt o) = (p.2 (8 * size3Bytes sz) (BitVec.ofNat _ (leNat (s.bytesAt o)))
          (s.source gs (size3Bytes sz))).toNat ∧ SameOutside o s t)) ∧
  (∀ (s : State) (gd : GReg) (gb gs : GReg) (ord : MemOrd) (sp : Bool) (off : BitVec 32) (o : Operand),
    s.issueFault (.afadd gd .w gb gs ord sp off) = none → s.atomicReady .w (s.address gb off) sp o →
    CompletesFrom (s.swapped o (addCode .fp32 .rne false (Fmt.fp32.value (leNat (s.bytesAt o)))
        (Fmt.fp32.value (s.source gs 4).toNat)) ord) s.me.npc (.afadd gd .w gb gs ord sp off) s { g := [gd] }
      (fun t => t.gotOld gd 4 (leNat (s.bytesAt o)) ∧
        leNat (t.bytesAt o) = addCode .fp32 .rne false (Fmt.fp32.value (leNat (s.bytesAt o)))
          (Fmt.fp32.value (s.source gs 4).toNat) % 2 ^ 32 ∧ SameOutside o s t)) ∧
  (∀ (s : State) (gd : GReg) (sz : Size3) (gb gs gc : GReg) (ord : MemOrd) (sp : Bool) (off : BitVec 32) (o : Operand),
    s.issueFault (.acas gd sz gb gs gc ord sp off) = none → s.atomicReady sz (s.address gb off) sp o →
    CompletesFrom
      (if leNat (s.bytesAt o) = (s.source gc (size3Bytes sz)).toNat
        then s.swapped o (s.source gs (size3Bytes sz)).toNat ord else s.loaded o (acqScope ord)) s.me.npc
      (.acas gd sz gb gs gc ord sp off) s { g := atomicWritten gd sz }
      (fun t => t.gotOld gd (size3Bytes sz) (leNat (s.bytesAt o)) ∧
        leNat (t.bytesAt o) = (if leNat (s.bytesAt o) = (s.source gc (size3Bytes sz)).toNat
          then (s.source gs (size3Bytes sz)).toNat else leNat (s.bytesAt o)) ∧ SameOutside o s t)) ∧
  (∀ p ∈ atomicForms, ∀ (s : State) (gd : GReg) (sz : Size3) (gb gs : GReg) (ord : MemOrd) (sp : Bool) (off : BitVec 32),
    s.issueFault (p.1 gd sz gb gs ord sp off) = none → (s.address gb off).toNat % size3Bytes sz ≠ 0 →
    Raises (p.1 gd sz gb gs ord sp off) s (plainFault .misaligned (s.address gb off))) ∧
  (∀ (s : State) (gd : GReg) (sz : Size3) (gb gs gc : GReg) (ord : MemOrd) (sp : Bool) (off : BitVec 32),
    s.issueFault (.acas gd sz gb gs gc ord sp off) = none → (s.address gb off).toNat % size3Bytes sz ≠ 0 →
    Raises (.acas gd sz gb gs gc ord sp off) s (plainFault .misaligned (s.address gb off))) ∧
  (∀ (s : State) (gd : GReg) (sz : Size3) (gb gs : GReg) (ord : MemOrd) (sp : Bool) (off : BitVec 32),
    s.issueFault (.afadd gd sz gb gs ord sp off) = none → (s.address gb off).toNat % size3Bytes sz ≠ 0 →
    Raises (.afadd gd sz gb gs ord sp off) s (plainFault .misaligned (s.address gb off))) ∧
  (∀ p ∈ atomicForms, ∀ (s : State) (gd : GReg) (sz : Size3) (gb gs : GReg) (ord : MemOrd) (sp : Bool) (off : BitVec 32)
    (o : Operand), s.issueFault (p.1 gd sz gb gs ord sp off) = none → (s.address gb off).toNat % size3Bytes sz = 0 →
    s.operand sp .both (s.address gb off) (size3Bytes sz) = .ok o → o.atomicSize < size3Bytes sz →
    Raises (p.1 gd sz gb gs ord sp off) s (plainFault .misaligned (s.address gb off))) ∧
  (∀ (s : State) (gd : GReg) (sz : Size3) (gb gs gc : GReg) (ord : MemOrd) (sp : Bool) (off : BitVec 32) (o : Operand),
    s.issueFault (.acas gd sz gb gs gc ord sp off) = none → (s.address gb off).toNat % size3Bytes sz = 0 →
    s.operand sp .both (s.address gb off) (size3Bytes sz) = .ok o → o.atomicSize < size3Bytes sz →
    Raises (.acas gd sz gb gs gc ord sp off) s (plainFault .misaligned (s.address gb off)))

/-- DRAIN performs a part of a pending write that nothing comes before: the bytes outside the write read as before, and
what is left of it stays pending. A write of one part is performed whole and is gone from the core; a part that lies in
granted device or host memory, or in the store of a live task, puts its bytes there (R58, R59, R115, R121, R317). The
model's own choices in it: log entry 68. -/
def Obligations.DrainPerforms : Prop :=
  (∀ (s : State) (c : CoreId) (w : PendingWrite),
    (s.core c).writes.find? (fun v => v.seq == w.seq) = some w → s.writeBlocked c w = false →
    ∃ t, exec (.drain c w.seq) s = .next t ∧
      (∀ v ∈ (t.core c).writes, v ∈ (s.core c).writes ∨ v.seq = w.seq ∧
        ∀ g ∈ v.segs, ∃ h ∈ w.segs, g ∈ s.partsOf h) ∧
      (∀ a, (∀ g ∈ w.segs, ∀ pa, g.dst = .phys pa → ¬(pa ≤ a ∧ a < pa + g.bytes.length)) →
        (∀ g ∈ w.segs, ∀ k p b pa, g.dst = .store k p b → s.peerAt k p = .saved pa →
          ¬(pa + 0x7_0000 + b ≤ a ∧ a < pa + 0x7_0000 + b + g.bytes.length)) → t.byteAt a = s.byteAt a) ∧
      (∀ d off, (∀ g ∈ w.segs, ∀ k p b, g.dst = .store k p b → s.peerAt k p = .core d →
          ¬(b ≤ off ∧ off < b + g.bytes.length)) → t.storeByte d off = s.storeByte d off)) ∧
  (∀ (s : State) (c : CoreId) (w : PendingWrite) (g : Seg),
    (s.core c).writes.find? (fun v => v.seq == w.seq) = some w → s.writeBlocked c w = false →
    w.segs = [g] → s.partsOf g = [g] →
    ∃ t, exec (.drain c w.seq) s = .next t ∧ (t.core c).writes = (s.core c).writes.filter (fun v => v.seq != w.seq) ∧
      (∀ pa, g.dst = .phys pa → w.discard = false → w.space = .virt → (memType pa = .device ∨ memType pa = .host) →
        s.granted w.master pa .write = true → ∀ j, j < g.bytes.length → t.byteAt (pa + j) = g.bytes.getD j 0) ∧
      (∀ k p off d, g.dst = .store k p off → s.peerAt k p = .core d →
        ∀ j, j < g.bytes.length → t.storeByte d (off + j) = g.bytes.getD j 0))

/-! Tiles and accumulators in memory (R231 to R240, R246). -/

/-- TLD and TLDX with no qualifier: a selected row takes the bytes of its row in memory (after its scale bytes, for
TLDX), with its scales beside it; other rows keep their data, and their scales as far as the type has them (R73, R234).
The model's own choices in it: log entry 28. -/
def Obligations.TileLoads : Prop :=
  (∀ (s : State) (td : TReg) (ty : Ty) (gb gs gx : GReg) (m : MReg) (sp : Bool) (off : BitVec 32) (os xs : List Operand),
    s.issueFault (.tld td ty gb gs gx m .nf sp off) = none → s.idle →
    s.units sp .read (rowUnits ty 0 (s.address gb off) (s.g gs) (s.mask m)) = .ok os →
    s.units sp .read (scaleUnits ty (s.g gx) (s.mask m)) = .ok xs →
    (s.learnAll (os ++ xs)).touch .read os = .ok () → (s.learnAll (os ++ xs)).touch .read xs = .ok () →
    CompletesFrom ((s.learnAll (os ++ xs)).request (os ++ xs)).clearUnits s.me.npc (.tld td ty gb gs gx m .nf sp off) s
      { t := [tileSlot s.here.rot td] } (fun t =>
      (∀ p ∈ (rowsOfMask (s.mask m)).zip os, (t.tile td).rows[p.1] = rowData ty (s.bytesAt p.2)) ∧
      (∀ p ∈ (rowsOfMask (s.mask m)).zip xs, (t.tile td).side[p.1] = BitVec.ofNat 128 (leNat (s.bytesAt p.2))) ∧
      (ty.scaled = false → ∀ i : Fin 64, (t.tile td).side[i] = 0) ∧
      (∀ i : Fin 64, (s.mask m).getLsbD i.val = false →
        (t.tile td).rows[i] = (s.tile td).rows[i] ∧
        (t.tile td).side[i] = clearScales ty (s.tile td).side[i]) ∧ SameBytes s t)) ∧
  (∀ (s : State) (td : TReg) (ty : Ty) (gb gs : GReg) (m : MReg) (sp : Bool) (off : BitVec 32) (os : List Operand),
    s.issueFault (.tldx td ty gb gs m .nf sp off) = none → s.idle → ty.scaled = true →
    s.units sp .read (rowUnits ty (scaleBytes ty) (s.address gb off) (s.g gs) (s.mask m)) = .ok os →
    (s.learnAll os).touch .read os = .ok () →
    CompletesFrom ((s.learnAll os).request os).clearUnits s.me.npc (.tldx td ty gb gs m .nf sp off) s
      { t := [tileSlot s.here.rot td] } (fun t =>
      (∀ p ∈ (rowsOfMask (s.mask m)).zip os,
        (t.tile td).rows[p.1] = rowData ty ((s.bytesAt p.2).drop (scaleBytes ty)) ∧
        (t.tile td).side[p.1] = BitVec.ofNat 128 (leNat ((s.bytesAt p.2).take (scaleBytes ty)))) ∧
      (∀ i : Fin 64, (s.mask m).getLsbD i.val = false →
        (t.tile td).rows[i] = (s.tile td).rows[i] ∧
        (t.tile td).side[i] = clearScales ty (s.tile td).side[i]) ∧ SameBytes s t))

/-- TLDT takes element (i, k) of a selected row i from place i of memory row k; TGATHER takes a selected row from the
row of memory, or of a task's store, that its index names: where a row lies in another core's store it asks each owner and
waits, and once every row has come it writes them, or raises DATA_UNCORRECTABLE for the first row that was uncorrectable when
its owner read it (R60, R240). Both leave a sidecar of zeros (R73, R234, R240). ALD takes the
selected elements of an accumulator. The model's own choices in it: log entries 28 and 101. -/
def Obligations.TransposedAndGathered : Prop :=
  (∀ (s : State) (td : TReg) (ty : Ty) (gb gs : GReg) (m : MReg) (sp : Bool) (off : BitVec 32) (os : List Operand),
    s.issueFault (.tldt td ty gb gs m sp off) = none → ty.plain = true → s.idle →
    s.units sp .read ((columnUnits (s.address gb off) (s.g gs) ty (s.mask m)).map (·.2.2)) = .ok os →
    (s.learnAll os).touch .read os = .ok () →
    CompletesFrom ((s.learnAll os).request os) s.me.npc (.tldt td ty gb gs m sp off) s { t := [tileSlot s.here.rot td] } (fun t =>
      (∀ p ∈ (columnUnits (s.address gb off) (s.g gs) ty (s.mask m)).zip os, ∀ j, j * (typeBits ty / 8) < p.1.2.2.len →
        (t.tile td).code ty (Fin.ofNat 64 (p.1.2.1 + j)) p.1.1 =
          leNat (((s.bytesAt p.2).drop (j * (typeBits ty / 8))).take (typeBits ty / 8))) ∧
      (∀ i : Fin 64, (t.tile td).side[i] = 0) ∧
      (∀ i : Fin 64, (s.mask m).getLsbD i.val = false → (t.tile td).rows[i] = (s.tile td).rows[i]) ∧ SameBytes s t)) ∧
  (∀ (s : State) (td : TReg) (ty : Ty) (ti : TReg) (row : Fin 64) (gb : GReg) (m : MReg) (sp : Bool) (off : BitVec 32)
    (os : List Operand),
    s.issueFault (.tgather td ty ti row gb m sp off) = none → ty.plain = true → s.idle → s.here.gather = none →
    s.gatherUnits (s.address gb off) sp (s.tile ti).rows[row] (rowsOfMask (s.mask m)) = .ok os →
    (sp = true → ∀ o ∈ os, ∃ l, o.loc = .store s.cur.core l) → (s.learnAll os).touch .read os = .ok () →
    CompletesFrom ((s.learnAll os).request os) s.me.npc (.tgather td ty ti row gb m sp off) s { t := [tileSlot s.here.rot td] } (fun t =>
      (∀ p ∈ (rowsOfMask (s.mask m)).zip os, (t.tile td).rows[p.1] = BitVec.ofNat 2048 (leNat (s.bytesAt p.2))) ∧
      (∀ i : Fin 64, (t.tile td).side[i] = 0) ∧
      (∀ i : Fin 64, (s.mask m).getLsbD i.val = false → (t.tile td).rows[i] = (s.tile td).rows[i]) ∧ SameBytes s t)) ∧
  (∀ (s : State) (td : TReg) (ty : Ty) (ti : TReg) (row : Fin 64) (gb : GReg) (m : MReg) (off : BitVec 32)
    (os : List Operand),
    s.issueFault (.tgather td ty ti row gb m true off) = none → s.idle → s.here.gather = none →
    s.gatherUnits (s.address gb off) true (s.tile ti).rows[row] (rowsOfMask (s.mask m)) = .ok os →
    (∃ o ∈ os, ∃ c l, o.loc = .store c l ∧ c ≠ s.cur.core) →
    Becomes (.tgather td ty ti row gb m true off) s (fun t =>
      t.me.wait = some .gatherRows ∧ t.me.pc = s.me.pc ∧ t.tile td = s.tile td ∧ SameBytes s t ∧
      ∃ rows, t.here.gather = some rows ∧ rows.length = os.length ∧
        ∀ p ∈ (rowsOfMask (s.mask m)).zip (os.zip rows), p.2.2.row = p.1 ∧ ∀ c l, p.2.1.loc = .store c l →
          p.2.2.key = l.key ∧ p.2.2.owner = l.peer ∧ p.2.2.off = l.off ∧
          p.2.2.data = (if c = s.cur.core then some (BitVec.ofNat 2048 (leNat (s.bytesAt p.2.1))) else none) ∧
          p.2.2.bad = if c = s.cur.core then s.here.badLocal l.off 256 else none)) ∧
  (∀ (s : State) (td : TReg) (ty : Ty) (ti : TReg) (row : Fin 64) (gb : GReg) (m : MReg) (off : BitVec 32)
    (os : List Operand) (rows : List GatherRow),
    s.issueFault (.tgather td ty ti row gb m true off) = none → ty.plain = true → s.idle → s.here.gather = some rows →
    s.gatherUnits (s.address gb off) true (s.tile ti).rows[row] (rowsOfMask (s.mask m)) = .ok os →
    rows.map (fun r => r.row) = rowsOfMask (s.mask m) → (∀ r ∈ rows, r.data.isSome = true) →
    ((∀ r ∈ rows, r.bad = none) →
      CompletesFrom (s.setHere { s.here with gather := none }) s.me.npc (.tgather td ty ti row gb m true off) s
        { t := [tileSlot s.here.rot td] } (fun t =>
        (∀ r ∈ rows, ∀ v, r.data = some v → (t.tile td).rows[r.row] = v) ∧ (∀ i : Fin 64, (t.tile td).side[i] = 0) ∧
        (∀ i : Fin 64, (s.mask m).getLsbD i.val = false → (t.tile td).rows[i] = (s.tile td).rows[i]) ∧ SameBytes s t)) ∧
    (∀ (n b : Nat) (r : GatherRow) (o : Operand), rows[n]? = some r → os[n]? = some o → r.bad = some b →
      (∀ x ∈ rows.take n, x.bad = none) →
      Raises (.tgather td ty ti row gb m true off) s
        ⟨.dataUncorrectable, o.va + BitVec.ofNat 64 (b - r.off), BitVec.ofNat 16 (r.row.val * 256 + 0xFC), 0, none⟩)) ∧
  (∀ (s : State) (ad : AReg) (gb : GReg) (mr mc : MReg) (sp : Bool) (off : BitVec 32) (os : List Operand),
    s.issueFault (.ald ad gb mr mc sp off) = none → s.idle → (sp = true → accRange (s.address gb off) = none) →
    s.units sp .read ((accUnits (s.address gb off) (s.mask mr) (s.mask mc)).map (·.2.2)) = .ok os →
    (s.learnAll os).touch .read os = .ok () →
    CompletesFrom ((s.learnAll os).request os) s.me.npc (.ald ad gb mr mc sp off) s { a := [ad] } (fun t =>
      (∀ p ∈ (accUnits (s.address gb off) (s.mask mr) (s.mask mc)).zip os, ∀ j, j * 4 < p.1.2.2.len →
        accCode (t.acc ad) (Fin.ofNat 64 p.1.1) (Fin.ofNat 64 (p.1.2.1 + j)) =
          leNat (((s.bytesAt p.2).drop (j * 4)).take 4)) ∧
      (∀ i j : Fin 64, ((s.mask mr).getLsbD i.val && (s.mask mc).getLsbD j.val) = false →
        accCode (t.acc ad) i j = accCode (s.acc ad) i j) ∧ SameBytes s t))

/-- TST, TSTX, TSTT and AST with no qualifier retire with one write still to be performed for the rows and one for the
scales; no byte of memory has changed yet. Every row of TST, TSTX and TSTT is checked for translation and permission,
selected rows for frozen frames too (R58, R235); of an accumulator AST checks only the parts that its masks select, the
model's choice of log entry 101 (R58, R246). Which of two parts that write one byte comes last is a free value (R235). The
model's own choices in it: log entries 9, 72, 78 and 101. -/
def Obligations.TileStores : Prop :=
  (∀ (s : State) (ts : TReg) (ty : Ty) (gb gs gx : GReg) (m : MReg) (sp : Bool) (off : BitVec 32) (os xs : List Operand),
    s.issueFault (.tst ts ty gb gs gx m .nf sp off) = none →
    s.storeUnits sp (withMask (s.mask m) (everyRow ty 0 (s.address gb off) (s.g gs))) = .ok os →
    s.storeUnits sp (withMask (s.mask m) (everyScale ty (s.g gx))) = .ok xs →
    (∀ p ∈ picked (s.mask m) os ++ picked (s.mask m) xs, (s.learnAll (os ++ xs)).sweepIn p.2 = false) →
    CompletesFrom
      (((s.learnAll (os ++ xs)).pushParts (s.rangeOf sp (s.address gb off) (s.g gs) 64 (dataBytes ty))
        (rowParts (s.tile ts) ty 0 (s.mask m) os)).pushParts (s.scaleRange sp ty (s.g gx))
        (scaleParts (s.tile ts) ty (s.mask m) xs)) s.me.npc (.tst ts ty gb gs gx m .nf sp off) s {} (SameBytes s)) ∧
  (∀ (s : State) (ts : TReg) (ty : Ty) (gb gs : GReg) (m : MReg) (sp : Bool) (off : BitVec 32) (os : List Operand),
    s.issueFault (.tstx ts ty gb gs m .nf sp off) = none →
    s.storeUnits sp (withMask (s.mask m) (everyRow ty (scaleBytes ty) (s.address gb off) (s.g gs))) = .ok os →
    (∀ p ∈ picked (s.mask m) os, (s.learnAll os).sweepIn p.2 = false) →
    CompletesFrom
      ((s.learnAll os).pushParts (s.rangeOf sp (s.address gb off) (s.g gs) 64 (scaleBytes ty + dataBytes ty))
        (rowParts (s.tile ts) ty (scaleBytes ty) (s.mask m) os)) s.me.npc
      (.tstx ts ty gb gs m .nf sp off) s {} (SameBytes s)) ∧
  (∀ (s : State) (ts : TReg) (ty : Ty) (gb gs : GReg) (m : MReg) (sp : Bool) (off : BitVec 32)
    (us : List (Nat × Nat × MemUnit)) (xs os : List Operand),
    s.issueFault (.tstt ts ty gb gs m sp off) = none → us = columnUnits (s.address gb off) (s.g gs) ty (s.mask m) →
    s.storeUnits sp (tsttChecks (s.address gb off) (s.g gs) ty us) = .ok xs →
    os = (((tsttChecks (s.address gb off) (s.g gs) ty us).zip xs).filter (fun p => p.1.1)).map (fun p => p.2) →
    (os.any (s.learnAll xs).sweepIn) = false →
    CompletesFrom
      ((s.learnAll xs).pushParts (s.rangeOf sp (s.address gb off) (s.g gs) ty.elems (64 * (typeBits ty / 8)))
        (os.zip (us.map (fun p => (List.range (p.2.2.len / (typeBits ty / 8))).flatMap (fun j =>
          natLe (typeBits ty / 8) ((s.tile ts).code ty (Fin.ofNat 64 (p.2.1 + j)) p.1)))))) s.me.npc
      (.tstt ts ty gb gs m sp off) s {} (SameBytes s)) ∧
  (∀ (s : State) (a : AReg) (gb : GReg) (mr mc : MReg) (sp : Bool) (off : BitVec 32) (os : List Operand),
    s.issueFault (.ast a gb mr mc sp off) = none → (sp = true → accRange (s.address gb off) = none) →
    s.units sp .write ((accUnits (s.address gb off) (s.mask mr) (s.mask mc)).map (·.2.2)) = .ok os →
    (os.any (s.learnAll os).sweepIn) = false →
    CompletesFrom
      (if os = [] then s.learnAll os
        else (s.learnAll os).pushRows (s.rangeOf sp (s.address gb off) 0 1 16384)
          (os.zip ((accUnits (s.address gb off) (s.mask mr) (s.mask mc)).map (fun p =>
            (List.range (p.2.2.len / 4)).flatMap (fun j =>
              natLe 4 (accCode (s.acc a) (Fin.ofNat 64 p.1) (Fin.ofNat 64 (p.2.1 + j)))))))) s.me.npc
      (.ast a gb mr mc sp off) s {} (SameBytes s))

/-! Vector forms (R251 to R261). -/

/-- TADD, TSUB and TMUL and their scalar forms: each element of a selected row takes the exact result of its operands'
elements, rounded once, or an integer byte. -/
def Obligations.RoundedVectors : Prop :=
  (∀ p ∈ roundedForms, ∀ (s : State) (td ta tb : TReg) (ty : Ty) (m : MReg) (rm : Round) (sat : Bool),
    WellFormed (p.1 td ta tb ty m rm sat) → s.issueFault (p.1 td ta tb ty m rm sat) = none →
    WritesTile (p.1 td ta tb ty m rm sat) s td (fun t => Elements s t td ty m (fun i k =>
      p.2.2 ty rm sat ((s.tile ta).code ty i k) ((s.tile tb).code ty i k)))) ∧
  (∀ p ∈ roundedForms, ∀ (s : State) (td ta : TReg) (gs : GReg) (ty : Ty) (m : MReg) (rm : Round) (sat : Bool),
    WellFormed (p.2.1 td ta gs ty m rm sat) → s.issueFault (p.2.1 td ta gs ty m rm sat) = none →
    WritesTile (p.2.1 td ta gs ty m rm sat) s td (fun t => Elements s t td ty m (fun i k =>
      p.2.2 ty rm sat ((s.tile ta).code ty i k) ((s.g gs).toNat % 2 ^ typeBits ty)))) ∧
  (∀ (s : State) (td ta tb tc : TReg) (ty : Ty) (m : MReg) (rm : Round) (sat : Bool),
    WellFormed (.tfma td ta tb tc ty m rm sat) → s.issueFault (.tfma td ta tb tc ty m rm sat) = none →
    WritesTile (.tfma td ta tb tc ty m rm sat) s td (fun t => Elements s t td ty m (fun i k =>
      if ty = .i8 then byteOf sat (signed8 ((s.tile ta).code ty i k) * signed8 ((s.tile tb).code ty i k) +
        signed8 ((s.tile tc).code ty i k))
      else codeFma (Ty.fmt ty) rm sat ((s.tile ta).code ty i k) ((s.tile tb).code ty i k) ((s.tile tc).code ty i k))))

/-- The forms of two operands without rounding, at each element: extremes, logic, shifts and compares; and the scalar
extremes. -/
def Obligations.PlainVectors : Prop :=
  (∀ p ∈ plainForms, ∀ (s : State) (td ta tb : TReg) (ty : Ty) (m : MReg),
    WellFormed (p.1 td ta tb ty m) → s.issueFault (p.1 td ta tb ty m) = none →
    WritesTile (p.1 td ta tb ty m) s td (fun t => Elements s t td ty m (fun i k =>
      p.2 ty ((s.tile ta).code ty i k) ((s.tile tb).code ty i k)))) ∧
  (∀ p ∈ [(Instr.tmins, false), (Instr.tmaxs, true)], ∀ (s : State) (td ta : TReg) (gs : GReg) (ty : Ty) (m : MReg),
    WellFormed (p.1 td ta gs ty m) → s.issueFault (p.1 td ta gs ty m) = none →
    WritesTile (p.1 td ta gs ty m) s td (fun t => Elements s t td ty m (fun i k =>
      extreme p.2 ty ((s.tile ta).code ty i k) ((s.g gs).toNat % 2 ^ typeBits ty)))) ∧
  (∀ (s : State) (td ta tb tc : TReg) (ty : Ty) (m : MReg),
    WellFormed (.tsel td ta tb tc ty m) → s.issueFault (.tsel td ta tb tc ty m) = none →
    WritesTile (.tsel td ta tb tc ty m) s td (fun t => Elements s t td ty m (fun i k =>
      if (s.tile tc).code ty i k ≠ 0 then (s.tile ta).code ty i k else (s.tile tb).code ty i k)))

/-- The forms of one operand: TABS, TNEG, the approximations, TFILL and TSCALE. -/
def Obligations.UnaryVectors : Prop :=
  (∀ (s : State) (td ta : TReg) (ty : Ty) (m : MReg) (sat : Bool),
    WellFormed (.tabs td ta ty m sat) → s.issueFault (.tabs td ta ty m sat) = none →
    WritesTile (.tabs td ta ty m sat) s td (fun t => Elements s t td ty m (fun i k =>
      if ty = .i8 then byteOf sat (signed8 ((s.tile ta).code ty i k)).natAbs
      else (s.tile ta).code ty i k % 2 ^ (typeBits ty - 1)))) ∧
  (∀ (s : State) (td ta : TReg) (ty : Ty) (m : MReg) (sat : Bool),
    WellFormed (.tneg td ta ty m sat) → s.issueFault (.tneg td ta ty m sat) = none →
    WritesTile (.tneg td ta ty m sat) s td (fun t => Elements s t td ty m (fun i k =>
      if ty = .i8 then byteOf sat (-signed8 ((s.tile ta).code ty i k))
      else (s.tile ta).code ty i k + 2 ^ (typeBits ty - 1)))) ∧
  (∀ p ∈ approximations, ∀ (s : State) (td ta : TReg) (ty : Ty) (m : MReg),
    WellFormed (p.1 td ta ty m) → s.issueFault (p.1 td ta ty m) = none →
    WritesTile (p.1 td ta ty m) s td (fun t => Elements s t td ty m (fun i k => p.2 ((s.tile ta).code ty i k)))) ∧
  (∀ (s : State) (td : TReg) (gs : GReg) (ty : Ty) (m : MReg),
    WellFormed (.tfill td gs ty m) → s.issueFault (.tfill td gs ty m) = none →
    WritesTile (.tfill td gs ty m) s td (fun t => Elements s t td ty m (fun _ _ => (s.g gs).toNat))) ∧
  (∀ (s : State) (td ta : TReg) (gs : GReg) (ty : Ty) (m : MReg) (rm : Round) (sat : Bool),
    WellFormed (.tscale td ta gs ty m rm sat) → s.issueFault (.tscale td ta gs ty m rm sat) = none →
    WritesTile (.tscale td ta gs ty m rm sat) s td (fun t => Elements s t td ty m (fun i k =>
      elScale ty rm sat (s.g gs).toInt ((s.tile ta).code ty i k))))

/-- A row reduction gives element 0 the reduction of its row and the other elements 0; a column reduction gives row 0 the
reduction of each column over the selected rows, and zeros to the other rows. The order of a sum is that of R260's own
example of one row. -/
def Obligations.Reductions : Prop :=
  (∀ p ∈ extremeReductions, ∀ (s : State) (td ta : TReg) (ty : Ty) (m : MReg),
    (WellFormed (p.1 td ta ty m) → s.issueFault (p.1 td ta ty m) = none →
      WritesTile (p.1 td ta ty m) s td (fun t => Elements s t td ty m (fun i k =>
        if k = 0 then extremeOf p.2.2 ty (rowList (s.tile ta) ty i) else 0))) ∧
    (WellFormed (p.2.1 td ta ty m) → s.issueFault (p.2.1 td ta ty m) = none →
      WritesTile (p.2.1 td ta ty m) s td (fun t => Column s t td ta ty m (extremeOf p.2.2 ty)))) ∧
  (∀ (s : State) (td ta : TReg) (ty : Ty) (m : MReg) (rm : Round),
    (WellFormed (.trsum td ta ty m rm) → s.issueFault (.trsum td ta ty m rm) = none →
      WritesTile (.trsum td ta ty m rm) s td (fun t => Elements s t td ty m (fun i k =>
        if k = 0 then sumOf ty rm (rowList (s.tile ta) ty i) else 0))) ∧
    (WellFormed (.tcsum td ta ty m rm) → s.issueFault (.tcsum td ta ty m rm) = none →
      WritesTile (.tcsum td ta ty m rm) s td (fun t => Column s t td ta ty m (sumOf ty rm)))) ∧
  sumOf .fp32 .rne (0x4B80_0000 :: List.replicate 63 0x3F80_0000) = 0x4B80_001F

/-- TTR, TROWB, TCOLB, TROT and TSHUF: each element of a selected row is the element of the source that R261 names; TROWB
leaves the padding of an MXFP6 tile zero in every row (R72, R261). The model's own choices in it: log entry 28 (what TROWB's
merged rows keep of a scaled type). -/
def Obligations.Shuffles : Prop :=
  (∀ (s : State) (td ta : TReg) (ty : Ty) (m : MReg), WellFormed (.ttr td ta ty m) → s.issueFault (.ttr td ta ty m) = none →
    WritesTile (.ttr td ta ty m) s td (fun t => Elements s t td ty m (fun i k =>
      (s.tile ta).code ty (Fin.ofNat 64 (k % 64)) (64 * (k / 64) + i.val)))) ∧
  (∀ (s : State) (td ta : TReg) (ty : Ty) (c : BitVec 8) (m : MReg),
    (WellFormed (.tcolb td ta ty c m) → s.issueFault (.tcolb td ta ty c m) = none →
      WritesTile (.tcolb td ta ty c m) s td (fun t => Elements s t td ty m (fun i _ => (s.tile ta).code ty i c.toNat))) ∧
    (WellFormed (.trot td ta ty c m) → s.issueFault (.trot td ta ty c m) = none →
      WritesTile (.trot td ta ty c m) s td (fun t => Elements s t td ty m (fun i k =>
        (s.tile ta).code ty i ((k + c.toNat) % ty.elems))))) ∧
  (∀ (s : State) (td ta tb : TReg) (ty : Ty) (r : BitVec 8) (m : MReg),
    WellFormed (.tshuf td ta tb ty r m) → s.issueFault (.tshuf td ta tb ty r m) = none →
    WritesTile (.tshuf td ta tb ty r m) s td (fun t => Elements s t td ty m (fun i k =>
      (s.tile ta).code ty i ((s.tile tb).code .i8 (Fin.ofNat 64 r.toNat) k % ty.elems)))) ∧
  (∀ (s : State) (td ta : TReg) (ty : Ty) (r : BitVec 8) (m : MReg),
    WellFormed (.trowb td ta ty r m) → s.issueFault (.trowb td ta ty r m) = none →
    WritesTile (.trowb td ta ty r m) s td (fun t => ∀ i : Fin 64,
      ((s.mask m).getLsbD i.val = true →
        (t.tile td).rows[i] = clearPadding ty (s.tile ta).rows[Fin.ofNat 64 r.toNat] ∧
        (t.tile td).side[i] = clearScales ty (s.tile ta).side[Fin.ofNat 64 r.toNat]) ∧
      ((s.mask m).getLsbD i.val = false →
        (t.tile td).rows[i] = clearPadding ty (s.tile td).rows[i] ∧
        (t.tile td).side[i] = if ty.scaled then (s.tile td).side[i] else 0)))

/-! Conversions (R262, R263). -/

/-- TCVT: the elements of its part take the converted values of their source elements, under the scale that a block
has, is given, or is chosen for it; other elements and scales stay. Between an unscaled type and itself .sat changes no
infinity (R263). The model's own choices in it: log entries 27 and 28
(the padding and upper sidecar bytes of masked-off rows). -/
def Obligations.Conversions : Prop :=
  (∀ (s : State) (td ta : TReg) (ty tys : Ty) (h : Fin 16) (m : MReg) (rm : Round) (sat : Bool),
    WellFormed (.tcvt td ta ty tys h m rm sat) → s.issueFault (.tcvt td ta ty tys h m rm sat) = none →
    WritesTile (.tcvt td ta ty tys h m rm sat) s td (fun t => Converted s t td ty m rm (sat && (ty.scaled || ty != tys))
      (fun i k => (sourceOf ty tys h.val k).map (tileValue (s.tile ta) tys i)) (fun i b => scaleAt (s.tile td).side[i] b))) ∧
  (∀ (s : State) (td ta : TReg) (ty tys : Ty) (h : Fin 16) (m : MReg) (rm : Round) (sat : Bool),
    WellFormed (.tcvtChoose td ta ty tys h m rm sat) → s.issueFault (.tcvtChoose td ta ty tys h m rm sat) = none →
    WritesTile (.tcvtChoose td ta ty tys h m rm sat) s td (fun t => Converted s t td ty m rm true
      (fun i k => (sourceOf ty tys h.val k).map (tileValue (s.tile ta) tys i))
      (chosenScale ty (fun i k => (sourceOf ty tys h.val k).map (tileValue (s.tile ta) tys i))))) ∧
  (∀ (s : State) (td ta tx : TReg) (ty tys : Ty) (m : MReg) (rm : Round) (sat : Bool),
    WellFormed (.tcvtGiven td ta ty tys tx m rm sat) → s.issueFault (.tcvtGiven td ta ty tys tx m rm sat) = none →
    WritesTile (.tcvtGiven td ta ty tys tx m rm sat) s td (fun t => Converted s t td ty m rm (sat && (ty.scaled || ty != tys))
      (fun i k => (sourceOf ty tys 0 k).map (tileValue (s.tile ta) tys i)) (fun i b => scaleAt (s.tile tx).side[i] b)))

/-! Matrix forms (R64, R65, R102, R104, R241 to R248). -/

/-- TMMA on FP32 accumulators adds the exact sum of its products to a selected element and rounds once; on INT32 it
clamps the exact sum. The counters count its zero row pairs, skipped or not, and the TMMA itself. The model's own
choices in it: log entry 6. -/
def Obligations.MatrixMultiply : Prop :=
  (∀ (s : State) (ad : AReg) (ta tb : TReg) (tya tyb : Ty) (mr mc : MReg),
    WellFormed (.tmma ad ta tb tya tyb mr mc) → s.issueFault (.tmma ad ta tb tya tyb mr mc) = none →
    Completes (.tmma ad ta tb tya tyb mr mc) s { a := [ad], ev := [3, 4, 5] } (fun t =>
      AccElements s t ad mr mc (fun i j =>
        if tya = .i8 then int32Of (signed32 (accCode (s.acc ad) i j) +
          ((List.range 256).map (fun k => signed8 ((s.tile ta).code .i8 i k) * signed8 ((s.tile tb).code .i8 j k))).sum)
        else tmmaFp32 (accCode (s.acc ad) i j) (valuesOf (s.tile ta) tya i) (valuesOf (s.tile tb) tyb j)) ∧
      (∃ n, n ≤ zeroPairs s ta tb mr mc ∧ t.here.counters[(3 : Fin 7)] = s.here.counters[(3 : Fin 7)] + BitVec.ofNat 64 n ∧
        t.here.counters[(4 : Fin 7)] = s.here.counters[(4 : Fin 7)] + BitVec.ofNat 64 (zeroPairs s ta tb mr mc - n)) ∧
      t.here.counters[(5 : Fin 7)] = s.here.counters[(5 : Fin 7)] + 1)) ∧
  (∀ (c : Nat) (l : List (Rat × Rat)) (v : Rat) (neg : Bool),
    Fmt.fp32.value c = .num neg v → v + (l.map (fun p => p.1 * p.2)).sum ≠ 0 →
    tmmaFp32 c (l.map (fun p => Val.ofRat p.1)) (l.map (fun p => Val.ofRat p.2)) =
      roundFp32Rne (v + (l.map (fun p => p.1 * p.2)).sum))

/-- AZERO, AMOV, AADD and AFROM write the elements that both masks select; ACVT converts a part of a tile. The model's own
choices in it: log entries 27 (ACVT with .sat of an infinite element) and 28. -/
def Obligations.Accumulators : Prop :=
  (∀ (s : State) (ad as : AReg) (mr mc : MReg),
    (s.issueFault (.azero ad mr mc) = none →
      Completes (.azero ad mr mc) s { a := [ad] } (fun t => AccElements s t ad mr mc (fun _ _ => 0))) ∧
    (s.issueFault (.amov ad as mr mc) = none →
      Completes (.amov ad as mr mc) s { a := [ad] } (fun t => AccElements s t ad mr mc (accCode (s.acc as))))) ∧
  (∀ (s : State) (ad as : AReg) (ty : Ty) (mr mc : MReg),
    WellFormed (.aaddAccumulator ad as ty mr mc) → s.issueFault (.aaddAccumulator ad as ty mr mc) = none →
    Completes (.aaddAccumulator ad as ty mr mc) s { a := [ad] } (fun t => AccElements s t ad mr mc (fun i j =>
      if ty = .i32 then int32Of (signed32 (accCode (s.acc ad) i j) + signed32 (accCode (s.acc as) i j))
      else addCode .fp32 .rne false (Fmt.fp32.value (accCode (s.acc ad) i j)) (Fmt.fp32.value (accCode (s.acc as) i j))))) ∧
  (∀ (s : State) (ad : AReg) (ts : TReg) (ty : Ty) (h : Fin 8) (mr mc : MReg),
    WellFormed (.afrom ad ts ty h mr mc) → s.issueFault (.afrom ad ts ty h mr mc) = none →
    Completes (.afrom ad ts ty h mr mc) s { a := [ad] } (fun t => AccElements s t ad mr mc (fun i j =>
      if ty = .bf16 ∨ ty = .fp16 then convert (Ty.fmt ty) .fp32 ((s.tile ts).code ty i (64 * h.val + j.val)) .rne false
      else (s.tile ts).code ty i (64 * h.val + j.val)))) ∧
  (∀ (s : State) (td : TReg) (as : AReg) (ty : Ty) (rm : Round) (sat : Bool) (h : Fin 8) (mr mc : MReg),
    WellFormed (.acvt td as ty rm sat h mr mc) → s.issueFault (.acvt td as ty rm sat h mr mc) = none →
    WritesTile (.acvt td as ty rm sat h mr mc) s td (fun t => Converted s t td ty mr rm (sat || ty.scaled)
      (acvtSource s as ty h mc) (chosenScale ty (acvtSource s as ty h mc))))

/-- TZMASK gives the mask of the rows whose 256 data bytes are all zero; TMOV copies a tile and TZERO clears one. -/
def Obligations.TileRegisters : Prop :=
  (∀ (s : State) (gd : GReg) (ts : TReg), s.issueFault (.tzmask gd ts) = none →
    ∃ v : Word, (∀ i : Fin 64, v.getLsbD i.val = decide ((s.tile ts).rows[i] = 0)) ∧
      Completes (.tzmask gd ts) s { g := [gd] } (fun t => t.holds gd v)) ∧
  (∀ (s : State) (td ts : TReg), s.issueFault (.tmov td ts) = none →
    WritesTile (.tmov td ts) s td (fun t => t.tile td = s.tile ts)) ∧
  (∀ (s : State) (td : TReg), s.issueFault (.tzero td) = none → WritesTile (.tzero td) s td (fun t =>
    ∀ i : Fin 64, (t.tile td).rows[i] = 0 ∧ (t.tile td).side[i] = 0))

/-- The mask-register forms write their result; a write to m0 or g0 is discarded (R67, R264). -/
def Obligations.MaskRegisters : Prop :=
  (∀ p ∈ [(Instr.mand, fun x y : Word => x &&& y), (Instr.mor, fun x y => x ||| y), (Instr.mxor, fun x y => x ^^^ y)],
    ∀ (s : State) (md ma mb : MReg), s.issueFault (p.1 md ma mb) = none →
    Completes (p.1 md ma mb) s { m := [md] } (fun t =>
      t.mask md = if md.val = 0 then BitVec.allOnes 64 else p.2 (s.mask ma) (s.mask mb))) ∧
  (∀ (s : State) (md ma : MReg) (gs gd : GReg),
    (s.issueFault (.mnot md ma) = none → Completes (.mnot md ma) s { m := [md] } (fun t =>
      t.mask md = if md.val = 0 then BitVec.allOnes 64 else ~~~(s.mask ma))) ∧
    (s.issueFault (.mset md gs) = none → Completes (.mset md gs) s { m := [md] } (fun t =>
      t.mask md = if md.val = 0 then BitVec.allOnes 64 else s.g gs)) ∧
    (s.issueFault (.mget gd ma) = none → Completes (.mget gd ma) s { g := [gd] } (fun t => t.holds gd (s.mask ma))) ∧
    (s.issueFault (.mpopc gd ma) = none → Completes (.mpopc gd ma) s { g := [gd] } (fun t =>
      t.holds gd (BitVec.ofNat 64 (countBits 64 (fun i => (s.mask ma).getLsbD i))))))

/-! Copies and batches (R134 to R140, R214 to R222). -/

/-- COPY, COPYR and DISCARD retire before any byte of memory changes: a copy joins the open batch with its checks made, a
block of no byte does nothing, a misaligned reduce-write faults, and DISCARD leaves a write that is still to be performed.
The model's own choices in it: log entry 89 (a misaligned reduce-write of no byte faults). -/
def Obligations.Copies : Prop :=
  (∀ (s : State) (gd gs gq : GReg) (dsp ssp : Bool) (os xs : List Operand),
    s.issueFault (.copy gd gs gq dsp ssp) = none →
    (s.copyReady (s.g gd) (s.g gs) (s.descriptor gq) dsp ssp os xs →
      CompletesFrom ((s.learnAll (os ++ xs)).withCopy .copy (s.g gd) (s.g gs) (s.descriptor gq) dsp ssp os xs) s.me.npc
        (.copy gd gs gq dsp ssp) s {} (SameBytes s)) ∧
    (emptyBlock (s.descriptor gq) = true → Completes (.copy gd gs gq dsp ssp) s {} (SameBytes s))) ∧
  (∀ (s : State) (gd gs gq : GReg) (bf16 lossy dsp ssp : Bool) (os xs : List Operand) (form : CopyForm),
    s.issueFault (.copyr gd gs gq bf16 lossy dsp ssp) = none →
    form = (if bf16 then .bf16 else if lossy then .fp32Lossy else .fp32) →
    (copyMisaligned form (s.g gd) (s.g gs) (s.descriptor gq) = none →
      s.copyReady (s.g gd) (s.g gs) (s.descriptor gq) dsp ssp os xs →
      CompletesFrom ((s.learnAll (os ++ xs)).withCopy form (s.g gd) (s.g gs) (s.descriptor gq) dsp ssp os xs) s.me.npc
        (.copyr gd gs gq bf16 lossy dsp ssp) s {} (SameBytes s)) ∧
    (copyMisaligned form (s.g gd) (s.g gs) (s.descriptor gq) = none → emptyBlock (s.descriptor gq) = true →
      Completes (.copyr gd gs gq bf16 lossy dsp ssp) s {} (SameBytes s)) ∧
    ((s.g gs).toNat % (if bf16 then 2 else 4) ≠ 0 →
      Raises (.copyr gd gs gq bf16 lossy dsp ssp) s (plainFault .misaligned (s.g gs)))) ∧
  (∀ (s : State) (gd gs : GReg) (a : Access),
    s.issueFault (.discard gd gs) = none → (s.g gd).toNat % 32 = 0 → (s.g gs).toNat % 32 = 0 →
    (s.g gs = 0 → Completes (.discard gd gs) s {} (SameBytes s)) ∧
    (s.g gs ≠ 0 →
      s.discardPages (pageParts (s.g gd).toNat (s.g gs).toNat ((s.g gs).toNat / 0x8000 + 2)) = .ok a →
      (∀ p ∈ a.pieces, (s.attrAt p.pa).fcount = 0) → (∀ p ∈ a.pieces, (s.attrAt p.pa).sweep = false) →
      CompletesFrom ((s.learnFrom { va := s.g gd, space := .virt, lo := (s.g gd).toNat, len := (s.g gs).toNat, loc := .mem a }).pushWrite
          (.virt, (s.g gd).toNat, (s.g gd).toNat + (s.g gs).toNat)
          (a.pieces.map (fun p => ⟨.phys p.pa, List.replicate p.len 0⟩)) none true) s.me.npc
        (.discard gd gs) s {} (SameBytes s)))

/-- BSEAL (`bseal`) completes: it seals the open batch and gives its number. BWAIT (`bwait`) completes with the count of
unfinished batches once that is at most n and no batch has failed, waits before that, and raises the earliest sealed of the
failed batches, one or several, with its number in ROW, the LEVEL and REASON of its first failure, and that failure's
address but for PEER_ABSENT and DATA_UNCORRECTABLE, which report 0; the others stay (R217, R221, R222, R319). Where that
fault goes to the runtime, it is raised once entry need not wait for earlier writes (R286). -/
def Obligations.Batches : Prop :=
  (∀ (s : State) (gd : GReg), s.issueFault (.bseal gd) = none →
    CompletesFrom (s.setHere s.here.sealed) s.me.npc (.bseal gd) s { g := [gd] } (fun t =>
      t.holds gd (s.here.batchCtr.setWidth 64))) ∧
  (∀ (s : State) (gd : GReg) (n : BitVec 16), s.issueFault (.bwait gd n) = none →
    (n.toNat < s.here.unfinished.length → exec (.bwait gd n) s = .next (s.setWait .batches)) ∧
    (s.here.unfinished.length ≤ n.toNat →
      (s.here.failedBatches = [] → Completes (.bwait gd n) s { g := [gd] } (fun t =>
        t.holds gd (BitVec.ofNat 64 s.here.unfinished.length))) ∧
      (∀ (b : Batch) (k : BitVec 32) (u : State), b ∈ s.here.failedBatches → b.num = some k →
        (∀ x ∈ s.here.failedBatches, x = b ∨
          ∃ j, x.num = some j ∧ (s.here.batchCtr - j).toNat < (s.here.batchCtr - k).toNat) →
        (s.me.sdeleg.getLsbD b.fault.cause.code = true ∧ u = s ∨
          s.me.sdeleg.getLsbD b.fault.cause.code = false ∧ s.me.mode = .user ∧ s.drainsTo u true) →
        exec (.bwait gd n) s = .next ((u.forget.setHere { u.forget.here with
            batches := u.here.batches.filter (fun x => x.num != some k) }).raise s.cur
          ⟨b.fault.cause,
            if b.fault.cause = .peerAbsent ∨ b.fault.cause = .dataUncorrectable then 0 else b.fault.addr,
            BitVec.ofNat 16 (k.toNat % 256 * 256 + b.fault.info.toNat % 256), 2, none⟩))))

/-! Fences and barrier cells (R41 to R43, R129, R223 to R226). -/

/-- A fence of kind .r changes nothing but what later reads of a copy's source wait for (R126); .rw does that too and retires
once the strand's earlier writes are performed; .w puts a floor under later writes, or performs earlier ones where some
cross the link. None writes a register. The model's own choices in it: log entry 25. -/
def Obligations.Fences : Prop :=
  (∀ (s : State) (sc : Scope), s.issueFault (.fence sc .r) = none →
    CompletesFrom (s.setMe { s.me with rfloor := s.here.order }) s.me.npc (.fence sc .r) s {} (SameBytes s)) ∧
  (∀ (s u : State) (sc : Scope), s.issueFault (.fence sc .rw) = none → s.drainsTo u (wideScope sc) →
    CompletesFrom (u.setMe { u.me with rfloor := u.here.order }) s.me.npc (.fence sc .rw) s {} (SameBytes u)) ∧
  (∀ (s u : State) (sc : Scope), s.issueFault (.fence sc .w) = none →
    ((wideScope sc && s.farWrites) = false →
      CompletesFrom (s.setMe { s.me with wfloor := s.here.order }) s.me.npc (.fence sc .w) s {} (SameBytes s)) ∧
    ((wideScope sc && s.farWrites) = true → s.drainsTo u true →
      CompletesFrom u s.me.npc (.fence sc .w) s {} (SameBytes u)))

/-- BARINIT sets what a cell expects; BARARR and BARSYNC arrive once at a cell, after the strand's earlier writes, and
give the phase of the arrival; BARWAIT and BARSYNC complete when the phase has ended and wait before that: a BARSYNC whose
arrival is not the last one of its phase notes the phase, and waits. The model's own choices in it: log entries 25 and 79. -/
def Obligations.BarrierCells : Prop :=
  (∀ (s : State) (gc gs : GReg) (n : CellName) (p : Place),
    s.issueFault (.barinit gc gs) = none → s.cellFound (s.g gc) false s.resident.key n p →
    1 ≤ (s.g gs).toNat → (s.g gs).toNat ≤ 4095 → (s.cellAt p n.cell).arrived = 0 →
    (∀ u, s.ready [] s.me.wfloor = .ok u →
      CompletesFrom (u.setCellAt p n.cell { (s.cellAt p n.cell) with expect := (s.g gs).setWidth 12, arrived := 0 })
        u.me.npc (.barinit gc gs) s {} (fun _ => True)) ∧
    (∀ u w, s.ready [] s.me.wfloor = .wait u w → exec (.barinit gc gs) s = .next (u.setWait w))) ∧
  (∀ (s u : State) (gd gc : GReg) (sc : Scope) (n : CellName) (k : GangKey) (p : Place),
    s.issueFault (.bararr gd gc sc) = none → s.cellFound (s.g gc) true k n p → n.pdev = false → s.arrivalGang n = some k →
    s.drainsTo u (wideScope sc) → (u.cellAt p n.cell).expect ≠ 0 → u.killPending k = false →
    CompletesFrom (u.setCellAt p n.cell (arrivedCell (u.cellAt p n.cell))) u.me.npc (.bararr gd gc sc) s { g := [gd] }
      (fun t => t.holds gd ((u.cellAt p n.cell).phase.setWidth 64))) ∧
  (∀ (s : State) (gd gc : GReg) (sc : Scope) (n : CellName) (a : Arrival) (ph : BitVec 8),
    s.issueFault (.bararr gd gc sc) = none → cellName (s.g gc) true = some n → n.pdev = true → s.arrival = some a →
    a.answer = some (.phase ph) →
    CompletesFrom (s.dropArrival a.tag) s.me.npc (.bararr gd gc sc) s { g := [gd] }
      (fun t => t.holds gd (ph.setWidth 64))) ∧
  (∀ (s : State) (gd gc gs : GReg) (sc : Scope) (n : CellName) (p : Place),
    s.issueFault (.barwait gd gc gs sc) = none → s.cellFound (s.g gc) false s.resident.key n p →
    (s.cellAt p n.cell).expect ≠ 0 → s.here.barLost = false →
    ((s.cellAt p n.cell).phase ≠ (s.g gs).setWidth 8 →
      CompletesFrom s.leftCell s.me.npc (.barwait gd gc gs sc) s { g := [gd] } (fun t =>
        t.holds gd ((s.cellAt p n.cell).phase.setWidth 64))) ∧
    ((s.cellAt p n.cell).phase = (s.g gs).setWidth 8 → exec (.barwait gd gc gs sc) s =
      .next ((s.setHere { s.here with barCell := some (Fin.ofNat 96 n.cell) }).setWait .barrier))) ∧
  (∀ (s u : State) (gd gc : GReg) (sc : Scope) (n : CellName) (c : CoreId),
    s.issueFault (.barsync gd gc sc) = none → s.cellFound (s.g gc) false s.resident.key n (.core c) → s.here.barPhase = none →
    s.drainsTo u (wideScope sc) → (u.cellAt (.core c) n.cell).expect ≠ 0 → u.killPending s.resident.key = false →
    u.here.barLost = false →
    (u.cellAt (.core c) n.cell).arrived + 1 = (u.cellAt (.core c) n.cell).expect →
    CompletesFrom (u.setCellAt (.core c) n.cell (arrivedCell (u.cellAt (.core c) n.cell))).leftCell u.me.npc
      (.barsync gd gc sc) s { g := [gd] } (fun t => t.holds gd ((u.cellAt (.core c) n.cell).phase.setWidth 64))) ∧
  (∀ (s u v : State) (gd gc : GReg) (sc : Scope) (n : CellName) (c : CoreId),
    s.issueFault (.barsync gd gc sc) = none → s.cellFound (s.g gc) false s.resident.key n (.core c) → s.here.barPhase = none →
    s.drainsTo u (wideScope sc) → (u.cellAt (.core c) n.cell).expect ≠ 0 → u.killPending s.resident.key = false →
    u.here.barLost = false →
    (u.cellAt (.core c) n.cell).arrived + 1 ≠ (u.cellAt (.core c) n.cell).expect →
    v = u.setCellAt (.core c) n.cell (arrivedCell (u.cellAt (.core c) n.cell)) →
    exec (.barsync gd gc sc) s = .next ((v.setHere { v.here with
      barPhase := some (u.cellAt (.core c) n.cell).phase, barCell := some (Fin.ofNat 96 n.cell) }).setWait .barrier)) ∧
  (∀ (s : State) (gd gc : GReg) (sc : Scope) (n : CellName) (p : Place) (ph : BitVec 8),
    s.issueFault (.barsync gd gc sc) = none → s.cellFound (s.g gc) false s.resident.key n p → s.here.barPhase = some ph →
    (s.cellAt p n.cell).expect ≠ 0 → s.here.barLost = false →
    ((s.cellAt p n.cell).phase ≠ ph →
      CompletesFrom s.leftCell s.me.npc (.barsync gd gc sc) s { g := [gd] } (fun t => t.holds gd (ph.setWidth 64))) ∧
    ((s.cellAt p n.cell).phase = ph → exec (.barsync gd gc sc) s =
      .next ((s.setHere { s.here with barCell := some (Fin.ofNat 96 n.cell) }).setWait .barrier)))

/-- The uses that R42 names raise BARRIER_CELL and have no effect: a cell number above 95, an arrival or a wait at a cell
whose EXPECT is 0, a wait whose cell has become uninitialised meanwhile (R44, R226), an initialisation with EXPECT 0 or
while ARRIVED is not 0. Arriving twice in a phase counts twice. -/
def Obligations.BarrierMisuse : Prop :=
  (∀ (s : State) (gd gc gs : GReg) (sc : Scope),
    ∀ i ∈ [Instr.barinit gc gs, .bararr gd gc sc, .barwait gd gc gs sc, .barsync gd gc sc],
      s.issueFault i = none → 95 < (s.g gc).toNat % 128 → Raises i s (plainFault .barrierCell 0)) ∧
  (∀ (s u : State) (gd gc : GReg) (sc : Scope) (n : CellName) (k : GangKey) (p : Place),
    s.issueFault (.bararr gd gc sc) = none → s.cellFound (s.g gc) true k n p → n.pdev = false → s.arrivalGang n = some k →
    s.drainsTo u (wideScope sc) → (u.cellAt p n.cell).expect = 0 →
    Raises (.bararr gd gc sc) s (plainFault .barrierCell 0)) ∧
  (∀ (s u : State) (gd gc : GReg) (sc : Scope) (n : CellName) (p : Place),
    s.issueFault (.barsync gd gc sc) = none → s.cellFound (s.g gc) false s.resident.key n p → s.here.barPhase = none →
    s.drainsTo u (wideScope sc) → (u.cellAt p n.cell).expect = 0 →
    Raises (.barsync gd gc sc) s (plainFault .barrierCell 0)) ∧
  (∀ (s : State) (gd gc gs : GReg) (sc : Scope) (n : CellName) (p : Place),
    s.issueFault (.barwait gd gc gs sc) = none → s.cellFound (s.g gc) false s.resident.key n p →
    ((s.cellAt p n.cell).expect = 0 ∨ s.here.barLost = true) → Raises (.barwait gd gc gs sc) s (plainFault .barrierCell 0)) ∧
  (∀ (s : State) (gd gc : GReg) (sc : Scope) (n : CellName) (p : Place) (ph : BitVec 8),
    s.issueFault (.barsync gd gc sc) = none → s.cellFound (s.g gc) false s.resident.key n p → s.here.barPhase = some ph →
    ((s.cellAt p n.cell).expect = 0 ∨ s.here.barLost = true) → Raises (.barsync gd gc sc) s (plainFault .barrierCell 0)) ∧
  (∀ (s : State) (gc gs : GReg) (n : CellName) (p : Place),
    s.issueFault (.barinit gc gs) = none → s.cellFound (s.g gc) false s.resident.key n p →
    (s.g gs = 0 ∨ (s.cellAt p n.cell).arrived ≠ 0) → Raises (.barinit gc gs) s (plainFault .barrierCell 0)) ∧
  (∀ c : BarCell, c.arrived.toNat + 2 < c.expect.toNat → c.arrive.2.arrive.2.arrived = c.arrived + 2)

/-! Freezing (R151 to R160, R163, R227, R228). -/

/-- FREEZE counts each frame of its region up at the freeze point, adds the parts of its domain to FDOM, and puts an event
before every core that is awake; it waits while an acknowledgement is outstanding, and completes with its ticket when every
core, and the peer device where it is asked, has acknowledged (R151, R152, R159). It acts as a fence.span.rw (R154). A task
of a spanned context waits first while the peer device has still to acknowledge frames that stayed frozen over a loss of the
link (R365). The model's own choices in it: log entries 39 and 40. -/
def Obligations.FreezeCounts : Prop :=
  (∀ (s u : State) (gd ga gl : GReg) (sc : Scope) (ps : List RegionPage) (fs : List Found),
    s.issueFault (.freeze gd ga gl sc) = none → s.freezeOp = none →
    (s.g ga).toNat % 0x8000 = 0 → (s.g gl).toNat % 0x8000 = 0 →
    s.regionPages (s.g ga) 0 ((s.g gl).toNat / 0x8000) = .ok (ps, fs) →
    (∀ p ∈ ps, (s.frame p.frame).sweep = false) →
    (s.resident.spanned = true → s.link.state = .up → s.linkCarries = true) →
    (s.setHere (fs.foldl (fun k f => k.learn false f) s.here)).fencesTo u →
    (∀ p ∈ ps, (u.frame p.frame).fcount < 15) →
    (ps = [] → CompletesFrom { u with frz := { u.frz with seq := u.frz.seq + 1 } } u.me.npc (.freeze gd ga gl sc) s
      { g := [gd] } (fun t => t.holds gd (ticket 1 (scopeCode sc) u.frz.seq))) ∧
    (ps ≠ [] → ∃ t, exec (.freeze gd ga gl sc) s = .next t ∧ t.me.wait = some .freezeAcks ∧ t.me.pc = u.me.pc ∧
      SameBytes u t ∧ t.frz.seq = u.frz.seq + 1 ∧
      (∀ p ∈ ps, (t.frame p.frame).fcount = (u.frame p.frame).fcount + 1 ∧
        (t.frame p.frame).die0 = ((u.frame p.frame).die0 || decide (sc ≠ .die ∨ dieOf s.cur.core = 0)) ∧
        (t.frame p.frame).die1 = ((u.frame p.frame).die1 || decide (sc ≠ .die ∨ dieOf s.cur.core = 1)) ∧
        (t.frame p.frame).peer = ((u.frame p.frame).peer || decide (sc = .span ∧ u.resident.spanned = true)) ∧
        (t.frame p.frame).code = (u.frame p.frame).code ∧ (t.frame p.frame).sweep = (u.frame p.frame).sweep) ∧
      (∀ f, f ∉ ps.map (·.frame) → t.frame f = u.frame f) ∧
      ∃ o, t.freezeOp = some o ∧ o.ticket = ticket 1 (scopeCode sc) u.frz.seq ∧
        (∀ f, f ∈ o.frames ↔ f ∈ ps.map (·.frame)) ∧
        (∀ c, (c ∈ o.toApply ↔ (u.core c).asleep = false) ∧ (c ∈ o.toAck ↔ (u.core c).asleep = false)) ∧
        o.peerWait = decide (u.resident.spanned = true ∧ u.link.state = .up))) ∧
  (∀ (s : State) (gd ga gl : GReg) (sc : Scope) (ps : List RegionPage) (fs : List Found),
    s.issueFault (.freeze gd ga gl sc) = none → s.freezeOp = none →
    (s.g ga).toNat % 0x8000 = 0 → (s.g gl).toNat % 0x8000 = 0 →
    s.regionPages (s.g ga) 0 ((s.g gl).toNat / 0x8000) = .ok (ps, fs) →
    (∀ p ∈ ps, (s.frame p.frame).sweep = false) →
    s.resident.spanned = true → s.link.state = .up → s.linkCarries = false →
    exec (.freeze gd ga gl sc) s =
      .next ((s.setHere (fs.foldl (fun k f => k.learn false f) s.here)).setWait .linkAcks)) ∧
  (∀ (s : State) (gd ga gl : GReg) (sc : Scope) (o : FreezeOp),
    s.issueFault (.freeze gd ga gl sc) = none → s.freezeOp = some o →
    (o.toAck = [] → o.peerWait = false →
      CompletesFrom { s with frz := { s.frz with ops := s.frz.ops.filter (fun x => x.id != o.id) } } s.me.npc
        (.freeze gd ga gl sc) s { g := [gd] } (fun t => t.holds gd o.ticket)) ∧
    (o.toAck ≠ [] ∨ o.peerWait = true → exec (.freeze gd ga gl sc) s = .next (s.setWait .freezeAcks)))

/-- THAW counts each frame of its region down and gives its ticket; where a count reaches 0 it opens a sweep, which stands
in the table of sweeps with the ticket's SEQ and every cache of the frame's FDOM that can answer, and which every core
applies. THAWWAIT waits while a sweep of the ticket or an earlier one is open that had started when it was first performed;
THAW acts as a fence.span.rw. PUBLISH clears the U bits of its code lines once the task's writes to them are performed, over
the link too, and the cores of its scope hold no prefetched code of them any more (R58, R139, R147, R155 to R160). The
model's own choices in it: log entries 39, 40 and 69. -/
def Obligations.ThawAndPublish : Prop :=
  (∀ (s u : State) (gd ga gl : GReg) (ps : List RegionPage) (fs : List Found),
    s.issueFault (.thaw gd ga gl) = none → (s.g ga).toNat % 0x8000 = 0 → (s.g gl).toNat % 0x8000 = 0 →
    s.regionPages (s.g ga) 0 ((s.g gl).toNat / 0x8000) = .ok (ps, fs) →
    (s.setHere (fs.foldl (fun k f => k.learn false f) s.here)).fencesTo u →
    (∀ p ∈ ps, 0 < (u.frame p.frame).fcount) →
    ((∃ p ∈ ps, (u.frame p.frame).peer = true) → u.link.state = .up → u.linkCarries = true) →
    CompletesFrom ((framesOf ps).foldl State.thawFrame u).takeSeq u.me.npc (.thaw gd ga gl) s { g := [gd] } (fun t =>
      t.holds gd (ticket (if ∃ p ∈ ps, (u.frame p.frame).fcount = 1 then 2 else 3) 0 u.frz.seq) ∧
      t.frz.seq = u.frz.seq + 1 ∧
      (∀ p ∈ ps, (t.frame p.frame).fcount = (u.frame p.frame).fcount - 1) ∧
      (∀ p ∈ ps, (u.frame p.frame).fcount = 1 → (∃ k, u.swept p.frame k) →
        (t.frame p.frame).sweep = true ∧ (∀ c, (u.core c).epoch < (t.core c).epoch) ∧
        ∃ w ∈ t.frz.sweeps, w.frame = p.frame ∧ w.seq = u.frz.seq ∧
          ∀ k, (k ∈ w.toAck ↔ u.swept p.frame k) ∧ (k ∈ w.toDrop ↔ u.swept p.frame k)) ∧
      (∀ p ∈ ps, 1 < (u.frame p.frame).fcount → (t.frame p.frame).sweep = (u.frame p.frame).sweep) ∧
      (∀ f, f ∉ ps.map (·.frame) → t.frame f = u.frame f))) ∧
  (∀ (s : State) (ga : GReg) (b : BitVec 48), s.issueFault (.thawwait ga) = none → b = s.here.thawBound.getD s.frz.seq →
    ((∀ w ∈ s.frz.sweeps, (s.g ga).toNat % 2 ^ 48 < w.seq.toNat ∨ b.toNat ≤ w.seq.toNat) →
      CompletesFrom (s.setHere { s.here with thawBound := none }) s.me.npc (.thawwait ga) s {} (SameBytes s)) ∧
    ((∃ w ∈ s.frz.sweeps, w.seq.toNat ≤ (s.g ga).toNat % 2 ^ 48 ∧ w.seq.toNat < b.toNat) →
      exec (.thawwait ga) s = .next ((s.setHere { s.here with thawBound := some b }).setWait .thawTicket))) ∧
  (∀ (s u : State) (ga gl : GReg) (sc : Scope) (a : Access),
    s.issueFault (.publish ga gl sc) = none →
    (s.g gl = 0 → Completes (.publish ga gl sc) s {} (SameBytes s)) ∧
    (s.g gl ≠ 0 → s.publishRange (s.g ga) (s.g gl) = .ok a →
      u = ((s.drainStrand ⟨s.cur.core, false⟩).drainStrand ⟨s.cur.core, true⟩).learnFrom
        { va := s.g ga, space := .virt, lo := (s.g ga).toNat, len := (s.g gl).toNat, loc := .mem a } →
      u.here.writesTo (a.pieces.flatMap (fun p => blocksOf p.pa p.len 128)) = false →
      u.sentLines s.cur.core (a.pieces.flatMap (fun p => blocksOf p.pa p.len 128)) = false →
      (wideScope sc = true → u.acknowledged s.cur = true) →
      CompletesFrom ((u.clearU (u.codeLines a.pieces)).discardCode (publishCores sc s.cur.core) (u.codeLines a.pieces)) u.me.npc
        (.publish ga gl sc) s {} (fun t => SameBytes u t ∧ ∀ l ∈ u.codeLines a.pieces, l ∉ t.mem.ubits ∧
          ∀ c, (match sc with
            | .core => c = s.cur.core
            | .quire => c.val / 8 = s.cur.core.val / 8
            | .die => c.val / 128 = s.cur.core.val / 128
            | _ => True) → ∀ x ∈ (t.core c).prefetched, x.line ≠ l)))

/-! Errands (R33 to R40, R198 to R202). -/

/-- CALLAT makes its slot PENDING and posts an errand with the four argument registers, once earlier writes are
performed; REPLY sends the first outcome of an errand and later ones are without effect; WAITRP gives status and value
of a slot whose outcome has come, and empties it. The model's own choices in it: log entry 25. -/
def Obligations.ErrandForms : Prop :=
  (∀ (s u : State) (ga gp : GReg) (slot : Fin 16) (l : LocalAddr),
    s.issueFault (.callat ga gp slot) = none → (s.here.slots[slot]).status ≠ .pending →
    resolveLocal s.resident (s.gangCount s.resident) (s.g gp) 1 false = .ok l → s.drainsTo u false →
    CompletesFrom { u.setHere { u.here with slots := u.here.slots.set slot ⟨.pending, 0⟩ } with
        posts := u.posts ++ [⟨⟨⟨s.resident.key, s.resident.peer, slot⟩, u.g ga, #v[u.g 10, u.g 11, u.g 12, u.g 13]⟩,
          l.key, l.peer⟩] } u.me.npc (.callat ga gp slot) s {} (SameBytes u)) ∧
  (∀ (s u : State) (gs : GReg) (r : ErrandRun),
    s.issueFault (.reply gs) = none → s.drainsTo u false → u.here.run = some r →
    (r.replied = false →
      CompletesFrom { u.setHere { u.here with run := some { r with replied := true } } with
        replies := u.replies ++ [⟨r.caller, .value, u.g gs⟩] } u.me.npc (.reply gs) s {} (SameBytes u)) ∧
    (r.replied = true → CompletesFrom u u.me.npc (.reply gs) s {} (SameBytes u))) ∧
  (∀ (s : State) (gd ga : GReg) (slot : Fin 16),
    WellFormed (.waitrp gd ga slot) → s.issueFault (.waitrp gd ga slot) = none →
    ((s.here.slots[slot]).status ≠ .pending →
      CompletesFrom (s.setHere { s.here with slots := s.here.slots.set slot ⟨.empty, 0⟩ }) s.me.npc (.waitrp gd ga slot) s
        { g := [gd, ga] } (fun t => t.holds gd (s.here.slots[slot]).value ∧
          t.holds ga (BitVec.ofNat 64 (s.here.slots[slot]).status.code) ∧ SameBytes s t)) ∧
    ((s.here.slots[slot]).status = .pending → exec (.waitrp gd ga slot) s = .next (s.setWait .slot)))

/-- EXIT completes with nothing outstanding: its task has ended. While another task of the gang has not, nothing else
happens; once every task has ended or been killed, the gang retires: it takes no errand any more and stays only while
one of its errands has not ended, and then its cores are free and its launch counts it, or completes with it (R28, R29,
R196, R353). EDONE completes: it sends ENDED unless a REPLY has been sent, and the oldest queued errand starts with the
registers of R35 (R38, R197); the last errand of a gang that has retired frees the gang's cores (R29). The model's own
choices in it: log entry 25 (earlier writes are performed at once). -/
def Obligations.TaskEnds : Prop :=
  (∀ (s u : State) (g : Gang),
    s.issueFault .exit = none → s.drainsTo u true → u.here.copies = [] → u.here.batches = [] → u.here.deferred = [] →
    (∀ n : Fin 16, (u.here.slots[n]).status ≠ .pending) →
    u.gang u.resident.key = some g →
    ((∃ p, p < g.peers.length ∧ ¬u.exited.over g p) → exec .exit s = .next u.exited) ∧
    ((∀ p, p < g.peers.length → u.exited.over g p) → g.moving ≠ none ∨ ¬u.exited.errandless g none →
      (g.state = .running ∨ g.state = .retiring → exec .exit s = .next (u.exited.setGang { g with state := .retiring })) ∧
      (g.state ≠ .running → g.state ≠ .retiring → exec .exit s = .next u.exited)) ∧
    (∀ l, (∀ p, p < g.peers.length → u.exited.over g p) → g.moving = none → u.exited.errandless g none →
      u.launch g.key.launch = some l →
      Becomes .exit s (fun t => t.releases g l ∧ (l.retired + 1 + l.killed ≠ l.gangs → SameBytes u t)))) ∧
  (∀ (s u : State) (r : ErrandRun),
    s.issueFault .edone = none → s.drainsTo u true → u.here.run = some r → u.owesFault s.cur.core = false →
    (∀ g, u.gang u.resident.key = some g → ∃ p, p < g.peers.length ∧ ¬u.over g p) →
    Becomes .edone s (fun t => SameBytes u t ∧
      t.replies = u.replies ++ (if r.replied then [] else [⟨r.caller, .ended, 0⟩]) ∧ t.here.main = u.here.main ∧
      t.here.counters[(2 : Fin 7)] = u.here.counters[(2 : Fin 7)] + 1 ∧
      (u.here.mbox = [] → t.here.run = none ∧ t.here.mbox = []) ∧
      (∀ e rest, u.here.mbox = e :: rest → u.here.held = false → u.here.halting = false → u.here.halted = false →
        u.here.loading = false → u.here.task ≠ none →
        t.here.run = some ⟨e.caller, false, 0, true⟩ ∧ t.here.mbox = rest ∧ t.here.err.pc = e.entry ∧
          t.here.err.mode = .user ∧ t.here.err.ret = [] ∧ (∀ x : GReg, t.here.err.g[x] = errandRegs e x) ∧
          ∀ x : FReg, t.here.err.f[x] = 0))) ∧
  (∀ (s u : State) (r : ErrandRun) (g : Gang) (l : Launch),
    s.issueFault .edone = none → s.drainsTo u true → u.here.run = some r → u.here.mbox = [] →
    u.owesFault s.cur.core = false → u.gang u.resident.key = some g → (∀ p, p < g.peers.length → u.over g p) →
    g.moving = none → u.errandless g (some s.cur.core) → u.launch g.key.launch = some l →
    Becomes .edone s (fun t => t.releases g l ∧
      t.replies = u.replies ++ (if r.replied then [] else [⟨r.caller, .ended, 0⟩])))

/-! Control registers (R74 to R80, R203, R205, R292 to R294). -/

/-- MFCR reads every register that the strand may use: the user registers, the exception registers, the counters and
the user bank. A number from 0x100 on is a PRIVILEGED_INSTRUCTION in user mode, and one that is not assigned an
ILLEGAL_INSTRUCTION (R205, R292). The model's own choices in it: log entry 45. -/
def Obligations.ReadControl : Prop :=
  ∀ (s : State) (gd : GReg) (n : BitVec 12), s.issueFault (.mfcr gd n) = none →
    (∀ x ∈ s.userRegs s.resident, n.toNat = x.1 →
      Completes (.mfcr gd n) s { g := [gd] } (fun t => t.holds gd x.2)) ∧
    (s.me.mode = .supervisor → ∀ j, j < 9 → n.toNat = 0x100 + j →
      Completes (.mfcr gd n) s { g := [gd] } (fun t => t.holds gd (s.me.exceptionRegs.getD j 0))) ∧
    (s.me.mode = .supervisor → ∀ j : Fin 7, n.toNat = 0x140 + j.val →
      Completes (.mfcr gd n) s { g := [gd] } (fun t => t.holds gd s.here.counters[j])) ∧
    (s.me.mode = .supervisor → ∀ j : Fin 32, 1 ≤ j.val → j.val ≤ 15 → n.toNat = 0x180 + j.val →
      Completes (.mfcr gd n) s { g := [gd] } (fun t => t.holds gd s.me.g[j])) ∧
    (s.me.mode = .user → 0x100 ≤ n.toNat → Raises (.mfcr gd n) s (plainFault .privilegedInstruction s.me.pc)) ∧
    (s.me.mode = .supervisor → ∀ x ∈ s.placeRegs s.resident, n.toNat = x.1 →
      Completes (.mfcr gd n) s { g := [gd] } (fun t => t.holds gd x.2)) ∧
    (n.toNat < 0x100 → n.toNat ∉ (s.userRegs s.resident).map (·.1) →
      Raises (.mfcr gd n) s (plainFault .illegalInstruction s.me.pc)) ∧
    (s.me.mode = .supervisor → n.toNat ∉ assignedNumbers →
      Raises (.mfcr gd n) s (plainFault .illegalInstruction s.me.pc))

/-- MTCR writes the fields that a register lets be written: CR.RSPILL by the main strand, the bits of CR.SCOPEMISS and
CR.FCAUSE that ones clear, CR.SVEC, CR.SEPC, CR.SARG, CR.SSCRATCH and CR.SDELEG, a counter; a write of CR.CGDEV with the
next generation advances it, or waits while a core or a saved context would fall too far behind (R149), and one with another
value does nothing (R293); an errand's write of CR.RSPILL is ignored (R75). A register with no such field stays. A number
from 0x100 on is a PRIVILEGED_INSTRUCTION in user mode, and one that is not assigned an ILLEGAL_INSTRUCTION (R205, R292).
The model's own choices in it: log entry 80 (a counter that counts retirement counts that of the write on top). -/
def Obligations.WriteControl : Prop :=
  (∀ (s : State) (n : BitVec 12) (gs : GReg), s.issueFault (.mtcr n gs) = none →
    (s.me.mode = .user → 0x100 ≤ n.toNat → Raises (.mtcr n gs) s (plainFault .privilegedInstruction s.me.pc)) ∧
    (s.me.mode = .supervisor ∨ n.toNat < 0x100 → n.toNat ∉ assignedNumbers →
      Raises (.mtcr n gs) s (plainFault .illegalInstruction s.me.pc))) ∧
  ∀ (s : State) (n : BitVec 12) (gs : GReg), s.issueFault (.mtcr n gs) = none → s.crOpen n.toNat →
    (n.toNat = 0x031 → s.cur.errand = false →
      CompletesFrom (s.setMe { s.me with rspill := s.g gs &&& 0x01FF_FFFF_FFFF_FFF8 }) s.me.npc (.mtcr n gs) s {}
        (fun _ => True)) ∧
    (n.toNat = 0x040 →
      CompletesFrom (s.setHere { s.here with
          scopemiss := s.here.scopemiss &&& ~~~(s.g gs &&& 0x8800_0000_0000_0000) }) s.me.npc (.mtcr n gs) s {}
        (fun _ => True)) ∧
    (n.toNat = 0x041 →
      CompletesFrom (s.setHere { s.here with fcause := s.here.fcause &&& ~~~(s.g gs &&& 0x8000_0000_0000_0000) })
        s.me.npc (.mtcr n gs) s {} (fun _ => True)) ∧
    (n.toNat = 0x100 →
      CompletesFrom (s.setMe { s.me with sstatus := (s.me.sstatus &&& ~~~0x400) ||| (s.g gs &&& 0x400) }) s.me.npc
        (.mtcr n gs) s {} (fun _ => True)) ∧
    (n.toNat = 0x101 →
      CompletesFrom (s.setMe { s.me with sepc := s.g gs &&& 0x01FF_FFFF_FFFF_FFFE }) s.me.npc (.mtcr n gs) s {}
        (fun _ => True)) ∧
    (n.toNat = 0x102 →
      CompletesFrom (s.setMe { s.me with svec := s.g gs &&& 0x000F_FFFF_FFFF_FFFE }) s.me.npc (.mtcr n gs) s {}
        (fun _ => True)) ∧
    (n.toNat = 0x106 →
      CompletesFrom (s.setMe { s.me with sarg := s.g gs }) s.me.npc (.mtcr n gs) s {} (fun _ => True)) ∧
    (n.toNat = 0x107 →
      CompletesFrom (s.setMe { s.me with sscratch := s.g gs }) s.me.npc (.mtcr n gs) s {} (fun _ => True)) ∧
    (n.toNat = 0x108 →
      CompletesFrom (s.setMe { s.me with sdeleg := s.g gs }) s.me.npc (.mtcr n gs) s {} (fun _ => True)) ∧
    (n.toNat ∈ [0x001, 0x002, 0x010, 0x011, 0x012, 0x013, 0x020, 0x021, 0x030, 0x032, 0x103, 0x104, 0x105, 0x110, 0x111,
        0x112, 0x113, 0x121] →
      Completes (.mtcr n gs) s {} (fun _ => True)) ∧
    (∀ j : Fin 7, n.toNat = 0x140 + j.val →
      CompletesFrom (s.setHere { s.here with counters := s.here.counters.set j (s.g gs) }) s.me.npc (.mtcr n gs) s {}
        (fun _ => True)) ∧
    (∀ j : Fin 32, 1 ≤ j.val → j.val ≤ 15 → n.toNat = 0x180 + j.val →
      CompletesFrom (s.setMe { s.me with g := s.me.g.set j (s.g gs) }) s.me.npc (.mtcr n gs) s {} (fun _ => True)) ∧
    (n.toNat = 0x031 → s.cur.errand = true → Completes (.mtcr n gs) s {} (fun _ => True)) ∧
    (n.toNat = 0x120 → (s.g gs).setWidth 16 = s.cg + 1 → s.lagging (s.cg + 1) = false →
      CompletesFrom s.advanceCg s.me.npc (.mtcr n gs) s {} (fun t => t.cg = s.cg + 1)) ∧
    (n.toNat = 0x120 → (s.g gs).setWidth 16 = s.cg + 1 → s.lagging (s.cg + 1) = true →
      exec (.mtcr n gs) s = .next ({ s with cgHeld := some (s.cgHeld.getD s.clock.toNat) }.setWait .generation)) ∧
    (n.toNat = 0x120 → (s.g gs).setWidth 16 ≠ s.cg + 1 → Completes (.mtcr n gs) s {} (fun t => t.cg = s.cg))

/-! Privileged forms (R295 to R303, R313, R314, R380). -/

/-- TLBINV, TLBINVC and WCINV take the named entries out of the caches of every core, once every retired access of the
context is performed; FRAMESET writes the CODE bit of its frames. The model's own choices in it: log entry 47. -/
def Obligations.TranslationForms : Prop :=
  (∀ (s v u : State) (ga gb : GReg) (n : BitVec 17),
    s.issueFault (.tlbinv ga gb n) = none → s.settlesContext v u (v.g gb) →
    CompletesFrom (u.everyCore (fun k => k.cleared (tlbHits (v.g gb) (v.g ga) n.toNat) (fun _ => false))) u.me.npc
      (.tlbinv ga gb n) s {} (SameBytes u)) ∧
  (∀ (s v u : State) (gb : GReg),
    s.issueFault (.tlbinvc gb) = none → s.settlesContext v u (v.g gb) →
    CompletesFrom (u.everyCore (fun k => k.cleared (fun e => decide (e.ctx.toNat = (v.g gb).toNat))
        (fun e => decide (e.ctx.toNat = (v.g gb).toNat)))) u.me.npc (.tlbinvc gb) s {} (SameBytes u)) ∧
  (∀ (s v u : State) (ga gb : GReg) (n : BitVec 17),
    s.issueFault (.wcinv ga gb n) = none → s.settlesContext v u (v.g gb) →
    CompletesFrom (u.everyCore (fun k => k.cleared (fun _ => false) (walkHits (v.g gb) (v.g ga) n.toNat))) u.me.npc
      (.wcinv ga gb n) s {} (SameBytes u)) ∧
  (∀ (s v u : State) (ga gb : GReg) (n : BitVec 17),
    s.issueFault (.frameset ga gb n) = none → s.fencesTo v → (v.g ga).toNat % 0x8000 = 0 →
    (∀ j, j < n.toNat → v.ownFrame ((v.g ga).toNat / 0x8000 + j) = true ∧
      (v.frame ((v.g ga).toNat / 0x8000 + j)).fcount = 0 ∧ (v.frame ((v.g ga).toNat / 0x8000 + j)).sweep = false) →
    v.drainFrames ((List.range n.toNat).map (· + (v.g ga).toNat / 0x8000)) = (u, true) →
    CompletesFrom
      (((List.range n.toNat).map (· + (v.g ga).toNat / 0x8000)).foldl (fun s f => s.setCode f ((v.g gb).getLsbD 0)) u)
      u.me.npc (.frameset ga gb n) s {} (fun t => SameBytes u t ∧
        ∀ j, j < n.toNat → (t.frame ((v.g ga).toNat / 0x8000 + j)).code = (v.g gb).getLsbD 0))

/-- CSAVE writes the whole save area of the core's task once both strands' writes are performed, over the link too; CLOAD
loads one whose version it knows, and answers 1 for another, whatever stands in the rest of the area: what CLOAD makes of an
area that CSAVE wrote is the task's registers, tiles, accumulators, masks, return store, slots, cells, full/empty bits and
local store (R331); MBOXSET gives the old depth of the mailbox; POLSET sets the policy of an idle queue of the core's
partition; HALT holds another core of the partition once it is quiet, and RESUME lets it go on; a HALT that has waited for a
core that is no target any more lets that core go on (R303, R369). Each answers a code in gd.
The model's own choices in it: log entries 14, 43, 44, 46 and 93 (the queue's PART field says whose partition a queue
belongs to). -/
def Obligations.SupervisorForms : Prop :=
  (∀ (s v u : State) (gd ga : GReg),
    s.issueFault (.csave gd ga) = none → s.fencesTo v → v.areaFault .permWrite (v.g ga) = none →
    findFrame (fun f => decide (0 < (v.frame f).fcount)) (frameOf (v.g ga).toNat) areaFrames = none →
    v.here.err.mode = .user → u = v.drainStrand ⟨s.cur.core, true⟩ → u.drained ⟨s.cur.core, true⟩ = true →
    u.settled s.cur.core = true →
    findFrame (fun f => (u.frame f).sweep) (frameOf (v.g ga).toNat) areaFrames = none → v.here.bad = [] →
    u.areaDenied u.resident.master (v.g ga).toNat areaSize .write = none →
    CompletesFrom (u.writeArea (v.g ga).toNat (some u.resident.master) (u.here.saveArea u.resident u.me.sepc)) u.me.npc
      (.csave gd ga) s { g := [gd] } (fun t => t.holds gd 0)) ∧
  (∀ (s v : State) (gd ga : GReg),
    s.issueFault (.cload gd ga) = none → s.fencesTo v → v.areaFault .permRead (v.g ga) = none →
    v.areaDenied v.resident.master (v.g ga).toNat 8 .read = none → v.badLine (v.g ga).toNat 8 = none →
    (v.mem.cells.dword (v.g ga).toNat ≠ 0x0007_0001 →
      CompletesFrom v v.me.npc (.cload gd ga) s { g := [gd] } (fun t => t.holds gd 1)) ∧
    (v.mem.cells.dword (v.g ga).toNat = 0x0007_0001 →
      v.areaDenied v.resident.master (v.g ga).toNat areaSize .read = none → v.badLine (v.g ga).toNat areaSize = none →
      v.here.err.mode = .user → ∀ x l u, x = v.drainStrand ⟨s.cur.core, true⟩ → x.settled s.cur.core = true →
        l = (x.outgoing s.cur.core).loadTask s.cur.core (v.g ga).toNat x.resident →
        u = l.mapCore s.cur.core (fun k => { k with
          loading := true
          task := k.task.map l.withBinding
          main := { k.main with
            sepc := l.mem.cells.dword ((v.g ga).toNat + 0x11C0) &&& 0x01FF_FFFF_FFFF_FFFE } }) →
        CompletesFrom u u.me.npc (.cload gd ga) s { g := [gd] } (fun t => t.holds gd 0))) ∧
  (∀ (k x : Core) (r q : Resident) (resume : Word) (cg : BitVec 16) (a : Memory) (l : Core),
    a = k.saveArea r resume → l = x.loadArea a (loadResident q a) cg → k.main.ret.length ≤ 32 →
    a.dword 0 = 0x0007_0001 ∧ a.dword 0x11C0 = resume ∧
    (∀ i : GReg, i.val ≠ 0 → l.main.g[i] = k.main.g[i]) ∧ l.main.f = k.main.f ∧ l.main.ret = k.main.ret ∧
    l.main.spilled = k.main.spilled ∧ (∀ i : MReg, i.val ≠ 0 → l.m[i] = k.m[i]) ∧ l.rot = k.rot ∧
    l.t = k.t ∧ l.a = k.a ∧ l.full = k.full ∧ l.slots = k.slots ∧ l.batchCtr = k.batchCtr ∧
    (∀ n : Fin 96, n.val % r.peers = r.peer → l.cells[n] = k.cells[n]) ∧
    ∀ off, off < 0xA_0000 → Memory.byte l.ls off = Memory.byte k.ls off) ∧
  (∀ (s v : State) (gd ga : GReg),
    s.issueFault (.mboxset gd ga) = none → s.fencesTo v → 1 ≤ (v.g ga).toNat → (v.g ga).toNat ≤ 16 →
    CompletesFrom (v.setHere { v.here with task := v.here.task.map (fun r => { r with depth := (v.g ga).toNat }) })
      v.me.npc (.mboxset gd ga) s { g := [gd] } (fun t => t.holds gd (BitVec.ofNat 64 v.resident.depth))) ∧
  (∀ (s v : State) (gd ga gb : GReg) (p : Fin 8) (q : QueueId),
    s.issueFault (.polset gd ga gb) = none → s.fencesTo v → v.partitionOf s.cur.core = some p →
    (v.g ga).toNat = q.val → (v.queueAt q).part.toNat = p.val →
    (v.queueBusy q = false →
      CompletesFrom (v.setQueue q { v.queueAt q with policy := (v.g gb).setWidth 2 }) v.me.npc (.polset gd ga gb) s
        { g := [gd] } (fun t => t.holds gd 0)) ∧
    (v.queueBusy q = true →
      CompletesFrom v v.me.npc (.polset gd ga gb) s { g := [gd] } (fun t => t.holds gd 1))) ∧
  (∀ (s v u : State) (gd ga : GReg),
    s.issueFault (.halt gd ga) = none → s.fencesTo v →
    (v.haltTarget (v.g ga) = none →
      (s.me.wait ≠ some .otherStrand ∨ 255 < (v.g ga).toNat →
        CompletesFrom v v.me.npc (.halt gd ga) s { g := [gd] } (fun t => t.holds gd 2)) ∧
      (∀ c : CoreId, s.me.wait = some .otherStrand → (v.g ga).toNat = c.val →
        ((v.core c).held = true → CompletesFrom v v.me.npc (.halt gd ga) s { g := [gd] } (fun t => t.holds gd 2)) ∧
        ((v.core c).held = false →
          CompletesFrom (v.mapCore c (fun k => { k with halting := v.mustHalt c })) v.me.npc (.halt gd ga) s
            { g := [gd] } (fun t => t.holds gd 2)))) ∧
    (∀ c, v.haltTarget (v.g ga) = some c → (v.core c).held = false →
      u = (v.drainStrand ⟨c, false⟩).drainStrand ⟨c, true⟩ → u.quiet c = true →
      CompletesFrom (u.mapCore c (fun k => { k.squash.endBackoff with held := true, halting := u.mustHalt c })) u.me.npc
        (.halt gd ga) s { g := [gd] } (fun t => t.holds gd 0)) ∧
    (∀ c, v.haltTarget (v.g ga) = some c → (v.core c).held = true →
      CompletesFrom v v.me.npc (.halt gd ga) s { g := [gd] } (fun t => t.holds gd 1))) ∧
  (∀ (s v : State) (gd ga : GReg),
    s.issueFault (.resume gd ga) = none → s.fencesTo v →
    (v.haltTarget (v.g ga) = none →
      CompletesFrom v v.me.npc (.resume gd ga) s { g := [gd] } (fun t => t.holds gd 2)) ∧
    (∀ c, v.haltTarget (v.g ga) = some c →
      ((v.core c).held = true →
        CompletesFrom (v.mapCore c (fun k => Core.startErrand { k with held := false })) v.me.npc (.resume gd ga) s
          { g := [gd] } (fun t => t.holds gd 0)) ∧
      ((v.core c).held = false →
        CompletesFrom v v.me.npc (.resume gd ga) s { g := [gd] } (fun t => t.holds gd 1))))

/-! Steps of a core's own agents (R36, R48, R62, R112, R113, R121, R145, R217, R240, R322, R326). -/

/-- The steps of a core's own agents complete with their effect: `fetch` fills the instruction cache, and where its folio
cannot be fetched does nothing; `waitSatisfied` gives its strand a turn; `fullEmptyUnit`, `localStoreAccess` and
`tgatherRequest` change or read that store alone; `backOff` ends a back-off; `deferredFault` contains the first deferred
fault on the strand whose boundaries raise it; `retryExhausted` consults the levels above with RETRY passed over.
`copyPiece` makes the bytes of the piece's destination those of its source, or the sums of R218 for a COPYR, sets the
granules of a local destination FULL, leaves every other byte as it was, and counts the piece or ends the copy; a part that
fails writes nothing and gives its batch its failure; a part that must wait leaves all as it is (R112 to R114, R121, R145,
R216 to R218, R240, R322, R326, R329). The model's own choices in it: log entries 18, 22 (a deferred fault once the main
strand has ended), 33 (the units of a failing copy, and a part that waits), 55, 64 (a step that finds nothing to do), 107
(a RETRY of the queue level that is passed over), 113 and 114 (which failures a part meets). -/
def Obligations.CoreAgents : Prop :=
  (∀ (s : State) (c : CoreId) (e : Bool), s.runnable ⟨c, e⟩ = true →
    (∀ x, s.fetch ⟨c, e⟩ (s.strand ⟨c, e⟩).pc = .ok x →
      exec (.fetch c e) s = .next (s.afterFetch c x) ∧
      ∀ l, x.fill = some l → l ∈ ((s.afterFetch c x).core c).l1i) ∧
    (∀ f, s.fetch ⟨c, e⟩ (s.strand ⟨c, e⟩).pc = .error f → exec (.fetch c e) s = .next s)) ∧
  (∀ (s : State) (c : CoreId) (e : Bool) (w : WaitOn), (s.strand ⟨c, e⟩).wait = some w →
    exec (.waitSatisfied c e) s = .next { s with agenda := .strand ⟨c, e⟩ :: s.agenda }) ∧
  (∀ (s : State) (c : CoreId) (off : Nat) (bs : List Byte), (s.core c).task.isSome = true → 0 < bs.length → off + bs.length ≤ 0xA_0000 →
    ((s.core c).allEmpty off bs.length = true →
      Becomes (.fullEmptyUnit c off bs.length .ef bs) s (fun t =>
        (∀ j, j < bs.length → t.storeByte c (off + j) = bs.getD j 0) ∧ (t.core c).allFull off bs.length = true ∧
        (∀ a, t.byteAt a = s.byteAt a) ∧
        ∀ d j, d ≠ c ∨ j < off ∨ off + bs.length ≤ j → t.storeByte d j = s.storeByte d j)) ∧
    ((s.core c).allFull off bs.length = true →
      exec (.fullEmptyUnit c off bs.length .fe bs) s = .next s ∧
      Becomes (.fullEmptyUnit c off bs.length .fec bs) s (fun t =>
        (t.core c).allEmpty off bs.length = true ∧ SameBytes s t)) ∧
    ((s.core c).allEmpty off bs.length = false → exec (.fullEmptyUnit c off bs.length .ef bs) s = .next s)) ∧
  (∀ (s : State) (c : CoreId) (off : Nat) (bs : List Byte), (s.core c).task.isSome = true → off + bs.length ≤ 0xA_0000 →
    off / 64 = (off + bs.length - 1) / 64 →
    Becomes (.localStoreAccess c off bs) s (fun t =>
      (∀ j, j < bs.length → t.storeByte c (off + j) = bs.getD j 0) ∧ (t.core c).full = (s.core c).full ∧
      (∀ a, t.byteAt a = s.byteAt a) ∧
      ∀ d j, d ≠ c ∨ j < off ∨ off + bs.length ≤ j → t.storeByte d j = s.storeByte d j)) ∧
  (∀ (s : State) (c d : CoreId) (r : GatherRow), (s.core c).gather = some [r] → r.data = none →
    s.peerAt r.key r.owner = .core d →
    exec (.tgatherRequest c r.owner) s = .next (s.mapCore c (fun k => { k with
      gather := some [{ r with
        data := some (BitVec.ofNat 2048 (leNat ((s.core d).readLocal r.off 256))), bad := (s.core d).badLocal r.off 256 }] }))) ∧
  (∀ (s : State) (c : CoreId) (x : CopyOp), (s.core c).copies = [x] → (s.core c).halted = false →
    (s.core c).copyHeld x = false → x.failed = false →
    (∀ ps m, s.pieceSides c x ps → m = ((s.core c).task.getD Resident.idle).master →
      (∀ p ∈ ps, p.2.simple ∧ s.copyGrants m x.form p.2) → (∀ p ∈ ps, ∀ q ∈ ps, ¬p.2.shares q.1) →
      ps.Pairwise (fun p q => ¬p.2.shares q.2) →
      Becomes (.copyPiece c x.seq) s (fun t =>
        (∀ p ∈ ps, ∀ i, (i + 1) * elementBytes x.form ≤ p.2.len →
          t.element x.form p.2 i = copiedElement x.form (s.element x.form p.2 i) (s.element x.form p.1 i) %
            2 ^ (8 * elementBytes x.form)) ∧
        (∀ p ∈ ps, t.rowFull p.2 = true) ∧
        (∀ a, (∀ p ∈ ps, ¬p.2.coversByte a) → t.byteAt a = s.byteAt a) ∧
        (∀ d off, (∀ p ∈ ps, ¬p.2.coversStore d off) → t.storeByte d off = s.storeByte d off) ∧
        (t.core c).copies = (if pieceCount x ≤ x.pieces + 1 then [] else [{ x with pieces := x.pieces + 1 }]) ∧
        (t.core c).batches = (s.core c).batches)) ∧
    (∀ (p : Word × Word × Nat) (f : FaultInfo) (y : Option (Except FaultInfo Operand)), pieceParts x x.pieces = [p] →
      s.copySide c x.ssp .lateRead p.1 p.2.2 = some (.error f) → f.denied = none →
      s.copySide c x.dsp (if x.form = .copy then .lateWrite else .lateBoth) p.2.1 p.2.2 = y → y ≠ none →
      (∀ b ∈ (s.core c).batches, b.num ≠ x.batch) →
      Becomes (.copyPiece c x.seq) s (fun t => SameBytes s t ∧
        ∃ b ∈ (t.core c).batches, b.num = x.batch ∧ b.fault = f)) ∧
    ((∃ p ∈ pieceParts x x.pieces, s.copySide c x.ssp .lateRead p.1 p.2.2 = none ∨
        s.copySide c x.dsp (if x.form = .copy then .lateWrite else .lateBoth) p.2.1 p.2.2 = none) →
      exec (.copyPiece c x.seq) s = .next s)) ∧
  (∀ (s : State) (c : CoreId) (e : Bool),
    exec (.backOff c e) s = .next (s.setStrand ⟨c, e⟩ { s.strand ⟨c, e⟩ with inBackoff := false })) ∧
  (∀ (s : State) (c : CoreId) (f : FaultInfo) (fs : List FaultInfo) (r : Resident), (s.core c).deferred = f :: fs →
    (s.core c).task = some r → (s.strand ⟨c, r.ended⟩).mode = .user →
    exec (.deferredFault c) s = .next ((s.mapCore c (fun k => { k with deferred := fs })).contain ⟨c, r.ended⟩ f)) ∧
  (∀ (s u : State) (c : CoreId) (e : Bool) (f : FaultInfo) (r : Resident) (l : Launch),
    (s.strand ⟨c, e⟩).lastFault = some f → 256 ≤ (s.strand ⟨c, e⟩).retries →
    (s.core c).task = some r → s.launch r.key.launch = some l →
    u = s.setStrand ⟨c, e⟩ { s.strand ⟨c, e⟩ with lastFault := none } →
    (∀ n p, decidedBy r.policy false = some (n, p) →
      exec (.retryExhausted c e) s = .next (((u.appendLog (unitRecord u ⟨c, e⟩ f r n p)).setLaunch { l with
        firstFault := l.firstFault.orElse (fun _ => some (unitRecord u ⟨c, e⟩ f r n p)) }).killUnit
          (killedBy r l.queue n p) f.cause.code (unitRecord u ⟨c, e⟩ f r n p))) ∧
    (decidedBy r.policy false = none →
      exec (.retryExhausted c e) s = .next (((u.appendLog (unitRecord u ⟨c, e⟩ f r 3 0)).setLaunch { l with
        firstFault := l.firstFault.orElse (fun _ => some (unitRecord u ⟨c, e⟩ f r 3 0)) }).killUnit
          (.queue l.queue) f.cause.code (unitRecord u ⟨c, e⟩ f r 3 0))))

/-- An errand that arrives at a task with room in its mailbox is queued, and one that finds none, or a gang that is still to
be placed, is refused; one whose target task is gone, or whose target gang has retired, is answered ABSENT (R37, R38); an
outcome reaches its slot; an errand that has retired 4,096 instructions in user mode faults with ERRAND_BUDGET. The
model's own choices in it: log entries 35, 48 and 81 (the room of a mailbox is the smaller of 16 and CR.MBOXDEPTH). -/
def Obligations.ErrandEvents : Prop :=
  (∀ (s : State) (p : Post) (ps : List Post) (g : Gang) (c : CoreId) (r : Resident),
    s.posts = p :: ps → s.gang p.key = some g → g.state = .running → s.allEnded g = false →
    s.peerAt p.key p.peer = .core c → (s.core c).task = some r →
    ((s.core c).mbox.length < min 16 r.depth →
      exec (.callatArrival 0) s = .next ({ s with posts := ps }.mapCore c (fun k =>
        Core.startErrand { k with mbox := k.mbox ++ [p.msg] }))) ∧
    (min 16 r.depth ≤ (s.core c).mbox.length →
      exec (.callatArrival 0) s = .next { s with
        posts := ps, replies := s.replies ++ [⟨p.msg.caller, .refused, 0⟩] })) ∧
  (∀ (s : State) (p : Post) (ps : List Post), s.posts = p :: ps →
    (s.gang p.key = none ∧ (∀ l, s.launch p.key.launch = some l → p.key.gang < l.placed) ∨
      ∃ g, s.gang p.key = some g ∧ (s.allEnded g = true ∨ p.peer ∈ g.dead ∨ g.peers.length ≤ p.peer)) →
    exec (.callatArrival 0) s = .next { s with
      posts := ps, replies := s.replies ++ [⟨p.msg.caller, .absent, 0⟩] }) ∧
  (∀ (s : State) (p : Post) (ps : List Post) (l : Launch), s.posts = p :: ps → s.gang p.key = none →
    s.launch p.key.launch = some l → l.placed ≤ p.key.gang →
    exec (.callatArrival 0) s = .next { s with
      posts := ps, replies := s.replies ++ [⟨p.msg.caller, .refused, 0⟩] }) ∧
  (∀ (s : State) (r : Reply) (rs : List Reply) (c : CoreId), s.replies = r :: rs →
    s.peerAt r.caller.key r.caller.peer = .core c →
    Becomes (.replyDelivery 0) s (fun t => t.replies = rs ∧
      (t.core c).slots[r.caller.slot] = ⟨r.status, r.value⟩ ∧
      (∀ n : Fin 16, n ≠ r.caller.slot → (t.core c).slots[n] = (s.core c).slots[n]) ∧ SameBytes s t)) ∧
  (∀ (s : State) (c : CoreId) (r : ErrandRun), s.runnable ⟨c, true⟩ = true → (s.core c).err.mode = .user →
    (s.core c).run = some r → 4096 ≤ r.count → s.atFend ⟨c, true⟩ = false →
    exec (.errandBudget c) s = .next (s.raise ⟨c, true⟩ (plainFault .errandBudget 0)))

/-- A core applies a freeze event by advancing its check epoch, and acknowledges it once its writes to the frames are
performed; the last acknowledgement of an event of the peer device is answered to it; a cache drops its F lines of a swept
frame, and the last acknowledgement closes the sweep. A freeze event of the peer device freezes its frames for this device's
writes until that device's thaw sweep (R151, R152, R156, R161, R363). The model's own choices in it: log entries 66, 88 and
98 (the copies that an acknowledgement waits for). -/
def Obligations.FreezeEvents : Prop :=
  (∀ (s : State) (c : CoreId) (o : FreezeOp), s.frz.ops = [o] → o.toApply.contains c = true →
    Becomes (.freezeEvent (.core c o.id)) s (fun t => (t.core c).epoch = (s.core c).epoch + 1 ∧
      t.frz.ops = [{ o with toApply := o.toApply.filter (fun d => d != c) }] ∧ SameBytes s t)) ∧
  (∀ (s : State) (c : CoreId) (o : FreezeOp), s.frz.ops = [o] → s.mayAck c o = true →
    (∀ w, o.who = some w → Becomes (.freezeAcknowledgement (.core c) o.id) s (fun t =>
      t.frz.ops = [{ o with toAck := o.toAck.filter (fun d => d != c) }] ∧ SameBytes s t)) ∧
    (∀ id, o.who = none → o.foreign = some id → o.toAck = [c] → o.peerWait = false →
      Becomes (.freezeAcknowledgement (.core c) o.id) s (fun t =>
        t.frz.ops = [] ∧ t.link.answers = s.link.answers ++ [.ack id] ∧ SameBytes s t))) ∧
  (∀ (s : State) (m : Origin) (o : FreezeOp) (w : Who), s.frz.ops = [o] → o.who = some w →
    Becomes (.freezeAcknowledgement (.peer m) o.id) s (fun t => t.frz.ops = [{ o with peerWait := false }] ∧
      (s.sched.outbox = [] → SameBytes s t))) ∧
  (∀ (s : State) (k : CacheId) (w : Sweep), k ≠ .peer → s.frz.sweeps = [w] → w.toDrop.contains k = true →
    Becomes (.thawSweep (.own k) [w.frame]) s (fun t =>
      (∀ x ∈ t.mem.fLines, ¬(x.1 = k ∧ frameOf (x.2.1 * 128) = w.frame)) ∧
      t.frz.sweeps = [{ w with toDrop := w.toDrop.filter (fun d => d != k) }] ∧ SameBytes s t)) ∧
  (∀ (s : State) (k : SweepMsg) (w : Sweep), s.frz.sweeps = [w] → w.toAck = [sweepCache k] → w.toDrop = [] →
    Becomes (.sweepAcknowledgement k [w.frame]) s (fun t => t.frz.sweeps = [] ∧ (t.frame w.frame).sweep = false ∧
      (t.frame w.frame).fcount = (s.frame w.frame).fcount ∧
      ∀ h ∈ t.mem.waiting, frameOf h.pa ≠ w.frame)) ∧
  (∀ (s : State) (m : Origin) (tag : Nat) (fs : List Nat), s.link.state = .up →
    (∀ f ∈ fs, memType (f * 0x8000) = .peer) →
    (s.mustKeep (incoming (.freeze m tag fs)) = false →
      Becomes (.freezeEvent (.peer m tag fs)) s (fun t =>
        (∀ f ∈ fs, (t.attrAt (f * 0x8000)).fcount = 1) ∧ SameBytes s t)) ∧
    (s.linkReady = true → s.mustKeep (incoming (.sweep m tag fs)) = false →
      Becomes (.thawSweep (.peer m tag) fs) s (fun t => (∀ f ∈ fs, (t.attrAt (f * 0x8000)).fcount = 0) ∧
        t.link.answers = s.link.answers ++ [.ack ⟨m, tag⟩] ∧ SameBytes s t ∧
        ∀ x ∈ t.mem.fLines, x.1 ≠ .peer → frameOf (x.2.1 * 128) ∉ fs)))

/-! Gangs (R31, R32, R49, R150, R289, R324, R327 to R339, R377). -/

/-- A pre-emption request halts the cores of a gang; the last core that declares its halt saves the gang: each task's area
holds what R331 says and its core is free; a placed gang is restored from its areas, registers and stores, and runs;
migration first asks the task to halt, its declared halt saves that task alone and logs both cores, and then it is restored
on the target, which the peer map names from then on. A kill waits for a strand in supervisor mode, and then: a killed task
is ended and its gang's cells expect one task fewer; a killed gang is out of the schedule, its cores are free, and its
launch counts it or completes; a killed launch has no gang left and is complete; a killed queue holds no launch and is
disabled, with vector 32 + q; a killed context has no enabled queue. The callers of the killed tasks' errands hear of it
(R31, R32, R44, R49, R289, R321, R327, R328, R331, R334, R338, R339, R353, R358). The model's own choices in it: log entries
14, 38, 50, 71, 73 (what a kill takes back), 94 (the fields of a record that names no core), 95, 116 (the layout of a
migration's log entry: R338 and R375 give none) and 119 (the launches whose first record a request's record is). -/
def Obligations.GangEvents : Prop :=
  (∀ (s : State) (g : Gang) (save : Nat), s.gang g.key = some g → g.state = .running ∨ g.state = .retiring →
    save % 0x1_0000 = 0 → save + g.peers.length * 0x12_0000 ≤ 0x7F_FA00_0000 →
    Becomes (.preemptionRequest g.key save) s (fun t => (∀ c ∈ g.cores, (t.core c).halting = true) ∧
      t.gang g.key = some { g with state := .halting, save := save, moving := none } ∧
      g.key ∉ t.sched.chosen ∧ SameBytes s t)) ∧
  (∀ (s u : State) (c : CoreId) (r : Resident) (g : Gang), (s.core c).task = some r → s.gang r.key = some g →
    g.state = .halting → (s.core c).halted = false → (∀ d ∈ g.cores, d ≠ c → (s.core d).halted = true) →
    u = (s.drainStrand ⟨c, false⟩).drainStrand ⟨c, true⟩ → u.quiet c = true → g.cores.Nodup →
    (∀ d ∈ g.cores, (u.core d).bad = [] ∧ ∀ q, (u.core d).task = some q → u.areaOpen (g.save + q.peer * 0x12_0000) = true ∧
      u.areaDenied q.master (g.save + q.peer * 0x12_0000) areaSize .write = none) →
    Becomes (.haltDeclared c) s (fun t =>
      (∃ h, t.gang g.key = some h ∧ h.state = .saved ∧ h.quires = [] ∧ h.moving = none ∧ h.dead = g.dead ∧
        ∀ p d, g.peers[p]? = some (Place.core d) → h.peers[p]? = some (Place.saved (g.save + p * 0x12_0000))) ∧
      ∀ p d q, g.peers[p]? = some (Place.core d) → (u.core d).task = some q →
        (t.core d).task = none ∧ (t.core d).halting = false ∧
        ∀ off, off < 0x12_0000 → t.byteAt (g.save + p * 0x12_0000 + off) =
          Memory.byte ((u.core d).saveArea q (u.core d).main.pc) off)) ∧
  (∀ (s : State) (g : Gang) (cs : List CoreId), s.gang g.key = some g → g.state = .placed →
    cs = (List.range g.peers.length).map (peerCore g.quires) → cs.Nodup →
    (∀ p, p < g.peers.length → ∃ pa, g.peers[p]? = some (.saved pa) ∧ s.restoreFault (s.savedTask g p pa) pa = none) →
    (∀ c ∈ cs, (s.core c).asleep = false) →
    (∃ p pa, g.peers[p]? = some (.saved pa) ∧ p ∉ g.dead ∧ (s.byteAt (pa + 0x38)).getLsbD 1 = false) →
    Becomes (.gangResume g.key) s (fun t =>
      (∃ h, t.gang g.key = some h ∧ h.state = .running ∧ h.peers = cs.map Place.core ∧ h.quires = g.quires) ∧
      t.mem.cells = s.mem.cells ∧
      ∀ p pa d, g.peers[p]? = some (.saved pa) → d = peerCore g.quires p →
        (t.core d).main.mode = .user ∧ (t.core d).held = false ∧
        (t.core d).main.pc = s.mem.cells.dword (pa + 0x11C0) ∧
        (∀ i : GReg, i.val ≠ 0 → (t.core d).main.g[i] = s.mem.cells.dword (pa + 0x1000 + 8 * (i.val - 1))) ∧
        (∀ i : FReg, (t.core d).main.f[i] = s.mem.cells.dword (pa + 0x1100 + 8 * i.val)) ∧
        (∀ n, (t.core d).task.map (fun q => (q.key.launch, q.peers)) = some n → n = (g.key.launch, g.peers.length)) ∧
        ∀ off, off < 0xA_0000 → t.storeByte d off = s.byteAt (pa + 0x7_0000 + off))) ∧
  (∀ (s : State) (g : Gang) (peer : Nat) (c target : CoreId) (save : Nat), s.gang g.key = some g → g.state = .running →
    g.moving = none → g.peers[peer]? = some (.core c) → s.reliefWanted g peer c target = true →
    save % 0x1_0000 = 0 → save + 0x12_0000 ≤ 0x7F_FA00_0000 →
    Becomes (.migration g.key peer target save) s (fun t => (t.core c).halting = true ∧
      (t.gang g.key).bind (·.moving) = some (peer, target, save) ∧ SameBytes s t)) ∧
  (∀ (s u : State) (c target : CoreId) (r : Resident) (g : Gang) (pa : Nat), (s.core c).task = some r →
    s.gang r.key = some g → g.state ≠ .halting → g.moving = some (r.peer, target, pa) → (s.core c).halted = false →
    u = (s.drainStrand ⟨c, false⟩).drainStrand ⟨c, true⟩ → u.quiet c = true → u.areaOpen pa = true →
    (u.core c).bad = [] → u.areaDenied r.master pa areaSize .write = none →
    Becomes (.haltDeclared c) s (fun t =>
      (∃ h, t.gang g.key = some h ∧ h.state = g.state ∧ h.moving = g.moving ∧ h.dead = g.dead ∧
        h.peers = g.peers.set r.peer (.saved pa)) ∧
      (t.core c).task = none ∧ (t.core c).halting = false ∧
      (∀ off, off < 0x12_0000 → t.byteAt (pa + off) = Memory.byte ((u.core c).saveArea r (u.core c).main.pc) off) ∧
      (∀ d, d ≠ c → (t.core d).task = (s.core d).task ∧ (t.core d).main = (u.core d).main) ∧
      t.mgmt.log.getLast? =
        some (0x00F0_0000_0000_0000, BitVec.ofNat 64 c.val, BitVec.ofNat 64 target.val, 0))) ∧
  (∀ (s : State) (g : Gang) (peer : Nat) (target : CoreId) (pa : Nat), s.gang g.key = some g →
    g.state = .running ∨ g.state = .retiring → g.moving = some (peer, target, pa) →
    g.peers[peer]? = some (.saved pa) → (s.core target).asleep = false → s.tooHot target = false →
    s.restoreFault (s.savedTask g peer pa) pa = none → (∀ p : Nat, g.peers[p]? ≠ some (.core target)) →
    (∃ p, p < g.peers.length ∧ p ≠ peer ∧ ¬s.over g p) →
    Becomes (.migration g.key peer target pa) s (fun t =>
      (∃ h, t.gang g.key = some h ∧ h.state = g.state ∧ h.moving = none ∧ h.peers = g.peers.set peer (.core target)) ∧
      t.mem.cells = s.mem.cells ∧ (t.core target).main.mode = .user ∧ (t.core target).held = false ∧
      (t.core target).main.pc = s.mem.cells.dword (pa + 0x11C0) ∧
      (∀ i : GReg, i.val ≠ 0 → (t.core target).main.g[i] = s.mem.cells.dword (pa + 0x1000 + 8 * (i.val - 1))) ∧
      (∀ i : FReg, (t.core target).main.f[i] = s.mem.cells.dword (pa + 0x1100 + 8 * i.val)) ∧
      (∀ off, off < 0xA_0000 → t.storeByte target off = s.byteAt (pa + 0x7_0000 + off)) ∧
      ∀ d, d ≠ target → t.core d = s.core d)) ∧
  (∀ (s : State) (k : KillTarget), s.killable k = true → exec (.kill k) s =
    .next ((s.report (launchOf k) (s.requestRecord k)).killUnit k 0 (s.requestRecord k))) ∧
  (∀ (s : State) (k : GangKey) (l : Launch), s.launch k.launch = some l → k.gang < 2 ^ 24 →
    Describes (s.requestRecord (.gang k)) 0 6 1 k.gang l.ctx.toNat l.part.toNat l.queue.val ∧
    Describes (s.requestRecord (.launch k.launch)) 0 6 2 0 l.ctx.toNat l.part.toNat l.queue.val) ∧
  (∀ (s : State) (q : QueueId),
    Describes (s.requestRecord (.queue q)) 0 6 3 0 (s.queueAt q).ctx.toNat (s.queueAt q).part.toNat q.val) ∧
  (∀ (s : State) (ctx : BitVec 12) (b : Binding), s.binding ctx = some b →
    Describes (s.requestRecord (.context ctx)) 0 6 3 0 ctx.toNat b.part.toNat
      (((s.queuesOf ctx).head?.map (·.val)).getD 0)) ∧
  (∀ (s : State) (k : KillTarget) (cause : Nat) (rec_ : Word × Word × Word × Word),
    (∃ c ∈ s.killedCores k, (s.core c).main.mode = .supervisor ∨ (s.core c).err.mode = .supervisor) →
    Move.kill k cause rec_ ∈ (s.killUnit k cause rec_).agenda ∧
    (∀ c ∈ s.killedCores k, ((s.killUnit k cause rec_).core c).halting = true ∧
      ((s.killUnit k cause rec_).core c).task = (s.core c).task) ∧
    (s.killUnit k cause rec_).sched = s.sched) ∧
  (∀ (s t : State) (k : GangKey) (p cause : Nat) (rec_ : Word × Word × Word × Word) (g : Gang) (c : CoreId),
    s.killsAtOnce (.task k p) → t = s.killUnit (.task k p) cause rec_ → s.gang k = some g → p ∉ g.dead →
    g.peers[p]? = some (.core c) → g.cores.Nodup → (∃ q, q < g.peers.length ∧ q ≠ p ∧ ¬s.over g q) →
    (∃ h, t.gang k = some h ∧ h.dead = p :: g.dead ∧ h.peers = g.peers ∧ h.state = g.state) ∧
    (t.core c).task = (s.core c).task.map (fun r => { r with ended := true }) ∧ (t.core c).run = none ∧
    (t.core c).mbox = [] ∧ (t.core c).copies = [] ∧ s.answersCallers t c cause ∧
    (∀ d ∈ g.cores, ∀ n : Fin 96, (t.core d).cells[n] = loweredCell (s.core d).cells[n]) ∧
    ∀ d, d ≠ c → (t.core d).task = (s.core d).task) ∧
  (∀ (s t : State) (k : GangKey) (cause : Nat) (rec_ : Word × Word × Word × Word) (g : Gang) (l : Launch),
    s.killsAtOnce (.gang k) → t = s.killUnit (.gang k) cause rec_ → s.gang k = some g → s.launch k.launch = some l →
    (∀ h ∈ t.sched.gangs, h.key ≠ k) ∧
    (∀ h ∈ s.sched.gangs, h.key ≠ k → ∃ x ∈ t.sched.gangs, { x with kept := h.kept } = h) ∧
    (∀ c ∈ g.cores, (t.core c).task = none ∧ (t.core c).run = none ∧ (t.core c).mbox = [] ∧ (t.core c).copies = [] ∧
      (t.core c).halting = false ∧ s.answersCallers t c cause) ∧
    (∀ c, c ∉ g.cores → (t.core c).task = (s.core c).task) ∧
    (l.retired + (l.killed + 1) ≠ l.gangs → t.launch k.launch = some { l with killed := l.killed + 1 }) ∧
    (l.retired + (l.killed + 1) = l.gangs → t.launch k.launch = none)) ∧
  (∀ (s t : State) (n cause : Nat) (rec_ : Word × Word × Word × Word) (l : Launch),
    s.killsAtOnce (.launch n) → t = s.killUnit (.launch n) cause rec_ → s.launch n = some l →
    t.launch n = none ∧ (∀ h ∈ t.sched.gangs, h.key.launch ≠ n) ∧
    ∀ g ∈ s.sched.gangs, g.key.launch = n → ∀ c ∈ g.cores, (t.core c).task = none ∧ s.answersCallers t c cause) ∧
  (∀ (s t : State) (q : QueueId) (cause : Nat) (rec_ : Word × Word × Word × Word),
    s.killsAtOnce (.queue q) → t = s.killUnit (.queue q) cause rec_ →
    (∀ l ∈ t.sched.launches, l.queue ≠ q) ∧ (t.queueAt q).enable = false ∧ (t.queueAt q).err = false ∧
      32 + q.val ∈ t.vectors) ∧
  (∀ (s t : State) (ctx : BitVec 12) (cause : Nat) (rec_ : Word × Word × Word × Word),
    s.killsAtOnce (.context ctx) → t = s.killUnit (.context ctx) cause rec_ →
    ∀ q : QueueId, (s.queueAt q).ctx = ctx → (t.queueAt q).enable = false)

/-- A generation hold of a second kills the gang that holds, with a KIND 4 record of LEVEL 1; a core without a task sleeps,
and wakes with the present generation; a thermal table ranks every core; an error in a clean line is counted, one in HBM
marks its line, and one in a dirty line leaves zeros for its 128 bytes, which are good data from then on. Where the line's
last write carried a context's master, a KIND 3 record of LEVEL 4 is logged and that context is killed, be it a line of
device or of host memory; a line last written by the runtime's master loses its data alone; a line that is not dirty has
no such error (R107, R149, R150, R290, R324, R377). The model's own choices in it: log entries 11, 64 (a step that finds
nothing to do), 94 (the fields of a record that names no core, and the queue of a LEVEL 4 one) and 106 (the runtime's
master). -/
def Obligations.CareEvents : Prop :=
  (∀ (s : State) (g : Gang) (l : Launch) (t : Nat), s.gang g.key = some g → s.cgHeld = some t → s.holdsBack g = true →
    t + 1_000_000_000 ≤ s.clock.toNat → s.launch g.key.launch = some l → g.key.gang < 2 ^ 24 →
    Becomes (.generationHold g.key) s (fun u => ∃ rec_ : Word × Word × Word × Word,
      Describes rec_ 0 4 1 g.key.gang l.ctx.toNat l.part.toNat l.queue.val ∧
      u = ((s.appendLog rec_).setLaunch { l with firstFault := l.firstFault.orElse (fun _ => some rec_) }).killUnit
        (.gang g.key) 0 rec_)) ∧
  (∀ (s : State) (c : CoreId), (s.core c).task = none → s.reservedCore c = false → (s.core c).asleep = false →
    (s.core c).writes = [] →
    Becomes (.retentionSleep c) s (fun t => (t.core c).asleep = true ∧ (t.core c).sleepAdvances = 0 ∧
      ∀ x ∈ t.mem.fLines, x.1 ≠ .core c)) ∧
  (∀ (s : State) (c : CoreId), (s.core c).asleep = true →
    exec (.wake c) s = .next (s.setCore c { s.core c with
      asleep := false, sleepAdvances := 0, codegen := s.cg
      l1i := if 0x8000 ≤ (s.core c).sleepAdvances then [] else (s.core c).l1i
      prefetched := if 0x8000 ≤ (s.core c).sleepAdvances then [] else (s.core c).prefetched })) ∧
  (∀ (s : State) (ts : List (BitVec 16)), ts.length = 256 → s.mgmt.state = .running →
    Becomes (.thermalTableUpdate ts) s (fun t =>
      (∀ c : CoreId, (t.mgmt.thermal[c]).setWidth 16 = ts.getD c.val 0) ∧
      (∀ c d : CoreId, (ts.getD c.val 0).slt (ts.getD d.val 0) = true → t.rank c < t.rank d) ∧
      t.mem = s.mem ∧ t.cores = s.cores)) ∧
  (∀ (s : State) (line : Nat), memType (line * 128) = .device ∨ memType (line * 128) = .host →
    Becomes (.scrubbing line .clean) s (fun t =>
      t.mgmt.counters.correctedErrors = satInc s.mgmt.counters.correctedErrors ∧ SameBytes s t) ∧
    (memType (line * 128) = .device → Becomes (.scrubbing line .hbm) s (fun t => line ∈ t.mem.ecc ∧ SameBytes s t)) ∧
    (memType (line * 128) = .host → exec (.scrubbing line .hbm) s = .next s) ∧
    (assocGet s.mem.masters line = none → exec (.scrubbing line .dirty) s = .next s) ∧
    (assocGet s.mem.masters line = some none → Becomes (.scrubbing line .dirty) s (LineLost s line)) ∧
    ∀ m, assocGet s.mem.masters line = some (some m) →
      ∃ (u : State) (rec_ : Word × Word × Word × Word), LineLost s line u ∧
        Describes rec_ 0x15 3 4 0 m.ctx.toNat m.part.toNat (((s.queuesOf m.ctx).head?.map (·.val)).getD 0) ∧
        exec (.scrubbing line .dirty) s = .next ((u.appendLog rec_).killUnit (.context m.ctx) 0x15 rec_))

/-! The scheduler (R22 to R27, R341 to R353). -/

/-- TAIL_READ takes the tail or sets ERR; ACCEPTANCE makes a good record a launch and completes a bad one at once, with
STATUS 1 and its REASON in the DONE doubleword; ARBITRATE places the next unit of highest effective priority that fits, on
quires of the partition that are free, as a new gang or as the saved one, starts nothing, and where nothing fits chooses the
victims for one unit, of lower priority and past their minimum residency, unless those that it has been given already make
room for it; MINRES_ELAPSED ends a gang's residency and takes the same decision; TASK_START starts every task of a gang at
the kernel's entry with PARAM in g1, one that was killed before as an ended one; ENABLE starts and stops a queue (R22 to
R27, R341, R342, R344, R348 to R353). A gang that is to be pre-empted is owed its request once there is a place to save it.
A record is read as memory holds it but where a store that nothing orders before the read has just replaced one of its
blocks; what has been read is not read older again. The model's own choices in it: log entries 25 (those stores), 41 (a read
waits for a write of this device over the link), 49, 50 (where a gang is saved), 51, 97 (a queue whose context is bound
nowhere), 111 (the scheduler's accesses are user accesses) and 112 (a re-read of VALID that faults). -/
def Obligations.SchedulerEvents : Prop :=
  (∀ (s : State) (q : QueueId) (tail : BitVec 32), (s.queueAt q).enable = true → (s.queueAt q).tailIgnored = false →
    s.granted ⟨(s.queueAt q).part, (s.queueAt q).ctx⟩ ((s.queueAt q).tailAddr.toNat * 8) .read = true →
    s.writeSent ((s.queueAt q).tailAddr.toNat * 8) 4 = false →
    tail = BitVec.ofNat 32 (leNat (s.readPhys ((s.queueAt q).tailAddr.toNat * 8) 4)) →
    ((tail - (s.queueAt q).head).toNat ≤ 2 ^ (s.queueAt q).log2n.toNat →
      exec (.tailRead q) s = .next (s.setQueue q { s.queueAt q with tailSeen := tail, tailRead := true })) ∧
    (2 ^ (s.queueAt q).log2n.toNat < (tail - (s.queueAt q).head).toNat →
      Becomes (.tailRead q) s (fun t => (t.queueAt q).err = true ∧ (t.queueAt q).tailIgnored = true ∧
        t.vectors = s.vectors ++ [32 + q.val] ∧ SameBytes s t))) ∧
  (∀ (s : State) (x : Queue) (k : Nat),
    (∀ y ∈ s.mem.unseen, y.block / 4 ≠ x.recordAt k / 128) → s.queueRecord x k = s.readPhys (x.recordAt k) 128) ∧
  (∀ (s : State) (q : QueueId) (bs : List Byte), (s.queueAt q).pending ≠ 0 →
    s.deniedLine ⟨(s.queueAt q).part, (s.queueAt q).ctx⟩ ((s.queueAt q).recordAt (s.queueAt q).head.toNat) 128 .read = none →
    bs = s.queueRecord (s.queueAt q) (s.queueAt q).head.toNat →
    s.writeSent ((s.queueAt q).recordAt (s.queueAt q).head.toNat) 128 = false →
    s.headerWaits (s.queueAt q) bs = false →
    s.mayAccept q ((recWord bs 0).getLsbD 55) = true →
    (∀ h, (s.advanceHead q).checkRecord (s.queueAt q) bs = .ok h →
      Becomes (.acceptance q) s (fun t => (t.queueAt q).head = (s.queueAt q).head + 1 ∧
        t.sched.launches = s.sched.launches ++ [newLaunch s.sched.counter q (s.queueAt q) bs h] ∧
        t.sched.counter = s.sched.counter + 1 ∧ t.mem.unseen = [])) ∧
    (recordForm bs (((s.bound (s.queueAt q).ctx (s.queueAt q).part).map (·.spanned)).getD false) = false →
      ∃ r, (s.advanceHead q).checkRecord (s.queueAt q) bs = .error r ∧ r.reason = 1 ∧ r.read = none) ∧
    (recordForm bs false = true → s.bound (s.queueAt q).ctx (s.queueAt q).part = none →
      ∃ r, (s.advanceHead q).checkRecord (s.queueAt q) bs = .error r ∧ r.reason = 2 ∧ r.cause = 3 ∧
        r.addr = recWord bs 1) ∧
    (∀ r, (s.advanceHead q).checkRecord (s.queueAt q) bs = .error r → 1 ≤ r.reason ∧ r.reason ≤ 5 ∧
      Becomes (.acceptance q) s (fun t => (t.queueAt q).head = (s.queueAt q).head + 1 ∧
        t.sched.launches = s.sched.launches) ∧
      (r.read = none → ∃ rec_ : Word × Word × Word × Word, rec_.1.toNat / 2 ^ 52 % 2 ^ 4 = 7 ∧ rec_.1.toNat / 2 ^ 56 = r.cause % 256 ∧
        ∀ (b : Binding) (u v : State) (pa : Nat), s.binding (s.queueAt q).ctx = some b → recWord bs 5 ≠ 0 →
          u = (s.advanceHead q).setQueue q { (s.advanceHead q).queueAt q with last := none } →
          v = u.ctxWrite b (recWord bs 5 + 8) (le8 (recWord bs 6) ++ le8 u.clock ++ le8 0 ++
            (le8 rec_.1 ++ le8 rec_.2.1 ++ le8 rec_.2.2.1 ++ le8 rec_.2.2.2)) false none →
          v.ctxPieces b .write [(0, (recWord bs 5).toNat, 8)] = .ok [⟨0, pa, 8⟩] → (recWord bs 5).toNat % 64 = 0 →
          (v.attrAt pa).fcount = 0 → (v.attrAt pa).sweep = false → memType pa ≠ .peer →
          v.sched.outbox = [] → v.schedulerSent = false → (∀ w ∈ v.mem.waiting, w.ack.isSome = true) →
          Becomes (.acceptance q) s (fun t => (∀ j, j < 8 →
            t.byteAt (pa + j) = (natLe 8 (2 ^ 63 + 2 ^ 60 + r.reason * 2 ^ 56)).getD j 0) ∧
            ∀ a, a < pa ∨ pa + 8 ≤ a → t.byteAt a = v.byteAt a)))) ∧
  (∀ (s v : State) (part : Fin 8), v = s.noteUnits.releaseHolds →
    Becomes (.arbitrate part) s (fun t =>
      (∀ c, (t.core c).task = (s.core c).task ∧ (t.core c).main = (s.core c).main ∧ (t.core c).ls = (s.core c).ls) ∧
      (∀ g ∈ t.sched.gangs, g ∈ s.sched.gangs ∨ g.state = .placed) ∧
      (∀ u qs, v.firstUnit ((v.units_ (BitVec.ofFin part)).filter (fun u => (v.fit (BitVec.ofFin part) u).isSome)) = some u →
        v.fit (BitVec.ofFin part) u = some qs →
        (∀ w ∈ v.units_ (BitVec.ofFin part), (v.fit (BitVec.ofFin part) w).isSome = true → v.effective w ≤ v.effective u) ∧
        (qs.length = u.quires ∧ ∀ q ∈ qs, (v.conf.quires[part]).getLsbD q.val = true ∧ v.quireFree q = true) ∧
        (u.saved = true → v.gang u.key ≠ none →
          ∃ h, t.gang u.key = some h ∧ h.state = .placed ∧ h.quires = qs ∧ h.placedAt = s.clock.toNat) ∧
        (∀ l, u.saved = false → v.gang u.key = none → v.launch u.key.launch = some l → v.stillValid l = true →
          v.binding l.ctx ≠ none →
          ∃ h ∈ t.sched.gangs, h.key = u.key ∧ h.state = .placed ∧ h.quires = qs ∧
            h.peers = (List.range (8 * u.quires)).map (fun p => .core (peerCore qs p)))) ∧
      (∀ u gs, (∀ w ∈ v.units_ (BitVec.ofFin part), v.fit (BitVec.ofFin part) w = none) →
        v.unitU (BitVec.ofFin part) = some u → v.roomWith (BitVec.ofFin part) u [] = false →
        v.victimSet (BitVec.ofFin part) u = some gs →
        (∀ g ∈ gs, g.prio.toNat < u.prio.toNat ∧ v.eligible g = true) ∧
        t.sched.chosen = s.sched.chosen ++ gs.map (·.key) ∧
        (u.queue, u.key, gs.flatMap (·.quires)) ∈ t.sched.holds) ∧
      (∀ u, (∀ w ∈ v.units_ (BitVec.ofFin part), v.fit (BitVec.ofFin part) w = none) →
        v.unitU (BitVec.ofFin part) = some u → v.roomWith (BitVec.ofFin part) u [] = true →
        t.sched.chosen = s.sched.chosen))) ∧
  (∀ (s : State) (g : Gang) (l : Launch) (part : Fin 8), s.gang g.key = some g → g.state ≠ .saved →
    g.placedAt + (s.queueAt g.queue).minres.toNat * 1000 ≤ s.clock.toNat → s.launch g.key.launch = some l →
    part.val = l.part.toNat →
    exec (.minresElapsed g.key) s = exec (.arbitrate part) (s.setGang { g with minresOver := true }) ∧
    Becomes (.minresElapsed g.key) s (fun t => ∃ h, t.gang g.key = some h ∧ h.minresOver = true)) ∧
  (∀ (s : State) (g : Gang) (l : Launch) (es : List HamperEntry) (ks : List (CoreId × Core)),
    s.gang g.key = some g → s.launch g.key.launch = some l → g.state = .placed →
    g.placedCores.length = g.peers.length → (∀ p ∈ g.placedCores, (s.core p.2).asleep = false) →
    s.hamperWaits g l = false → s.hamperOf g l = .ok es → s.freshTasks g l es g.placedCores = .ok ks →
    (∃ p ∈ g.placedCores, p.1 ∉ g.dead) → (g.placedCores.map (fun p => p.2)).Nodup →
    Becomes (.taskStart g.key) s (fun t =>
      (∀ p ∈ g.placedCores, (t.core p.2).main.pc = l.entry ∧ (t.core p.2).main.mode = .user ∧
        (t.core p.2).main.g = (Vector.replicate 32 (0 : Word)).set 1 l.param ∧ (t.core p.2).codegen = s.cg ∧
        (t.core p.2).task.map (fun r => r.ended) = some (g.dead.contains p.1)) ∧
      (∀ c, c ∉ g.placedCores.map (·.2) → t.core c = s.core c) ∧
      t.gang g.key = some { g with state := .running } ∧ t.mem = s.mem)) ∧
  (∀ (s : State) (g : Gang) (n : Nat), g ∈ s.sched.gangs → g.state = .running ∨ g.state = .retiring →
    g.key ∈ s.sched.chosen → n = saveBaseFor s.ticks g.peers.length → s.areasUsable g n = true →
    Move.event (.preemptionRequest g.key n) ∈ s.round ∧ n % 0x1_0000 = 0 ∧
      (g.peers.length ≤ 256 → n + g.peers.length * 0x12_0000 ≤ 0x7F_FA00_0000)) ∧
  (∀ (s : State) (q : QueueId) (v : Word),
    ((s.queueAt q).enable = false → 4 ≤ bitsOf v 48 45 → bitsOf v 48 45 ≤ 12 →
      Becomes (.queueEnable q v) s (fun t => (t.queueAt q).enable = true ∧ (t.queueAt q).head = 0 ∧
        (t.queueAt q).ctx = v.extractLsb' 33 12 ∧ (t.queueAt q).part = v.extractLsb' 30 3 ∧
        (t.queueAt q).log2n = v.extractLsb' 45 4 ∧ t.mem = s.mem)) ∧
    Becomes (.queueDisable q v) s (fun t => (t.queueAt q).enable = false ∧ (t.queueAt q).err = false ∧
      (t.queueAt q).head = (s.queueAt q).head ∧ t.mem = s.mem))

/-! The host's windows (R6, R7, R80, R149, R342, R355, R356). -/

/-- `registerWrite`: a write of HOSTMASTER and of a disabled queue's RING takes the written fields; one that is not aligned
completes with Unsupported Request, as does a read of another size. `crCgdev`, `crScopemiss`, `crFcause` and `crRspill` do
what MTCR does. `bar2Read` and `bar2Write`: bytes are read and written where HOSTMASTER is valid and granted; a read that is
denied is a Completer Abort, a write that is denied or meets a frozen frame is counted and dropped, and the log holds each,
with the master or, where HOSTMASTER is not valid, with the fields that it holds. A host agent's store reaches host memory
and leaves no dirty line of it in the device's L2 (R107, R357). `portWrite`: the host sets the power state, link width,
payload and read request sizes that R354 supports. The model's own choices in it: log entries 52, 54, 63 (the list of what
the host is answered), 85 (`hostStore`), 86 (`registerRead`, and what a misaligned write is answered), 102 (the layout of
the log entry of a denial) and 118 (`portWrite`). -/
def Obligations.HostWindows : Prop :=
  (∀ (s : State) (v : Word),
    exec (.registerWrite 0x1000 true v) s =
      .next { s with conf := { s.conf with hostMaster := v &&& 0xFFFF_0000_0000_0000 } } ∧
    (∀ q : QueueId, (s.queueAt q).enable = false →
      exec (.registerWrite (BitVec.ofNat 24 (64 * q.val + 8)) true v) s =
        .next (s.setQueue q { s.queueAt q with ring := v.extractLsb' 7 45 })) ∧
    ∀ (off : BitVec 24) (wide : Bool), off.toNat % (if wide then 8 else 4) ≠ 0 →
      exec (.registerWrite off wide v) s = .next { s with
        hostReads := s.hostReads ++ [⟨0, off.toNat, none⟩], port := { s.port with unsupportedRequest := true } }) ∧
  (∀ (s : State) (off len : Nat),
    ((len = 4 ∨ len = 8) → off % len = 0 → off < 2 ^ 24 →
      s.registerRead off len = { s with hostReads := s.hostReads ++
        [⟨0, off, some (((lowBytes 8 (s.readBar0 (off / 8 * 8))).drop (off % 8)).take len)⟩] }) ∧
    ((len ≠ 4 ∧ len ≠ 8) ∨ off % len ≠ 0 →
      s.registerRead off len = { s with
        hostReads := s.hostReads ++ [⟨0, off, none⟩], port := { s.port with unsupportedRequest := true } })) ∧
  (∀ (s : State) (c : CoreId) (v : Word),
    (v.setWidth 16 = s.cg + 1 → s.lagging (s.cg + 1) = false →
      Becomes (.crCgdev v) s (fun t => t.cg = s.cg + 1 ∧ SameBytes s t)) ∧
    exec (.crScopemiss c v) s = .next (s.setCore c { s.core c with
      scopemiss := (s.core c).scopemiss &&& ~~~(v &&& 0x8800_0000_0000_0000) }) ∧
    exec (.crFcause c v) s = .next (s.setCore c { s.core c with
      fcause := (s.core c).fcause &&& ~~~(v &&& 0x8000_0000_0000_0000) }) ∧
    exec (.crRspill c v) s = .next (s.setCore c { s.core c with
      main := { (s.core c).main with rspill := v &&& 0x01FF_FFFF_FFFF_FFF8 } })) ∧
  (∀ (s : State) (a n : Nat), a + n ≤ 0x80_0000_0000 →
    (s.hostMaster = none → exec (.bar2Read a n) s = .next (s.aborts a)) ∧
    (∀ m x, s.hostMaster = some m → s.deniedLine m a n .read = some x →
      Becomes (.bar2Read a n) s (fun t => SameBytes s t ∧ t.hostReads = s.hostReads ++ [⟨2, a, none⟩] ∧
        t.port.completerAbort = true ∧ t.logsDenial m x)) ∧
    (∀ m, s.hostMaster = some m → s.deniedLine m a n .read = none → s.badLine a n ≠ none →
      exec (.bar2Read a n) s = .next (s.aborts a)) ∧
    ∀ m, s.hostMaster = some m → s.deniedLine m a n .read = none → s.badLine a n = none →
      exec (.bar2Read a n) s = .next { s with hostReads := s.hostReads ++ [⟨2, a, some (s.readPhys a n)⟩] }) ∧
  (∀ (s : State) (a : Nat) (bs : List Byte), a + bs.length ≤ 0x80_0000_0000 → 0 < bs.length →
    a / 0x8000 = (a + bs.length - 1) / 0x8000 →
    (s.hostMaster = none → Becomes (.bar2Write a bs) s (fun t => SameBytes s t ∧
      t.mgmt.counters.hostWrDenied = satInc s.mgmt.counters.hostWrDenied ∧
      t.logsDenial ⟨s.conf.hostMaster.extractLsb' 60 3, s.conf.hostMaster.extractLsb' 48 12⟩ a)) ∧
    (∀ m x, s.hostMaster = some m → s.deniedLine m a bs.length .write = some x →
      Becomes (.bar2Write a bs) s (fun t => SameBytes s t ∧
        t.mgmt.counters.hostWrDenied = satInc s.mgmt.counters.hostWrDenied ∧ t.logsDenial m x)) ∧
    (∀ m, s.hostMaster = some m → s.deniedLine m a bs.length .write = none → s.homeOpen a →
      Becomes (.bar2Write a bs) s (fun t => Stored s t a bs)) ∧
    (∀ m, s.hostMaster = some m → s.deniedLine m a bs.length .write = none → 0 < (s.attrAt a).fcount →
      Becomes (.bar2Write a bs) s (fun t => SameBytes s t ∧
        t.mgmt.counters.hostWrFrozen = satInc s.mgmt.counters.hostWrFrozen ∧ t.logsDenial m a))) ∧
  (∀ (s : State) (a : Nat) (bs : List Byte), memType a = .host → 0 < bs.length → a + bs.length ≤ 2 ^ 52 →
    a / 64 = (a + bs.length - 1) / 64 → Stored s (s.hostStore a bs) a bs ∧
      assocGet (s.hostStore a bs).mem.masters (a / 128) = none) ∧
  ∀ (s : State) (x : PortWrite), ∃ t : State, s.portWrite x = { s with port := t.port } ∧
    (∀ p, x = .power p → t.port.power = p) ∧
    (∀ n, x = .maxPayload n → t.port.maxPayload = if n ∈ [128, 256, 512] then n else s.port.maxPayload) ∧
    (∀ n, x = .maxReadRequest n →
      t.port.maxReadRequest = if n ∈ [128, 256, 512, 1024, 2048, 4096] then n else s.port.maxReadRequest) ∧
    (∀ n, x = .width n → t.port.width = if n ∈ [1, 2, 4, 8, 16] then n else s.port.width)

/-! The Oncel link (R359 to R366). -/

/-- `linkUp`, `linkDown`: training is tried again and again from DOWN; the link comes up from TRAINING only, and a freeze
event for each frozen frame must be acknowledged before it carries transactions; where it is lost, what is not acknowledged
is dropped, one PEER_ABSENT for each retired write. `data`, `void`: a flit in sequence is taken and acknowledged, the
transactions of a voided slot are awaited and the other parts of split ones discarded; a DATA flit that is sent has 228
bytes; a bad one, or one out of sequence, is discarded, with one NAK. `idle`, `nak`:
acknowledged entries leave the replay buffer; what is left is sent again at a NAK. A transaction that an awaited one of its
engine holds back, or whose target's task is in mid-migration, is kept, with no effect, until nothing holds it. `read`,
`write`, `atomic`, `copyWrite`, `reduceWrite`: one that nothing holds has its effect at its home and is answered, where the
table grants it; it waits in a sweep, and is denied at a frame whose freezing the peer device has acknowledged, or at a gang
that has retired (R152, R157, R161). `readResponse`,
`atomicResponse`, `writeAcknowledgement`, `phaseResponse`, `barrierArrival`: an answer or an arrival reaches what it names;
a write of the scheduler that waited for the acknowledgement goes out. The model's own choices in it: log entries 12 (the
header of KIND 0 that acknowledges a flit at once), 25, 41, 53, 64 (a step that finds nothing to do), 66, 96 (the vectors of
writes that the link's loss drops), 102 and 117 (the layouts of the log entries of a denial and of a change of the link). -/
def Obligations.LinkEvents : Prop :=
  (∀ s : State, (s.link.state ≠ .training → exec .linkUp s = .next s) ∧
    (s.link.state = .training → s.frozenFrames = [] →
      Becomes .linkUp s (fun t => t.link.state = .up ∧ t.link.refreeze = [] ∧ t.vectors = s.vectors ++ [65, 64] ∧
        t.logsLink 2 ∧ SameBytes s t)) ∧
    (s.link.state = .training → s.frozenFrames ≠ [] →
      Becomes .linkUp s (fun t => t.link.state = .up ∧ t.linkReady = false ∧ SameBytes s t ∧
        ∃ es, t.frz.ops = s.frz.ops ++ es ∧ t.link.refreeze = es.map (·.id) ∧
          es.map (·.frames) = s.frozenFrames.map (fun f => [f]) ∧ ∀ o ∈ es, o.peerWait = true)) ∧
    (s.link.state = .training → Becomes .linkDown s (fun t => t.link.state = .down ∧
      t.vectors = s.vectors ++ [65, 64] ∧ t.logsLink 0 ∧ SameBytes s t)) ∧
    (s.link.state = .up → Becomes .linkDown s (fun t => t.link.state = .down ∧ t.link.unacked = [] ∧
      t.link.replay = [] ∧ t.logsLink 0 ∧ 65 ∈ t.vectors ∧
      (∀ a ∈ t.link.arrivals, a.answer ≠ none) ∧
      (∀ u ∈ s.link.unacked, ∀ w, u.who = some w →
        ∃ f ∈ (t.core w.core).deferred, f.cause = .peerAbsent ∧ f.kind = 1 ∧ f.addr = u.va) ∧
      (∀ u ∈ s.link.unacked, ∀ v, u.notify = some v → v ∈ t.vectors) ∧
      ∀ c : CoreId, (t.core c).deferred.length = (s.core c).deferred.length +
        ((s.core c).unackedWrites (s.link.unacked.filter (fun u => u.core == some c))).length)) ∧
    (s.link.state = .down → .linkTraining ∈ s.round) ∧ (s.link.kept ≠ [] → .linkKept ∈ s.round)) ∧
  (∀ (s u : State) (rest : List Move), u = { s.pass with agenda := rest } →
    (s.pass.agenda = .linkTraining :: rest → u.link.state = .down → ∃ t, step s = .next t ∧ t.link.state = .training ∧
      t.vectors = u.vectors ++ [65, 64] ∧ t.logsLink 1 ∧ SameBytes u t) ∧
    (s.pass.agenda = .linkKept :: rest → step s = takeKept u)) ∧
  (∀ (s : State) (h : BitVec 96) (bs : List Byte) (lost : List LostTransaction) (a b : Nat), bs.length = 228 →
    (s.inSequence h 1 → Becomes (.data h bs true) s (fun t => t.link.received = s.link.received ++ bs.drop s.link.skip ∧
      t.link.skip = s.link.skip - 228 ∧
      t.link.awaited = s.link.awaited ∧ t.link.expect = s.link.expect + 1 ∧ t.link.nakSent = false ∧ SameBytes s t ∧
      ∃ w, t.link.wire.getLast? = some w ∧ flitKind w = 0 ∧ flitAck w = s.link.expect + 1)) ∧
    (s.inSequence h 2 → Becomes (.void ⟨h, lost, b, a⟩ true) s (fun t =>
      t.link.received = s.link.received.take (s.link.received.length - b) ∧ t.link.skip = s.link.skip + a ∧
      t.link.awaited = s.link.awaited ++ lost.map (⟨·, false⟩) ∧ t.link.expect = s.link.expect + 1 ∧ t.link.nakSent = false ∧ SameBytes s t ∧
      ∃ w, t.link.wire.getLast? = some w ∧ flitKind w = 0 ∧ flitAck w = s.link.expect + 1))) ∧
  (∀ (s : State) (h : BitVec 96) (bs : List Byte) (v : VoidFlit) (ok : Bool) (i : Instr), bs.length = 228 →
    s.link.state = .up → v.header = h →
    ((ok = false ∨ 3 < flitKind h ∨ h.toNat % 2 ^ 56 ≠ 0) ∧ i ∈ [.data h bs ok, .void v ok, .nak h ok, .idle h ok] ∨
      flitSeq h ≠ s.link.expect ∧ (s.carries h 1 ∧ i = .data h bs ok ∨ s.carries h 2 ∧ i = .void v ok)) →
    (s.link.nakSent = true → exec i s = .next s) ∧
    (s.link.nakSent = false → Becomes i s (fun t => t.link.nakSent = true ∧ t.link.expect = s.link.expect ∧
      t.link.received = s.link.received ∧ t.link.replay = s.link.replay ∧ t.link.awaited = s.link.awaited ∧ SameBytes s t ∧
      ∃ w, t.link.wire = s.link.wire ++ [w] ∧ flitKind w = 3 ∧ flitAck w = s.link.expect))) ∧
  (∀ (s : State) (h : BitVec 96),
    (s.carries h 0 → Becomes (.idle h true) s (fun t => t.link.credit = s.link.credit + 64 * flitCredit h ∧
      s.link.unackedFlits h <+: t.link.replay ∧ (s.link.unsent = [] → t.link.replay = s.link.unackedFlits h) ∧
      SameBytes s t)) ∧
    (s.carries h 3 → Becomes (.nak h true) s (fun t => t.link.resendFrom = some (flitAck h) ∧
      t.link.credit = s.link.credit + 64 * flitCredit h ∧ SameBytes s t ∧
      ∃ ws, t.link.wire = s.link.wire ++ ws ∧ (s.link.unackedFlits h).map (·.seq) <+: ws.map flitSeq))) ∧
  (∀ (l : Link) (tick : Nat), (∀ p ∈ l.unsent, p.length = 228) →
    (∀ p ∈ (l.send tick).unsent, p.length = 228) ∧ ∀ f ∈ (l.send tick).replay,
      f ∈ l.replay ∨ (f.kind = .data ∧ f.payload.length = 228) ∨ (f.kind = .void ∧ f.payload = [])) ∧
  (∀ (s : State) (x : LinkTransaction), s.link.awaited = [] → (∀ k p off n, (incoming x).target ≠ some (.store k p off, n)) →
    s.mustKeep (incoming x) = false) ∧
  (∀ (s : State) (x : LinkTransaction) (k : GangKey) (p off n : Nat), s.link.awaited = [] →
    (incoming x).target = some (.store k p off, n) →
    (s.mustKeep (incoming x) = true ↔ (∃ pa, s.peerAt k p = .moving pa) ∨
      ∃ pa g, s.peerAt k p = .saved pa ∧ s.gang k = some g ∧ g.state = .halting)) ∧
  (∀ (s : State) (l : LostTransaction) (m : Origin) (b pa n tag : Nat) (bs : List (Option Byte)) (rel : Option Scope),
    s.link.awaited = [⟨l, false⟩] → l.target = some (.home b) →
    (s.mustKeep (incoming (.read m pa n tag)) = true ↔
      l.origin.core = m.core ∧ l.origin.engine = m.engine ∧ l.tag ≠ tag ∧
        (m.fenced = true ∨ ∃ i j, i < l.len ∧ j < n ∧ (b + i) / 128 = (pa + j) / 128)) ∧
    (s.mustKeep (incoming (.write m pa bs rel tag)) = true ↔
      l.origin.core = m.core ∧ l.origin.engine = m.engine ∧ l.tag ≠ tag ∧
        (rel ≠ none ∨ m.fenced = true ∨ ∃ i j, i < l.len ∧ j < bs.length ∧ (b + i) / 128 = (pa + j) / 128)) ∧
    (∀ op z x y, s.mustKeep (incoming (.atomic m op z pa x y rel tag)) = true ↔
      l.origin.core = m.core ∧ l.origin.engine = m.engine ∧ l.tag ≠ tag) ∧
    (∀ fs, (s.mustKeep (incoming (.freeze m tag fs)) = true ↔
        l.origin.core = m.core ∧ l.origin.engine = m.engine ∧ l.tag ≠ tag) ∧
      (s.mustKeep (incoming (.sweep m tag fs)) = true ↔
        l.origin.core = m.core ∧ l.origin.engine = m.engine ∧ l.tag ≠ tag)) ∧
    ∀ k cell, s.mustKeep (incoming (.arrival k cell)) = true ↔
      l.origin.core = k.origin.core ∧ l.origin.engine = k.origin.engine ∧ l.tag ≠ k.tag) ∧
  (∀ (s : State) (m : Origin) (op : AOp) (n : Size3) (pa tag : Nat) (bs : List Byte) (es : List (Option Byte))
      (x y : BitVec 128) (rel : Option Scope) (k : PairedGang) (cell : Fin 96) (fs : List Nat), s.linkReady = true →
    (∀ f ∈ fs, memType (f * 0x8000) = .peer) → inLine pa bs.length = true → es.length = bs.length → pa % size3Bytes n = 0 → inLine pa (size3Bytes n) = true →
    ∀ p ∈ [(Instr.read m pa bs.length tag, LinkTransaction.read m pa bs.length tag),
        (.write m pa es rel tag, .write m pa es rel tag), (.atomic m op n pa x y rel tag, .atomic m op n pa x y rel tag),
        (.copyWrite m (.home pa) bs tag, .copyWrite m (.home pa) bs tag), (.barrierArrival k cell, .arrival k cell),
        (.freezeEvent (.peer m tag fs), .freeze m tag fs), (.thawSweep (.peer m tag) fs, .sweep m tag fs)],
      (s.mustKeep (incoming p.2) = true → Becomes p.1 s (fun t => SameBytes s t ∧ t.link.answers = s.link.answers ∧
        t.link.kept = s.link.kept ++ [p.2])) ∧
      (s.nextKept = some p.2 → takeKept s = exec p.1 (s.unkeep p.2))) ∧
  (∀ (s : State) (m : Origin) (pa n tag : Nat), s.mustKeep (incoming (.read m pa n tag)) = false →
    (s.homeGrants m.master pa n .read → s.badLine pa n = none → Becomes (.read m pa n tag) s (fun t =>
      t.link.answers = s.link.answers ++ [.bytes ⟨m, tag⟩ (s.readPhys pa n)] ∧ SameBytes s t)) ∧
    (s.linkReady = true → inLine pa n = true → s.granted m.master pa .read = false → Becomes (.read m pa n tag) s (fun t =>
      t.link.answers = s.link.answers ++ [.denied ⟨m, tag⟩] ∧ t.logsDenial m.master pa ∧ SameBytes s t))) ∧
  (∀ (s : State) (m : Origin) (pa : Nat) (bs : List (Option Byte)) (rel : Option Scope) (tag : Nat),
    s.homeGrants m.master pa bs.length .write → s.mustKeep (incoming (.write m pa bs rel tag)) = false →
    (s.homePasses pa → Becomes (.write m pa bs rel tag) s (fun t =>
      (∀ j b, bs[j]? = some (some b) → t.byteAt (pa + j) = b) ∧
      (∀ a, (∀ j b, bs[j]? = some (some b) → a ≠ pa + j) → t.byteAt a = s.byteAt a) ∧
      (∀ c off, t.storeByte c off = s.storeByte c off) ∧ t.link.answers = s.link.answers ++ [.ack ⟨m, tag⟩])) ∧
    (s.peerOwed pa < (s.attrAt pa).fcount → (∃ b, some b ∈ bs) → Becomes (.write m pa bs rel tag) s (fun t => SameBytes s t ∧
      t.link.answers = s.link.answers ++ [.denied ⟨m, tag⟩]))) ∧
  (∀ (s : State) (m : Origin) (n : Size3) (pa : Nat) (x y : BitVec 128) (rel : Option Scope) (tag : Nat),
    s.homeGrants m.master pa (size3Bytes n) .read → s.granted m.master pa .write = true →
    s.badLine pa (size3Bytes n) = none → pa % size3Bytes n = 0 →
    (∀ op, s.mustKeep (incoming (.atomic m op n pa x y rel tag)) = false) →
    (s.homePasses pa → ∀ op, (op = .fadd → n = .w) →
      (∀ v, linkAtomicValue (8 * size3Bytes n) op (BitVec.ofNat _ (leNat (s.readPhys pa (size3Bytes n)))) (x.setWidth _)
          (y.setWidth _) = some v →
        Becomes (.atomic m op n pa x y rel tag) s (fun t => Stored s t pa (natLe (size3Bytes n) v.toNat) ∧
          t.link.answers =
            s.link.answers ++ [.old ⟨m, tag⟩ (BitVec.ofNat 128 (leNat (s.readPhys pa (size3Bytes n))))])) ∧
      (linkAtomicValue (8 * size3Bytes n) op (BitVec.ofNat _ (leNat (s.readPhys pa (size3Bytes n)))) (x.setWidth _)
          (y.setWidth _) = none →
        Becomes (.atomic m op n pa x y rel tag) s (fun t => SameBytes s t ∧
          t.link.answers =
            s.link.answers ++ [.old ⟨m, tag⟩ (BitVec.ofNat 128 (leNat (s.readPhys pa (size3Bytes n))))]))) ∧
    ((s.attrAt pa).fcount ≤ s.peerOwed pa → (s.attrAt pa).sweep = true → ∀ op, Becomes (.atomic m op n pa x y rel tag) s (fun t =>
      SameBytes s t ∧ t.link.answers = s.link.answers ∧ t.mem.waiting.length = s.mem.waiting.length + 1)) ∧
    (s.peerOwed pa < (s.attrAt pa).fcount → ∀ op, Becomes (.atomic m op n pa x y rel tag) s (fun t => SameBytes s t ∧
      t.link.answers = s.link.answers ++ [.denied ⟨m, tag⟩]))) ∧
  (∀ (s : State) (m : Origin) (k : GangKey) (p off : Nat) (bs : List Byte) (tag : Nat) (c : CoreId),
    s.linkReady = true → bs.length ≤ 256 → s.peerAt k p = .core c → off + bs.length ≤ 0xA_0000 →
    s.mustKeep (incoming (.copyWrite m (.store k p off) bs tag)) = false →
    (s.retired k = true → Becomes (.copyWrite m (.store k p off) bs tag) s (fun t => SameBytes s t ∧
      t.link.answers = s.link.answers ++ [.denied ⟨m, tag⟩])) ∧
    (s.retired k = false → Becomes (.copyWrite m (.store k p off) bs tag) s (fun t =>
      (∀ j, j < bs.length → t.storeByte c (off + j) = bs.getD j 0) ∧ (t.core c).allFull off bs.length = true ∧
      t.link.answers = s.link.answers ++ [.ack ⟨m, tag⟩] ∧ (∀ a, t.byteAt a = s.byteAt a) ∧
      ∀ d j, d ≠ c ∨ j < off ∨ off + bs.length ≤ j → t.storeByte d j = s.storeByte d j))) ∧
  (∀ (s : State) (m : Origin) (pa : Nat) (bs : List Byte) (tag : Nat),
    s.homeGrants m.master pa bs.length .write → s.homePasses pa →
    s.mustKeep (incoming (.copyWrite m (.home pa) bs tag)) = false →
    Becomes (.copyWrite m (.home pa) bs tag) s (fun t => Stored s t pa bs ∧
      t.link.answers = s.link.answers ++ [.ack ⟨m, tag⟩])) ∧
  (∀ (s : State) (m : Origin) (k : GangKey) (p off : Nat) (bf16 lossy : Bool) (es : List (BitVec 32)) (tag : Nat)
    (c : CoreId) (n : Nat), n = (if bf16 then 2 else 4) →
    s.linkReady = true → s.peerAt k p = .core c → s.retired k = false → off % n = 0 → off + n * es.length ≤ 0xA_0000 →
    s.mustKeep (incoming (.reduceWrite m (.store k p off) bf16 lossy es tag)) = false →
    Becomes (.reduceWrite m (.store k p off) bf16 lossy es tag) s (fun t =>
      (∀ j, j < es.length → leNat ((t.core c).readLocal (off + n * j) n) =
        reducedElement bf16 lossy (leNat ((s.core c).readLocal (off + n * j) n)) (es.getD j 0) % 2 ^ (8 * n)) ∧
      t.link.answers = s.link.answers ++ [.ack ⟨m, tag⟩] ∧ (∀ a, t.byteAt a = s.byteAt a) ∧
      ∀ d j, d ≠ c ∨ j < off ∨ off + n * es.length ≤ j → t.storeByte d j = s.storeByte d j)) ∧
  (∀ (s : State) (m : Origin) (pa : Nat) (bf16 lossy : Bool) (es : List (BitVec 32)) (tag n : Nat),
    n = (if bf16 then 2 else 4) → pa % n = 0 → s.homeGrants m.master pa (n * es.length) .write →
    s.granted m.master pa .read = true → s.homePasses pa →
    s.mustKeep (incoming (.reduceWrite m (.home pa) bf16 lossy es tag)) = false →
    Becomes (.reduceWrite m (.home pa) bf16 lossy es tag) s (fun t =>
      (∀ j, j < es.length → leNat (t.mem.cells.read (pa + n * j) n) =
        reducedElement bf16 lossy (leNat (s.mem.cells.read (pa + n * j) n)) (es.getD j 0) % 2 ^ (8 * n)) ∧
      t.link.answers = s.link.answers ++ [.ack ⟨m, tag⟩] ∧
      (∀ a, a < pa ∨ pa + n * es.length ≤ a → t.byteAt a = s.byteAt a) ∧
      ∀ d j, t.storeByte d j = s.storeByte d j)) ∧
  (∀ (s : State) (id : LinkId) (pa : Nat) (bs : List Byte), s.link.state = .up → memType pa = .peer →
    memType (pa + bs.length) = .peer → bs.length ≤ 128 →
    Becomes (.readResponse ⟨id, pa⟩ bs) s (fun t => Stored s t pa bs)) ∧
  (∀ (s : State) (id : LinkId) (pa : Nat) (n : Size3) (old : BitVec 128), s.link.state = .up → memType pa = .peer →
    memType (pa + size3Bytes n) = .peer →
    Becomes (.atomicResponse ⟨id, pa⟩ n old) s (fun t => Stored s t pa (natLe (size3Bytes n) old.toNat))) ∧
  (∀ (s : State) (m : Origin) (u : Sent), s.link.unacked = [u] →
    (s.sched.outbox = [] → Becomes (.writeAcknowledgement ⟨m, u.tag⟩) s (fun t => t.link.unacked = [] ∧
      Stored s t u.pa u.bytes ∧ ∀ v, u.notify = some v → v ∈ t.vectors)) ∧
    ∀ (w : HomeWrite) (x : Master), s.sched.outbox = [w] → w.master = some x → (s.attrAt w.pa).fcount = 0 →
      (∀ v ∈ s.mem.waiting, v.ack.isSome = true) →
      (memType w.pa = .peer → s.linkCarries = true →
        Becomes (.writeAcknowledgement ⟨m, u.tag⟩) s (fun t => t.sched.outbox = [] ∧ Stored s t u.pa u.bytes ∧
          (s.unreachable x.ctx = false →
            ∃ y, t.link.unacked = [y] ∧ y.who = none ∧ y.pa = w.pa ∧ y.bytes = w.bytes ∧ y.notify = w.notify) ∧
          (s.unreachable x.ctx = true → t.link.unacked = [] ∧ ∀ v, w.notify = some v → v ∈ t.vectors))) ∧
      (memType w.pa ≠ .peer → (s.attrAt w.pa).sweep = false →
        Becomes (.writeAcknowledgement ⟨m, u.tag⟩) s (fun t => t.sched.outbox = [] ∧ t.link.unacked = [] ∧
          ∀ j, j < w.bytes.length → t.byteAt (w.pa + j) = w.bytes.getD j 0))) ∧
  (∀ (s : State) (m : Origin) (a : Arrival) (ans : PhaseAnswer), s.link.arrivals = [a] → a.answer = none →
    exec (.phaseResponse ⟨m, a.tag⟩ ans) s = .next { s with link := { s.link with
      arrivals := [{ a with answer := some ans }] } }) ∧
  (∀ (s : State) (k : PairedGang) (cell : Fin 96), s.linkReady = true → s.mustKeep (incoming (.arrival k cell)) = false →
    (s.pairedGang k = none → Becomes (.barrierArrival k cell) s (fun t =>
      t.link.answers = s.link.answers ++ [.phase ⟨k.origin, k.tag⟩ .absent] ∧ SameBytes s t)) ∧
    ∀ (g : Gang) (p : Place), s.pairedGang k = some g → g.peers[cell.val % g.peers.length]? = some p →
      s.killPending g.key = false →
      ((s.cellAt p cell.val).expect = 0 → Becomes (.barrierArrival k cell) s (fun t =>
        t.link.answers = s.link.answers ++ [.phase ⟨k.origin, k.tag⟩ .uninitialised] ∧ SameBytes s t)) ∧
      ((s.cellAt p cell.val).expect ≠ 0 → Becomes (.barrierArrival k cell) s (fun t =>
        t.cores = (s.setCellAt p cell.val (arrivedCell (s.cellAt p cell.val))).cores ∧
        t.mem = (s.setCellAt p cell.val (arrivedCell (s.cellAt p cell.val))).mem ∧
        t.link.answers = s.link.answers ++ [.phase ⟨k.origin, k.tag⟩ (.phase (s.cellAt p cell.val).phase)])))

/-! The management processor (R142, R367 to R379). -/

/-- `loadChunk`, `boot`, `getNonce`, `debugUnlock`, `readLog`, `readThermal`, `setPowercap`, `config`: each mailbox command,
in a state that takes it, ends with its result and its effect; CONFIG applies its entries in order where every one passes
its checks and none takes a quire or a frame from a partition with an enabled queue, and each kind of entry changes what
R369 says and nothing else. `getVersion`, `getCapabilities`, `negotiateAlgorithms`, `getDigests`, `getCertificate`,
`getMeasurements`, `challenge`: a request is answered. `transitionFuseBlown`: a fuse blows for good. `reset` keeps fuses and
the contents of memory. BOOT measures the boot ROM, the bundle and the lifecycle state into MEAS0 to MEAS2, sets CR.SVEC and
CR.SDELEG and ranks the cores by the first temperatures; a debug unlock is measured into MEAS2 (R372, R374, R377). The
model's own choices in it: log entries 2 (the cores after a reset), 13 (what an L2 set holds), 16, 17, 52, 56 to 62 and 67.
-/
def Obligations.Management : Prop :=
  (∀ s : State, s.commanded 1 → s.mgmt.state ≠ .running →
    (s.mgmt.arg1.toNat ≤ 65280 → s.mgmt.arg0.toNat + s.mgmt.arg1.toNat ≤ 0x300_0000 →
      Becomes .loadChunk s (fun t => t.answered 0 ∧ SameBytes s t ∧
        (∀ j, j < s.mgmt.arg1.toNat →
          Memory.byte t.mgmt.staging (s.mgmt.arg0.toNat + j) = Memory.byte s.mgmt.window j) ∧
        ∀ a, a < s.mgmt.arg0.toNat ∨ s.mgmt.arg0.toNat + s.mgmt.arg1.toNat ≤ a →
          Memory.byte t.mgmt.staging a = Memory.byte s.mgmt.staging a)) ∧
    (65280 < s.mgmt.arg1.toNat ∨ 0x300_0000 < s.mgmt.arg0.toNat + s.mgmt.arg1.toNat →
      Becomes .loadChunk s (fun t => t.answered 1 ∧ t.mgmt.staging = s.mgmt.staging))) ∧
  (∀ s : State, s.commanded 2 → s.mgmt.state ≠ .running →
    Becomes .boot s (fun t =>
      (s.mgmt.checkBundle = 0 → t.answered 0 ∧ t.mgmt.state = .running ∧
        (∀ j, j < imageLength s.mgmt.staging →
          t.byteAt (0x7F_FA00_0000 + j) = Memory.byte s.mgmt.staging (512 + j)) ∧
        (∀ q, (t.queueAt q).enable = false) ∧ (∀ f, t.frame f = ⟨false, 0, false, false, false, false⟩) ∧
        (∀ c, (t.core c).main.sdeleg = 0x3F_FFF6 ∧ (t.core c).err.sdeleg = 0x3F_FFF6 ∧
          (t.core c).main.svec = Config.runtimeEntry &&& 0x000F_FFFF_FFFF_FFFE ∧
          (t.core c).err.svec = Config.runtimeEntry &&& 0x000F_FFFF_FFFF_FFFE) ∧
        t.measures s 0 (digestBytes Config.bootRomDigest) ∧ t.measures s 1 (digestBytes (sha512 (signedBytes s.mgmt.staging))) ∧
        t.measures s 2 (Config.codeBytes s.mgmt.lifecycle) ∧ t.mgmt.meas[(3 : Fin 4)] = s.mgmt.meas[(3 : Fin 4)] ∧
        ∀ c d : CoreId, ((t.mgmt.thermal[c]).setWidth 16).slt ((t.mgmt.thermal[d]).setWidth 16) = true ∨
          (t.mgmt.thermal[c]).setWidth 16 = (t.mgmt.thermal[d]).setWidth 16 ∧ c < d → t.rank c < t.rank d) ∧
      (s.mgmt.checkBundle ≠ 0 → t.answered s.mgmt.checkBundle ∧ t.mgmt.state = .bootFail ∧ SameBytes s t))) ∧
  (∀ s : State, s.commanded 3 → s.mgmt.state = .running →
    Becomes .getNonce s (fun t => t.answered 0 ∧ t.mgmt.nonce = some t.mgmt.arg1 ∧ SameBytes s t)) ∧
  (∀ (s : State) (id nonce : Word) (ids nonces : List Byte) (code : BitVec 4) (key sig : List Byte),
    s.commanded 4 → s.mgmt.state = .running → s.mgmt.unlocking = none →
    Config.tokenFields (s.mgmt.window.read 0 65280) = (ids, code, nonces, key, sig) →
    id = BitVec.ofNat 64 (leNat (ids.take 8)) → nonce = BitVec.ofNat 64 (leNat (nonces.take 8)) →
    (s.mgmt.lifecycle ≠ 2 → Becomes .debugUnlock s (fun t => t.answered 5 ∧ t.mgmt.unlocked = s.mgmt.unlocked ∧
      t.mgmt.nonce = s.mgmt.nonce ∧ SameBytes s t)) ∧
    (s.mgmt.lifecycle = 2 →
      (id ≠ Config.deviceId ∨ code ≠ 2 ∨ s.mgmt.nonce ≠ some nonce →
        Becomes .debugUnlock s (fun t => t.answered 1 ∧ t.mgmt.unlocked = s.mgmt.unlocked ∧ SameBytes s t)) ∧
      (id = Config.deviceId → code = 2 → s.mgmt.nonce = some nonce →
        ((sha512 key ≠ s.mgmt.debugKeyHash ∨ ecdsaVerify key (sha512 (Config.tokenMessage id code nonce)) sig = false) →
          Becomes .debugUnlock s (fun t => t.answered 2 ∧ t.mgmt.nonce = none ∧ t.mgmt.unlocked = s.mgmt.unlocked)) ∧
        (sha512 key = s.mgmt.debugKeyHash → ecdsaVerify key (sha512 (Config.tokenMessage id code nonce)) sig = true →
          (s.mgmt.debugDisable = true →
            Becomes .debugUnlock s (fun t => t.answered 5 ∧ t.mgmt.nonce = none ∧ t.mgmt.unlocked = s.mgmt.unlocked)) ∧
          (s.mgmt.debugDisable = false → s.unlockReady = true →
            Becomes .debugUnlock s (fun t => s.unlockedBy t ∧ t.mgmt.nonce = none ∧
              t.measures s 2 (Config.unlockBytes id nonce))) ∧
          (s.mgmt.debugDisable = false → s.unlockReady = false →
            Becomes .debugUnlock s (fun t => t.mgmt.go = true ∧ t.mgmt.unlocked = s.mgmt.unlocked ∧
              t.mgmt.nonce = none ∧ t.mgmt.unlocking = some (id, nonce) ∧ Move.event .debugUnlock ∈ t.agenda)))))) ∧
  (∀ (s : State) (id nonce : Word), s.commanded 4 → s.mgmt.state = .running → s.mgmt.unlocking = some (id, nonce) →
    (s.unlockReady = true → Becomes .debugUnlock s (fun t => s.unlockedBy t ∧ t.mgmt.unlocking = none ∧
      t.measures s 2 (Config.unlockBytes id nonce))) ∧
    (s.unlockReady = false → Becomes .debugUnlock s (fun t => t.mgmt.go = true ∧ t.mgmt.unlocked = s.mgmt.unlocked ∧
      t.mgmt.unlocking = some (id, nonce) ∧ Move.event .debugUnlock ∈ t.agenda))) ∧
  (∀ s : State, s.commanded 5 → s.mgmt.state = .running →
    (s.mgmt.arg0 = 0xFFFF_FFFF → Becomes .readLog s (fun t => t.answered 0 ∧ t.mgmt.arg1 = 5 ∧
      ∀ j, j < 40 → Memory.byte t.mgmt.window j = (wordsLe s.mgmt.counters.words).getD j 0)) ∧
    (s.mgmt.arg0 ≠ 0xFFFF_FFFF → Becomes .readLog s (fun t => t.answered 0 ∧
      t.mgmt.arg1 = BitVec.ofNat 64 (s.mgmt.logFrom s.mgmt.arg0.toNat).length ∧
      ∀ j, j < 32 * (s.mgmt.logFrom s.mgmt.arg0.toNat).length → Memory.byte t.mgmt.window j =
        ((s.mgmt.logFrom s.mgmt.arg0.toNat).flatMap recordBytes).getD j 0))) ∧
  (∀ s : State, s.commanded 6 → s.mgmt.state = .running →
    Becomes .readThermal s (fun t => t.answered 0 ∧ ∀ (c : CoreId) (j : Nat), j < 4 →
      Memory.byte t.mgmt.window (4 * c.val + j) = (natLe 4 (s.mgmt.thermal[c]).toNat).getD j 0)) ∧
  (∀ s : State, s.commanded 7 → s.mgmt.state = .running →
    (400 ≤ s.mgmt.arg0.toNat → s.mgmt.arg0.toNat ≤ 950 →
      Becomes .setPowercap s (fun t => t.answered 0 ∧ t.mgmt.powerCap = s.mgmt.arg0.toNat)) ∧
    (s.mgmt.arg0.toNat < 400 ∨ 950 < s.mgmt.arg0.toNat →
      Becomes .setPowercap s (fun t => t.answered 1 ∧ t.mgmt.powerCap = s.mgmt.powerCap))) ∧
  (∀ (s : State) (es : List ConfEntry), s.commanded 8 → s.mgmt.state = .running → es = s.confEntries →
    (s.mgmt.confHeader = false → Becomes .config s (fun t => t.answered 1 ∧ t.mgmt.arg1 = 0xFFFF ∧ t.conf = s.conf ∧
      SameBytes s t)) ∧
    (s.mgmt.confHeader = true →
      (∀ i, (s.confCheck es).firstFailing s.conf 0 es = some i →
        Becomes .config s (fun t => t.answered 1 ∧ t.mgmt.arg1 = BitVec.ofNat 64 i ∧ t.conf = s.conf ∧ SameBytes s t)) ∧
      ((s.confCheck es).firstFailing s.conf 0 es = none →
        ((s.confCheck es).takesAny s.conf es = true →
          Becomes .config s (fun t => t.answered 6 ∧ t.conf = s.conf ∧ SameBytes s t)) ∧
        ((s.confCheck es).takesAny s.conf es = false →
          Becomes .config s (fun t => t.answered 0 ∧ t.conf = es.foldl Conf.apply s.conf ∧ SameBytes s t ∧
            t.mgmt.meas[3] = sha512 (digestBytes s.mgmt.meas[3] ++ s.mgmt.window.read 0 0x40 ++ es.flatMap measuredEntry) ∧
            ∀ i : Fin 4, i ≠ 3 → t.mgmt.meas[i] = s.mgmt.meas[i]))))) ∧
  (∀ (c d : Conf) (e : ConfEntry) (part : BitVec 3) (ctx : BitVec 12) (frames : Nat × Nat), d = c.apply e →
    part = e[0].extractLsb' 0 3 → ctx = e[0].extractLsb' 16 12 → frames = (e[1].toNat % 2 ^ 24, e[2].toNat % 2 ^ 24) →
    (e[0].toNat / 2 ^ 56 = 1 → { d with quires := c.quires } = c ∧
      ∀ p : Fin 8, d.quires[p] = if p.val = part.toNat then e[1].setWidth 32 else c.quires[p]) ∧
    (e[0].toNat / 2 ^ 56 = 2 → { d with frames := c.frames } = c ∧
      ∀ x, x ∈ d.frames ↔ x ∈ c.frames ∨ x = (part, frames)) ∧
    (e[0].toNat / 2 ^ 56 = 3 → { d with access := c.access } = c ∧
      ∀ n i v w, ((n, i), v, w) ∈ d.access ↔
        ((n, i), v, w) ∈ c.access ∧ (n ≠ e[0].toNat / 2 ^ 8 % 2 ^ 8 ∨ i ≠ e[0].toNat % 2 ^ 6) ∨
        n = e[0].toNat / 2 ^ 8 % 2 ^ 8 ∧ i = e[0].toNat % 2 ^ 6 ∧ v = e[1] &&& 0xFFFF_F01F_FFFF_FFFF ∧
          w = e[2] &&& 0x1F_FFFF_FFFF ∧ ¬(v = 0 ∧ w = 0)) ∧
    (e[0].toNat / 2 ^ 56 = 4 → d = { c with hostMaster := e[1] &&& 0xFFFF_0000_0000_0000 }) ∧
    (e[0].toNat / 2 ^ 56 = 5 → e[0].getLsbD 33 = false → { d with contexts := c.contexts } = c ∧
      ∀ b, b ∈ d.contexts ↔ b ∈ c.contexts ∧ b.ctx ≠ ctx ∨
        b = ⟨ctx, part, e[1] &&& 0x000F_FFFF_FFFF_FE00, e[0].getLsbD 32⟩) ∧
    (e[0].toNat / 2 ^ 56 = 5 → e[0].getLsbD 33 = true →
      { d with contexts := c.contexts, keys := c.keys, demand := c.demand, given := c.given } = c ∧
      (∀ b, b ∈ d.contexts ↔ b ∈ c.contexts ∧ b.ctx ≠ ctx) ∧ (∀ k, k ∈ d.keys ↔ k ∈ c.keys ∧ k.1 ≠ ctx) ∧
      (∀ x, x ∈ d.demand ↔ x ∈ c.demand ∧ x.1 ≠ ctx) ∧ ∀ x, x ∈ d.given ↔ x ∈ c.given ∧ x.1 ≠ ctx) ∧
    (e[0].toNat / 2 ^ 56 = 6 → { d with keys := c.keys } = c ∧
      ∀ k v, (k, v) ∈ d.keys ↔ (k, v) ∈ c.keys ∧ k ≠ ctx ∨ k = ctx ∧ v = e[4] ++ e[3] ++ e[2] ++ e[1] ∧ v ≠ 0) ∧
    (e[0].toNat / 2 ^ 56 = 7 → { d with demand := c.demand } = c ∧
      (e[2] = 0 → ∀ x, x ∈ d.demand ↔ x ∈ c.demand ∧ x.1 ≠ ctx) ∧
      (e[2] ≠ 0 → d.demand = c.demand ++ [(ctx, e[1].toNat, e[2].toNat)])) ∧
    (e[0].toNat / 2 ^ 56 = 8 → { d with pools := c.pools } = c ∧ d.pools = c.pools ++ [(part, frames)]) ∧
    (e[0].toNat / 2 ^ 56 = 9 → d = { c with relief := e[1].toNat % 2 ^ 8 })) ∧
  (∀ s : State, ∀ p ∈ [(Instr.getVersion, Spdm.version), (.getCapabilities, .capabilities),
      (.negotiateAlgorithms, .algorithms), (.getDigests, .digests (sha512 Config.certChain)),
      (.getCertificate, .certificate Config.certChain), (.getMeasurements, .measurements s.mgmt.meas s.mgmt.lifecycle)],
    exec p.1 s = .next { s with mgmt := { s.mgmt with spdm := some p.2 } }) ∧
  (∀ (s : State) (nonce : BitVec 256),
    (s.mgmt.lifecycle = 4 → Becomes (.challenge nonce) s (fun t => t.mgmt.spdm = some .error)) ∧
    (s.mgmt.lifecycle ≠ 4 → Becomes (.challenge nonce) s (fun t => ∃ sig, t.mgmt.spdm = some (.challengeAuth nonce sig) ∧
      sig = Config.identitySign (natLe 32 nonce.toNat ++ s.mgmt.meas.toList.flatMap digestBytes)))) ∧
  (∀ s : State, Becomes (.transitionFuseBlown .deploy) s (fun t => t.mgmt.deployed = true ∧ SameBytes s t) ∧
    Becomes (.transitionFuseBlown .return_) s (fun t => t.mgmt.returned = true ∧
      t.mgmt.lifecycle = (if s.mgmt.unlocked then 3 else 4) ∧ SameBytes s t)) ∧
  (∀ s : State, Becomes .reset s (fun t => (∀ a, t.byteAt a = s.byteAt a) ∧ t.clock = s.clock ∧
    t.mgmt.state = .awaitBundle ∧ t.mgmt.deployed = s.mgmt.deployed ∧ t.mgmt.returned = s.mgmt.returned ∧
    t.mgmt.unlocked = false ∧
    t.mgmt.revoked = s.mgmt.revoked ∧ t.conf = State.reset.conf ∧ t.sched = State.reset.sched ∧ t.cg = 0 ∧
    (∀ f, t.frame f = ⟨false, 0, false, false, false, false⟩) ∧ ∀ c, t.core c = Core.reset))
end

