-- ==== Sys2Proof/Laws/State.lean ====
section
/-! SUPPORT. What each update of the state, of a core and of a strand leaves as it was: one lemma per field. -/

namespace Sys2Proof.Machine

/-! `State.setCore`. -/

@[simp] theorem State.setCore_mem (s : State) (c : CoreId) (k : Core) : (s.setCore c k).mem = s.mem := rfl
@[simp] theorem State.setCore_frz (s : State) (c : CoreId) (k : Core) : (s.setCore c k).frz = s.frz := rfl
@[simp] theorem State.setCore_posts (s : State) (c : CoreId) (k : Core) : (s.setCore c k).posts = s.posts := rfl
@[simp] theorem State.setCore_replies (s : State) (c : CoreId) (k : Core) : (s.setCore c k).replies = s.replies := rfl
@[simp] theorem State.setCore_conf (s : State) (c : CoreId) (k : Core) : (s.setCore c k).conf = s.conf := rfl
@[simp] theorem State.setCore_sched (s : State) (c : CoreId) (k : Core) : (s.setCore c k).sched = s.sched := rfl
@[simp] theorem State.setCore_mgmt (s : State) (c : CoreId) (k : Core) : (s.setCore c k).mgmt = s.mgmt := rfl
@[simp] theorem State.setCore_link (s : State) (c : CoreId) (k : Core) : (s.setCore c k).link = s.link := rfl
@[simp] theorem State.setCore_vectors (s : State) (c : CoreId) (k : Core) : (s.setCore c k).vectors = s.vectors := rfl
@[simp] theorem State.setCore_msix (s : State) (c : CoreId) (k : Core) : (s.setCore c k).msix = s.msix := rfl
@[simp] theorem State.setCore_pba (s : State) (c : CoreId) (k : Core) : (s.setCore c k).pba = s.pba := rfl
@[simp] theorem State.setCore_hostReads (s : State) (c : CoreId) (k : Core) : (s.setCore c k).hostReads = s.hostReads := rfl
@[simp] theorem State.setCore_port (s : State) (c : CoreId) (k : Core) : (s.setCore c k).port = s.port := rfl
@[simp] theorem State.setCore_cg (s : State) (c : CoreId) (k : Core) : (s.setCore c k).cg = s.cg := rfl
@[simp] theorem State.setCore_cgHeld (s : State) (c : CoreId) (k : Core) : (s.setCore c k).cgHeld = s.cgHeld := rfl
@[simp] theorem State.setCore_clock (s : State) (c : CoreId) (k : Core) : (s.setCore c k).clock = s.clock := rfl
@[simp] theorem State.setCore_agenda (s : State) (c : CoreId) (k : Core) : (s.setCore c k).agenda = s.agenda := rfl
@[simp] theorem State.setCore_cur (s : State) (c : CoreId) (k : Core) : (s.setCore c k).cur = s.cur := rfl
@[simp] theorem State.setCore_ticks (s : State) (c : CoreId) (k : Core) : (s.setCore c k).ticks = s.ticks := rfl

/-! `State.mapCore`. -/

@[simp] theorem State.mapCore_mem (s : State) (c : CoreId) (f : Core → Core) : (s.mapCore c f).mem = s.mem := rfl
@[simp] theorem State.mapCore_frz (s : State) (c : CoreId) (f : Core → Core) : (s.mapCore c f).frz = s.frz := rfl
@[simp] theorem State.mapCore_posts (s : State) (c : CoreId) (f : Core → Core) : (s.mapCore c f).posts = s.posts := rfl
@[simp] theorem State.mapCore_replies (s : State) (c : CoreId) (f : Core → Core) : (s.mapCore c f).replies = s.replies := rfl
@[simp] theorem State.mapCore_conf (s : State) (c : CoreId) (f : Core → Core) : (s.mapCore c f).conf = s.conf := rfl
@[simp] theorem State.mapCore_sched (s : State) (c : CoreId) (f : Core → Core) : (s.mapCore c f).sched = s.sched := rfl
@[simp] theorem State.mapCore_mgmt (s : State) (c : CoreId) (f : Core → Core) : (s.mapCore c f).mgmt = s.mgmt := rfl
@[simp] theorem State.mapCore_link (s : State) (c : CoreId) (f : Core → Core) : (s.mapCore c f).link = s.link := rfl
@[simp] theorem State.mapCore_vectors (s : State) (c : CoreId) (f : Core → Core) : (s.mapCore c f).vectors = s.vectors := rfl
@[simp] theorem State.mapCore_msix (s : State) (c : CoreId) (f : Core → Core) : (s.mapCore c f).msix = s.msix := rfl
@[simp] theorem State.mapCore_pba (s : State) (c : CoreId) (f : Core → Core) : (s.mapCore c f).pba = s.pba := rfl
@[simp] theorem State.mapCore_hostReads (s : State) (c : CoreId) (f : Core → Core) : (s.mapCore c f).hostReads = s.hostReads := rfl
@[simp] theorem State.mapCore_port (s : State) (c : CoreId) (f : Core → Core) : (s.mapCore c f).port = s.port := rfl
@[simp] theorem State.mapCore_cg (s : State) (c : CoreId) (f : Core → Core) : (s.mapCore c f).cg = s.cg := rfl
@[simp] theorem State.mapCore_cgHeld (s : State) (c : CoreId) (f : Core → Core) : (s.mapCore c f).cgHeld = s.cgHeld := rfl
@[simp] theorem State.mapCore_clock (s : State) (c : CoreId) (f : Core → Core) : (s.mapCore c f).clock = s.clock := rfl
@[simp] theorem State.mapCore_agenda (s : State) (c : CoreId) (f : Core → Core) : (s.mapCore c f).agenda = s.agenda := rfl
@[simp] theorem State.mapCore_cur (s : State) (c : CoreId) (f : Core → Core) : (s.mapCore c f).cur = s.cur := rfl
@[simp] theorem State.mapCore_ticks (s : State) (c : CoreId) (f : Core → Core) : (s.mapCore c f).ticks = s.ticks := rfl

/-! `State.setHere`. -/

@[simp] theorem State.setHere_mem (s : State) (k : Core) : (s.setHere k).mem = s.mem := rfl
@[simp] theorem State.setHere_frz (s : State) (k : Core) : (s.setHere k).frz = s.frz := rfl
@[simp] theorem State.setHere_posts (s : State) (k : Core) : (s.setHere k).posts = s.posts := rfl
@[simp] theorem State.setHere_replies (s : State) (k : Core) : (s.setHere k).replies = s.replies := rfl
@[simp] theorem State.setHere_conf (s : State) (k : Core) : (s.setHere k).conf = s.conf := rfl
@[simp] theorem State.setHere_sched (s : State) (k : Core) : (s.setHere k).sched = s.sched := rfl
@[simp] theorem State.setHere_mgmt (s : State) (k : Core) : (s.setHere k).mgmt = s.mgmt := rfl
@[simp] theorem State.setHere_link (s : State) (k : Core) : (s.setHere k).link = s.link := rfl
@[simp] theorem State.setHere_vectors (s : State) (k : Core) : (s.setHere k).vectors = s.vectors := rfl
@[simp] theorem State.setHere_msix (s : State) (k : Core) : (s.setHere k).msix = s.msix := rfl
@[simp] theorem State.setHere_pba (s : State) (k : Core) : (s.setHere k).pba = s.pba := rfl
@[simp] theorem State.setHere_hostReads (s : State) (k : Core) : (s.setHere k).hostReads = s.hostReads := rfl
@[simp] theorem State.setHere_port (s : State) (k : Core) : (s.setHere k).port = s.port := rfl
@[simp] theorem State.setHere_cg (s : State) (k : Core) : (s.setHere k).cg = s.cg := rfl
@[simp] theorem State.setHere_cgHeld (s : State) (k : Core) : (s.setHere k).cgHeld = s.cgHeld := rfl
@[simp] theorem State.setHere_clock (s : State) (k : Core) : (s.setHere k).clock = s.clock := rfl
@[simp] theorem State.setHere_agenda (s : State) (k : Core) : (s.setHere k).agenda = s.agenda := rfl
@[simp] theorem State.setHere_cur (s : State) (k : Core) : (s.setHere k).cur = s.cur := rfl
@[simp] theorem State.setHere_ticks (s : State) (k : Core) : (s.setHere k).ticks = s.ticks := rfl

/-! `State.setStrand`. -/

@[simp] theorem State.setStrand_mem (s : State) (w : Who) (x : Strand) : (s.setStrand w x).mem = s.mem := rfl
@[simp] theorem State.setStrand_frz (s : State) (w : Who) (x : Strand) : (s.setStrand w x).frz = s.frz := rfl
@[simp] theorem State.setStrand_posts (s : State) (w : Who) (x : Strand) : (s.setStrand w x).posts = s.posts := rfl
@[simp] theorem State.setStrand_replies (s : State) (w : Who) (x : Strand) : (s.setStrand w x).replies = s.replies := rfl
@[simp] theorem State.setStrand_conf (s : State) (w : Who) (x : Strand) : (s.setStrand w x).conf = s.conf := rfl
@[simp] theorem State.setStrand_sched (s : State) (w : Who) (x : Strand) : (s.setStrand w x).sched = s.sched := rfl
@[simp] theorem State.setStrand_mgmt (s : State) (w : Who) (x : Strand) : (s.setStrand w x).mgmt = s.mgmt := rfl
@[simp] theorem State.setStrand_link (s : State) (w : Who) (x : Strand) : (s.setStrand w x).link = s.link := rfl
@[simp] theorem State.setStrand_vectors (s : State) (w : Who) (x : Strand) : (s.setStrand w x).vectors = s.vectors := rfl
@[simp] theorem State.setStrand_msix (s : State) (w : Who) (x : Strand) : (s.setStrand w x).msix = s.msix := rfl
@[simp] theorem State.setStrand_pba (s : State) (w : Who) (x : Strand) : (s.setStrand w x).pba = s.pba := rfl
@[simp] theorem State.setStrand_hostReads (s : State) (w : Who) (x : Strand) : (s.setStrand w x).hostReads = s.hostReads := rfl
@[simp] theorem State.setStrand_port (s : State) (w : Who) (x : Strand) : (s.setStrand w x).port = s.port := rfl
@[simp] theorem State.setStrand_cg (s : State) (w : Who) (x : Strand) : (s.setStrand w x).cg = s.cg := rfl
@[simp] theorem State.setStrand_cgHeld (s : State) (w : Who) (x : Strand) : (s.setStrand w x).cgHeld = s.cgHeld := rfl
@[simp] theorem State.setStrand_clock (s : State) (w : Who) (x : Strand) : (s.setStrand w x).clock = s.clock := rfl
@[simp] theorem State.setStrand_agenda (s : State) (w : Who) (x : Strand) : (s.setStrand w x).agenda = s.agenda := rfl
@[simp] theorem State.setStrand_cur (s : State) (w : Who) (x : Strand) : (s.setStrand w x).cur = s.cur := rfl
@[simp] theorem State.setStrand_ticks (s : State) (w : Who) (x : Strand) : (s.setStrand w x).ticks = s.ticks := rfl

/-! `State.mapStrand`. -/

@[simp] theorem State.mapStrand_mem (s : State) (w : Who) (f : Strand → Strand) : (s.mapStrand w f).mem = s.mem := rfl
@[simp] theorem State.mapStrand_frz (s : State) (w : Who) (f : Strand → Strand) : (s.mapStrand w f).frz = s.frz := rfl
@[simp] theorem State.mapStrand_posts (s : State) (w : Who) (f : Strand → Strand) : (s.mapStrand w f).posts = s.posts := rfl
@[simp] theorem State.mapStrand_replies (s : State) (w : Who) (f : Strand → Strand) : (s.mapStrand w f).replies = s.replies := rfl
@[simp] theorem State.mapStrand_conf (s : State) (w : Who) (f : Strand → Strand) : (s.mapStrand w f).conf = s.conf := rfl
@[simp] theorem State.mapStrand_sched (s : State) (w : Who) (f : Strand → Strand) : (s.mapStrand w f).sched = s.sched := rfl
@[simp] theorem State.mapStrand_mgmt (s : State) (w : Who) (f : Strand → Strand) : (s.mapStrand w f).mgmt = s.mgmt := rfl
@[simp] theorem State.mapStrand_link (s : State) (w : Who) (f : Strand → Strand) : (s.mapStrand w f).link = s.link := rfl
@[simp] theorem State.mapStrand_vectors (s : State) (w : Who) (f : Strand → Strand) : (s.mapStrand w f).vectors = s.vectors := rfl
@[simp] theorem State.mapStrand_msix (s : State) (w : Who) (f : Strand → Strand) : (s.mapStrand w f).msix = s.msix := rfl
@[simp] theorem State.mapStrand_pba (s : State) (w : Who) (f : Strand → Strand) : (s.mapStrand w f).pba = s.pba := rfl
@[simp] theorem State.mapStrand_hostReads (s : State) (w : Who) (f : Strand → Strand) : (s.mapStrand w f).hostReads = s.hostReads := rfl
@[simp] theorem State.mapStrand_port (s : State) (w : Who) (f : Strand → Strand) : (s.mapStrand w f).port = s.port := rfl
@[simp] theorem State.mapStrand_cg (s : State) (w : Who) (f : Strand → Strand) : (s.mapStrand w f).cg = s.cg := rfl
@[simp] theorem State.mapStrand_cgHeld (s : State) (w : Who) (f : Strand → Strand) : (s.mapStrand w f).cgHeld = s.cgHeld := rfl
@[simp] theorem State.mapStrand_clock (s : State) (w : Who) (f : Strand → Strand) : (s.mapStrand w f).clock = s.clock := rfl
@[simp] theorem State.mapStrand_agenda (s : State) (w : Who) (f : Strand → Strand) : (s.mapStrand w f).agenda = s.agenda := rfl
@[simp] theorem State.mapStrand_cur (s : State) (w : Who) (f : Strand → Strand) : (s.mapStrand w f).cur = s.cur := rfl
@[simp] theorem State.mapStrand_ticks (s : State) (w : Who) (f : Strand → Strand) : (s.mapStrand w f).ticks = s.ticks := rfl

/-! `State.setMe`. -/

@[simp] theorem State.setMe_mem (s : State) (x : Strand) : (s.setMe x).mem = s.mem := rfl
@[simp] theorem State.setMe_frz (s : State) (x : Strand) : (s.setMe x).frz = s.frz := rfl
@[simp] theorem State.setMe_posts (s : State) (x : Strand) : (s.setMe x).posts = s.posts := rfl
@[simp] theorem State.setMe_replies (s : State) (x : Strand) : (s.setMe x).replies = s.replies := rfl
@[simp] theorem State.setMe_conf (s : State) (x : Strand) : (s.setMe x).conf = s.conf := rfl
@[simp] theorem State.setMe_sched (s : State) (x : Strand) : (s.setMe x).sched = s.sched := rfl
@[simp] theorem State.setMe_mgmt (s : State) (x : Strand) : (s.setMe x).mgmt = s.mgmt := rfl
@[simp] theorem State.setMe_link (s : State) (x : Strand) : (s.setMe x).link = s.link := rfl
@[simp] theorem State.setMe_vectors (s : State) (x : Strand) : (s.setMe x).vectors = s.vectors := rfl
@[simp] theorem State.setMe_msix (s : State) (x : Strand) : (s.setMe x).msix = s.msix := rfl
@[simp] theorem State.setMe_pba (s : State) (x : Strand) : (s.setMe x).pba = s.pba := rfl
@[simp] theorem State.setMe_hostReads (s : State) (x : Strand) : (s.setMe x).hostReads = s.hostReads := rfl
@[simp] theorem State.setMe_port (s : State) (x : Strand) : (s.setMe x).port = s.port := rfl
@[simp] theorem State.setMe_cg (s : State) (x : Strand) : (s.setMe x).cg = s.cg := rfl
@[simp] theorem State.setMe_cgHeld (s : State) (x : Strand) : (s.setMe x).cgHeld = s.cgHeld := rfl
@[simp] theorem State.setMe_clock (s : State) (x : Strand) : (s.setMe x).clock = s.clock := rfl
@[simp] theorem State.setMe_agenda (s : State) (x : Strand) : (s.setMe x).agenda = s.agenda := rfl
@[simp] theorem State.setMe_cur (s : State) (x : Strand) : (s.setMe x).cur = s.cur := rfl
@[simp] theorem State.setMe_ticks (s : State) (x : Strand) : (s.setMe x).ticks = s.ticks := rfl

/-! `State.setG`. -/

@[simp] theorem State.setG_mem (s : State) (r : GReg) (v : Word) : (s.setG r v).mem = s.mem := rfl
@[simp] theorem State.setG_frz (s : State) (r : GReg) (v : Word) : (s.setG r v).frz = s.frz := rfl
@[simp] theorem State.setG_posts (s : State) (r : GReg) (v : Word) : (s.setG r v).posts = s.posts := rfl
@[simp] theorem State.setG_replies (s : State) (r : GReg) (v : Word) : (s.setG r v).replies = s.replies := rfl
@[simp] theorem State.setG_conf (s : State) (r : GReg) (v : Word) : (s.setG r v).conf = s.conf := rfl
@[simp] theorem State.setG_sched (s : State) (r : GReg) (v : Word) : (s.setG r v).sched = s.sched := rfl
@[simp] theorem State.setG_mgmt (s : State) (r : GReg) (v : Word) : (s.setG r v).mgmt = s.mgmt := rfl
@[simp] theorem State.setG_link (s : State) (r : GReg) (v : Word) : (s.setG r v).link = s.link := rfl
@[simp] theorem State.setG_vectors (s : State) (r : GReg) (v : Word) : (s.setG r v).vectors = s.vectors := rfl
@[simp] theorem State.setG_msix (s : State) (r : GReg) (v : Word) : (s.setG r v).msix = s.msix := rfl
@[simp] theorem State.setG_pba (s : State) (r : GReg) (v : Word) : (s.setG r v).pba = s.pba := rfl
@[simp] theorem State.setG_hostReads (s : State) (r : GReg) (v : Word) : (s.setG r v).hostReads = s.hostReads := rfl
@[simp] theorem State.setG_port (s : State) (r : GReg) (v : Word) : (s.setG r v).port = s.port := rfl
@[simp] theorem State.setG_cg (s : State) (r : GReg) (v : Word) : (s.setG r v).cg = s.cg := rfl
@[simp] theorem State.setG_cgHeld (s : State) (r : GReg) (v : Word) : (s.setG r v).cgHeld = s.cgHeld := rfl
@[simp] theorem State.setG_clock (s : State) (r : GReg) (v : Word) : (s.setG r v).clock = s.clock := rfl
@[simp] theorem State.setG_agenda (s : State) (r : GReg) (v : Word) : (s.setG r v).agenda = s.agenda := rfl
@[simp] theorem State.setG_cur (s : State) (r : GReg) (v : Word) : (s.setG r v).cur = s.cur := rfl
@[simp] theorem State.setG_ticks (s : State) (r : GReg) (v : Word) : (s.setG r v).ticks = s.ticks := rfl

/-! `State.setF`. -/

@[simp] theorem State.setF_mem (s : State) (r : FReg) (v : Word) : (s.setF r v).mem = s.mem := rfl
@[simp] theorem State.setF_frz (s : State) (r : FReg) (v : Word) : (s.setF r v).frz = s.frz := rfl
@[simp] theorem State.setF_posts (s : State) (r : FReg) (v : Word) : (s.setF r v).posts = s.posts := rfl
@[simp] theorem State.setF_replies (s : State) (r : FReg) (v : Word) : (s.setF r v).replies = s.replies := rfl
@[simp] theorem State.setF_conf (s : State) (r : FReg) (v : Word) : (s.setF r v).conf = s.conf := rfl
@[simp] theorem State.setF_sched (s : State) (r : FReg) (v : Word) : (s.setF r v).sched = s.sched := rfl
@[simp] theorem State.setF_mgmt (s : State) (r : FReg) (v : Word) : (s.setF r v).mgmt = s.mgmt := rfl
@[simp] theorem State.setF_link (s : State) (r : FReg) (v : Word) : (s.setF r v).link = s.link := rfl
@[simp] theorem State.setF_vectors (s : State) (r : FReg) (v : Word) : (s.setF r v).vectors = s.vectors := rfl
@[simp] theorem State.setF_msix (s : State) (r : FReg) (v : Word) : (s.setF r v).msix = s.msix := rfl
@[simp] theorem State.setF_pba (s : State) (r : FReg) (v : Word) : (s.setF r v).pba = s.pba := rfl
@[simp] theorem State.setF_hostReads (s : State) (r : FReg) (v : Word) : (s.setF r v).hostReads = s.hostReads := rfl
@[simp] theorem State.setF_port (s : State) (r : FReg) (v : Word) : (s.setF r v).port = s.port := rfl
@[simp] theorem State.setF_cg (s : State) (r : FReg) (v : Word) : (s.setF r v).cg = s.cg := rfl
@[simp] theorem State.setF_cgHeld (s : State) (r : FReg) (v : Word) : (s.setF r v).cgHeld = s.cgHeld := rfl
@[simp] theorem State.setF_clock (s : State) (r : FReg) (v : Word) : (s.setF r v).clock = s.clock := rfl
@[simp] theorem State.setF_agenda (s : State) (r : FReg) (v : Word) : (s.setF r v).agenda = s.agenda := rfl
@[simp] theorem State.setF_cur (s : State) (r : FReg) (v : Word) : (s.setF r v).cur = s.cur := rfl
@[simp] theorem State.setF_ticks (s : State) (r : FReg) (v : Word) : (s.setF r v).ticks = s.ticks := rfl

/-! `State.setMask`. -/

@[simp] theorem State.setMask_mem (s : State) (r : MReg) (v : Word) : (s.setMask r v).mem = s.mem := rfl
@[simp] theorem State.setMask_frz (s : State) (r : MReg) (v : Word) : (s.setMask r v).frz = s.frz := rfl
@[simp] theorem State.setMask_posts (s : State) (r : MReg) (v : Word) : (s.setMask r v).posts = s.posts := rfl
@[simp] theorem State.setMask_replies (s : State) (r : MReg) (v : Word) : (s.setMask r v).replies = s.replies := rfl
@[simp] theorem State.setMask_conf (s : State) (r : MReg) (v : Word) : (s.setMask r v).conf = s.conf := rfl
@[simp] theorem State.setMask_sched (s : State) (r : MReg) (v : Word) : (s.setMask r v).sched = s.sched := rfl
@[simp] theorem State.setMask_mgmt (s : State) (r : MReg) (v : Word) : (s.setMask r v).mgmt = s.mgmt := rfl
@[simp] theorem State.setMask_link (s : State) (r : MReg) (v : Word) : (s.setMask r v).link = s.link := rfl
@[simp] theorem State.setMask_vectors (s : State) (r : MReg) (v : Word) : (s.setMask r v).vectors = s.vectors := rfl
@[simp] theorem State.setMask_msix (s : State) (r : MReg) (v : Word) : (s.setMask r v).msix = s.msix := rfl
@[simp] theorem State.setMask_pba (s : State) (r : MReg) (v : Word) : (s.setMask r v).pba = s.pba := rfl
@[simp] theorem State.setMask_hostReads (s : State) (r : MReg) (v : Word) : (s.setMask r v).hostReads = s.hostReads := rfl
@[simp] theorem State.setMask_port (s : State) (r : MReg) (v : Word) : (s.setMask r v).port = s.port := rfl
@[simp] theorem State.setMask_cg (s : State) (r : MReg) (v : Word) : (s.setMask r v).cg = s.cg := rfl
@[simp] theorem State.setMask_cgHeld (s : State) (r : MReg) (v : Word) : (s.setMask r v).cgHeld = s.cgHeld := rfl
@[simp] theorem State.setMask_clock (s : State) (r : MReg) (v : Word) : (s.setMask r v).clock = s.clock := rfl
@[simp] theorem State.setMask_agenda (s : State) (r : MReg) (v : Word) : (s.setMask r v).agenda = s.agenda := rfl
@[simp] theorem State.setMask_cur (s : State) (r : MReg) (v : Word) : (s.setMask r v).cur = s.cur := rfl
@[simp] theorem State.setMask_ticks (s : State) (r : MReg) (v : Word) : (s.setMask r v).ticks = s.ticks := rfl

/-! `State.setTile`. -/

@[simp] theorem State.setTile_mem (s : State) (r : TReg) (v : Tile) : (s.setTile r v).mem = s.mem := rfl
@[simp] theorem State.setTile_frz (s : State) (r : TReg) (v : Tile) : (s.setTile r v).frz = s.frz := rfl
@[simp] theorem State.setTile_posts (s : State) (r : TReg) (v : Tile) : (s.setTile r v).posts = s.posts := rfl
@[simp] theorem State.setTile_replies (s : State) (r : TReg) (v : Tile) : (s.setTile r v).replies = s.replies := rfl
@[simp] theorem State.setTile_conf (s : State) (r : TReg) (v : Tile) : (s.setTile r v).conf = s.conf := rfl
@[simp] theorem State.setTile_sched (s : State) (r : TReg) (v : Tile) : (s.setTile r v).sched = s.sched := rfl
@[simp] theorem State.setTile_mgmt (s : State) (r : TReg) (v : Tile) : (s.setTile r v).mgmt = s.mgmt := rfl
@[simp] theorem State.setTile_link (s : State) (r : TReg) (v : Tile) : (s.setTile r v).link = s.link := rfl
@[simp] theorem State.setTile_vectors (s : State) (r : TReg) (v : Tile) : (s.setTile r v).vectors = s.vectors := rfl
@[simp] theorem State.setTile_msix (s : State) (r : TReg) (v : Tile) : (s.setTile r v).msix = s.msix := rfl
@[simp] theorem State.setTile_pba (s : State) (r : TReg) (v : Tile) : (s.setTile r v).pba = s.pba := rfl
@[simp] theorem State.setTile_hostReads (s : State) (r : TReg) (v : Tile) : (s.setTile r v).hostReads = s.hostReads := rfl
@[simp] theorem State.setTile_port (s : State) (r : TReg) (v : Tile) : (s.setTile r v).port = s.port := rfl
@[simp] theorem State.setTile_cg (s : State) (r : TReg) (v : Tile) : (s.setTile r v).cg = s.cg := rfl
@[simp] theorem State.setTile_cgHeld (s : State) (r : TReg) (v : Tile) : (s.setTile r v).cgHeld = s.cgHeld := rfl
@[simp] theorem State.setTile_clock (s : State) (r : TReg) (v : Tile) : (s.setTile r v).clock = s.clock := rfl
@[simp] theorem State.setTile_agenda (s : State) (r : TReg) (v : Tile) : (s.setTile r v).agenda = s.agenda := rfl
@[simp] theorem State.setTile_cur (s : State) (r : TReg) (v : Tile) : (s.setTile r v).cur = s.cur := rfl
@[simp] theorem State.setTile_ticks (s : State) (r : TReg) (v : Tile) : (s.setTile r v).ticks = s.ticks := rfl

/-! `State.setAcc`. -/

@[simp] theorem State.setAcc_mem (s : State) (r : AReg) (v : Acc) : (s.setAcc r v).mem = s.mem := rfl
@[simp] theorem State.setAcc_frz (s : State) (r : AReg) (v : Acc) : (s.setAcc r v).frz = s.frz := rfl
@[simp] theorem State.setAcc_posts (s : State) (r : AReg) (v : Acc) : (s.setAcc r v).posts = s.posts := rfl
@[simp] theorem State.setAcc_replies (s : State) (r : AReg) (v : Acc) : (s.setAcc r v).replies = s.replies := rfl
@[simp] theorem State.setAcc_conf (s : State) (r : AReg) (v : Acc) : (s.setAcc r v).conf = s.conf := rfl
@[simp] theorem State.setAcc_sched (s : State) (r : AReg) (v : Acc) : (s.setAcc r v).sched = s.sched := rfl
@[simp] theorem State.setAcc_mgmt (s : State) (r : AReg) (v : Acc) : (s.setAcc r v).mgmt = s.mgmt := rfl
@[simp] theorem State.setAcc_link (s : State) (r : AReg) (v : Acc) : (s.setAcc r v).link = s.link := rfl
@[simp] theorem State.setAcc_vectors (s : State) (r : AReg) (v : Acc) : (s.setAcc r v).vectors = s.vectors := rfl
@[simp] theorem State.setAcc_msix (s : State) (r : AReg) (v : Acc) : (s.setAcc r v).msix = s.msix := rfl
@[simp] theorem State.setAcc_pba (s : State) (r : AReg) (v : Acc) : (s.setAcc r v).pba = s.pba := rfl
@[simp] theorem State.setAcc_hostReads (s : State) (r : AReg) (v : Acc) : (s.setAcc r v).hostReads = s.hostReads := rfl
@[simp] theorem State.setAcc_port (s : State) (r : AReg) (v : Acc) : (s.setAcc r v).port = s.port := rfl
@[simp] theorem State.setAcc_cg (s : State) (r : AReg) (v : Acc) : (s.setAcc r v).cg = s.cg := rfl
@[simp] theorem State.setAcc_cgHeld (s : State) (r : AReg) (v : Acc) : (s.setAcc r v).cgHeld = s.cgHeld := rfl
@[simp] theorem State.setAcc_clock (s : State) (r : AReg) (v : Acc) : (s.setAcc r v).clock = s.clock := rfl
@[simp] theorem State.setAcc_agenda (s : State) (r : AReg) (v : Acc) : (s.setAcc r v).agenda = s.agenda := rfl
@[simp] theorem State.setAcc_cur (s : State) (r : AReg) (v : Acc) : (s.setAcc r v).cur = s.cur := rfl
@[simp] theorem State.setAcc_ticks (s : State) (r : AReg) (v : Acc) : (s.setAcc r v).ticks = s.ticks := rfl

/-! `State.setWait`. -/

@[simp] theorem State.setWait_mem (s : State) (w : WaitOn) : (s.setWait w).mem = s.mem := rfl
@[simp] theorem State.setWait_frz (s : State) (w : WaitOn) : (s.setWait w).frz = s.frz := rfl
@[simp] theorem State.setWait_posts (s : State) (w : WaitOn) : (s.setWait w).posts = s.posts := rfl
@[simp] theorem State.setWait_replies (s : State) (w : WaitOn) : (s.setWait w).replies = s.replies := rfl
@[simp] theorem State.setWait_conf (s : State) (w : WaitOn) : (s.setWait w).conf = s.conf := rfl
@[simp] theorem State.setWait_sched (s : State) (w : WaitOn) : (s.setWait w).sched = s.sched := rfl
@[simp] theorem State.setWait_mgmt (s : State) (w : WaitOn) : (s.setWait w).mgmt = s.mgmt := rfl
@[simp] theorem State.setWait_link (s : State) (w : WaitOn) : (s.setWait w).link = s.link := rfl
@[simp] theorem State.setWait_vectors (s : State) (w : WaitOn) : (s.setWait w).vectors = s.vectors := rfl
@[simp] theorem State.setWait_msix (s : State) (w : WaitOn) : (s.setWait w).msix = s.msix := rfl
@[simp] theorem State.setWait_pba (s : State) (w : WaitOn) : (s.setWait w).pba = s.pba := rfl
@[simp] theorem State.setWait_hostReads (s : State) (w : WaitOn) : (s.setWait w).hostReads = s.hostReads := rfl
@[simp] theorem State.setWait_port (s : State) (w : WaitOn) : (s.setWait w).port = s.port := rfl
@[simp] theorem State.setWait_cg (s : State) (w : WaitOn) : (s.setWait w).cg = s.cg := rfl
@[simp] theorem State.setWait_cgHeld (s : State) (w : WaitOn) : (s.setWait w).cgHeld = s.cgHeld := rfl
@[simp] theorem State.setWait_clock (s : State) (w : WaitOn) : (s.setWait w).clock = s.clock := rfl
@[simp] theorem State.setWait_agenda (s : State) (w : WaitOn) : (s.setWait w).agenda = s.agenda := rfl
@[simp] theorem State.setWait_cur (s : State) (w : WaitOn) : (s.setWait w).cur = s.cur := rfl
@[simp] theorem State.setWait_ticks (s : State) (w : WaitOn) : (s.setWait w).ticks = s.ticks := rfl

/-! `State.count`. -/

@[simp] theorem State.count_mem (s : State) : (s.count).mem = s.mem := rfl
@[simp] theorem State.count_frz (s : State) : (s.count).frz = s.frz := rfl
@[simp] theorem State.count_posts (s : State) : (s.count).posts = s.posts := rfl
@[simp] theorem State.count_replies (s : State) : (s.count).replies = s.replies := rfl
@[simp] theorem State.count_conf (s : State) : (s.count).conf = s.conf := rfl
@[simp] theorem State.count_sched (s : State) : (s.count).sched = s.sched := rfl
@[simp] theorem State.count_mgmt (s : State) : (s.count).mgmt = s.mgmt := rfl
@[simp] theorem State.count_link (s : State) : (s.count).link = s.link := rfl
@[simp] theorem State.count_vectors (s : State) : (s.count).vectors = s.vectors := rfl
@[simp] theorem State.count_msix (s : State) : (s.count).msix = s.msix := rfl
@[simp] theorem State.count_pba (s : State) : (s.count).pba = s.pba := rfl
@[simp] theorem State.count_hostReads (s : State) : (s.count).hostReads = s.hostReads := rfl
@[simp] theorem State.count_port (s : State) : (s.count).port = s.port := rfl
@[simp] theorem State.count_cg (s : State) : (s.count).cg = s.cg := rfl
@[simp] theorem State.count_cgHeld (s : State) : (s.count).cgHeld = s.cgHeld := rfl
@[simp] theorem State.count_clock (s : State) : (s.count).clock = s.clock := rfl
@[simp] theorem State.count_agenda (s : State) : (s.count).agenda = s.agenda := rfl
@[simp] theorem State.count_cur (s : State) : (s.count).cur = s.cur := rfl
@[simp] theorem State.count_ticks (s : State) : (s.count).ticks = s.ticks := rfl

/-! `State.at_`. -/

@[simp] theorem State.at__mem (s : State) (a : Word) : (s.at_ a).mem = s.mem := rfl
@[simp] theorem State.at__frz (s : State) (a : Word) : (s.at_ a).frz = s.frz := rfl
@[simp] theorem State.at__posts (s : State) (a : Word) : (s.at_ a).posts = s.posts := rfl
@[simp] theorem State.at__replies (s : State) (a : Word) : (s.at_ a).replies = s.replies := rfl
@[simp] theorem State.at__conf (s : State) (a : Word) : (s.at_ a).conf = s.conf := rfl
@[simp] theorem State.at__sched (s : State) (a : Word) : (s.at_ a).sched = s.sched := rfl
@[simp] theorem State.at__mgmt (s : State) (a : Word) : (s.at_ a).mgmt = s.mgmt := rfl
@[simp] theorem State.at__link (s : State) (a : Word) : (s.at_ a).link = s.link := rfl
@[simp] theorem State.at__vectors (s : State) (a : Word) : (s.at_ a).vectors = s.vectors := rfl
@[simp] theorem State.at__msix (s : State) (a : Word) : (s.at_ a).msix = s.msix := rfl
@[simp] theorem State.at__pba (s : State) (a : Word) : (s.at_ a).pba = s.pba := rfl
@[simp] theorem State.at__hostReads (s : State) (a : Word) : (s.at_ a).hostReads = s.hostReads := rfl
@[simp] theorem State.at__port (s : State) (a : Word) : (s.at_ a).port = s.port := rfl
@[simp] theorem State.at__cg (s : State) (a : Word) : (s.at_ a).cg = s.cg := rfl
@[simp] theorem State.at__cgHeld (s : State) (a : Word) : (s.at_ a).cgHeld = s.cgHeld := rfl
@[simp] theorem State.at__clock (s : State) (a : Word) : (s.at_ a).clock = s.clock := rfl
@[simp] theorem State.at__agenda (s : State) (a : Word) : (s.at_ a).agenda = s.agenda := rfl
@[simp] theorem State.at__cur (s : State) (a : Word) : (s.at_ a).cur = s.cur := rfl
@[simp] theorem State.at__ticks (s : State) (a : Word) : (s.at_ a).ticks = s.ticks := rfl

/-! `State.retireTo`. -/

@[simp] theorem State.retireTo_mem (s : State) (a : Word) : (s.retireTo a).mem = s.mem := rfl
@[simp] theorem State.retireTo_frz (s : State) (a : Word) : (s.retireTo a).frz = s.frz := rfl
@[simp] theorem State.retireTo_posts (s : State) (a : Word) : (s.retireTo a).posts = s.posts := rfl
@[simp] theorem State.retireTo_replies (s : State) (a : Word) : (s.retireTo a).replies = s.replies := rfl
@[simp] theorem State.retireTo_conf (s : State) (a : Word) : (s.retireTo a).conf = s.conf := rfl
@[simp] theorem State.retireTo_sched (s : State) (a : Word) : (s.retireTo a).sched = s.sched := rfl
@[simp] theorem State.retireTo_mgmt (s : State) (a : Word) : (s.retireTo a).mgmt = s.mgmt := rfl
@[simp] theorem State.retireTo_link (s : State) (a : Word) : (s.retireTo a).link = s.link := rfl
@[simp] theorem State.retireTo_vectors (s : State) (a : Word) : (s.retireTo a).vectors = s.vectors := rfl
@[simp] theorem State.retireTo_msix (s : State) (a : Word) : (s.retireTo a).msix = s.msix := rfl
@[simp] theorem State.retireTo_pba (s : State) (a : Word) : (s.retireTo a).pba = s.pba := rfl
@[simp] theorem State.retireTo_hostReads (s : State) (a : Word) : (s.retireTo a).hostReads = s.hostReads := rfl
@[simp] theorem State.retireTo_port (s : State) (a : Word) : (s.retireTo a).port = s.port := rfl
@[simp] theorem State.retireTo_cg (s : State) (a : Word) : (s.retireTo a).cg = s.cg := rfl
@[simp] theorem State.retireTo_cgHeld (s : State) (a : Word) : (s.retireTo a).cgHeld = s.cgHeld := rfl
@[simp] theorem State.retireTo_clock (s : State) (a : Word) : (s.retireTo a).clock = s.clock := rfl
@[simp] theorem State.retireTo_agenda (s : State) (a : Word) : (s.retireTo a).agenda = s.agenda := rfl
@[simp] theorem State.retireTo_cur (s : State) (a : Word) : (s.retireTo a).cur = s.cur := rfl
@[simp] theorem State.retireTo_ticks (s : State) (a : Word) : (s.retireTo a).ticks = s.ticks := rfl

/-! `State.retire`. -/

@[simp] theorem State.retire_mem (s : State) : (s.retire).mem = s.mem := rfl
@[simp] theorem State.retire_frz (s : State) : (s.retire).frz = s.frz := rfl
@[simp] theorem State.retire_posts (s : State) : (s.retire).posts = s.posts := rfl
@[simp] theorem State.retire_replies (s : State) : (s.retire).replies = s.replies := rfl
@[simp] theorem State.retire_conf (s : State) : (s.retire).conf = s.conf := rfl
@[simp] theorem State.retire_sched (s : State) : (s.retire).sched = s.sched := rfl
@[simp] theorem State.retire_mgmt (s : State) : (s.retire).mgmt = s.mgmt := rfl
@[simp] theorem State.retire_link (s : State) : (s.retire).link = s.link := rfl
@[simp] theorem State.retire_vectors (s : State) : (s.retire).vectors = s.vectors := rfl
@[simp] theorem State.retire_msix (s : State) : (s.retire).msix = s.msix := rfl
@[simp] theorem State.retire_pba (s : State) : (s.retire).pba = s.pba := rfl
@[simp] theorem State.retire_hostReads (s : State) : (s.retire).hostReads = s.hostReads := rfl
@[simp] theorem State.retire_port (s : State) : (s.retire).port = s.port := rfl
@[simp] theorem State.retire_cg (s : State) : (s.retire).cg = s.cg := rfl
@[simp] theorem State.retire_cgHeld (s : State) : (s.retire).cgHeld = s.cgHeld := rfl
@[simp] theorem State.retire_clock (s : State) : (s.retire).clock = s.clock := rfl
@[simp] theorem State.retire_agenda (s : State) : (s.retire).agenda = s.agenda := rfl
@[simp] theorem State.retire_cur (s : State) : (s.retire).cur = s.cur := rfl
@[simp] theorem State.retire_ticks (s : State) : (s.retire).ticks = s.ticks := rfl

/-! `State.raiseVector`. -/

@[simp] theorem State.raiseVector_cores (s : State) (n : Nat) : (s.raiseVector n).cores = s.cores := rfl
@[simp] theorem State.raiseVector_mem (s : State) (n : Nat) : (s.raiseVector n).mem = s.mem := rfl
@[simp] theorem State.raiseVector_frz (s : State) (n : Nat) : (s.raiseVector n).frz = s.frz := rfl
@[simp] theorem State.raiseVector_posts (s : State) (n : Nat) : (s.raiseVector n).posts = s.posts := rfl
@[simp] theorem State.raiseVector_replies (s : State) (n : Nat) : (s.raiseVector n).replies = s.replies := rfl
@[simp] theorem State.raiseVector_conf (s : State) (n : Nat) : (s.raiseVector n).conf = s.conf := rfl
@[simp] theorem State.raiseVector_sched (s : State) (n : Nat) : (s.raiseVector n).sched = s.sched := rfl
@[simp] theorem State.raiseVector_mgmt (s : State) (n : Nat) : (s.raiseVector n).mgmt = s.mgmt := rfl
@[simp] theorem State.raiseVector_link (s : State) (n : Nat) : (s.raiseVector n).link = s.link := rfl
@[simp] theorem State.raiseVector_msix (s : State) (n : Nat) : (s.raiseVector n).msix = s.msix := rfl
@[simp] theorem State.raiseVector_hostReads (s : State) (n : Nat) : (s.raiseVector n).hostReads = s.hostReads := rfl
@[simp] theorem State.raiseVector_port (s : State) (n : Nat) : (s.raiseVector n).port = s.port := rfl
@[simp] theorem State.raiseVector_cg (s : State) (n : Nat) : (s.raiseVector n).cg = s.cg := rfl
@[simp] theorem State.raiseVector_cgHeld (s : State) (n : Nat) : (s.raiseVector n).cgHeld = s.cgHeld := rfl
@[simp] theorem State.raiseVector_clock (s : State) (n : Nat) : (s.raiseVector n).clock = s.clock := rfl
@[simp] theorem State.raiseVector_agenda (s : State) (n : Nat) : (s.raiseVector n).agenda = s.agenda := rfl
@[simp] theorem State.raiseVector_cur (s : State) (n : Nat) : (s.raiseVector n).cur = s.cur := rfl
@[simp] theorem State.raiseVector_ticks (s : State) (n : Nat) : (s.raiseVector n).ticks = s.ticks := rfl

/-! `State.appendLog`. -/

@[simp] theorem State.appendLog_cores (s : State) (e : Word × Word × Word × Word) : (s.appendLog e).cores = s.cores := rfl
@[simp] theorem State.appendLog_mem (s : State) (e : Word × Word × Word × Word) : (s.appendLog e).mem = s.mem := rfl
@[simp] theorem State.appendLog_frz (s : State) (e : Word × Word × Word × Word) : (s.appendLog e).frz = s.frz := rfl
@[simp] theorem State.appendLog_posts (s : State) (e : Word × Word × Word × Word) : (s.appendLog e).posts = s.posts := rfl
@[simp] theorem State.appendLog_replies (s : State) (e : Word × Word × Word × Word) : (s.appendLog e).replies = s.replies := rfl
@[simp] theorem State.appendLog_conf (s : State) (e : Word × Word × Word × Word) : (s.appendLog e).conf = s.conf := rfl
@[simp] theorem State.appendLog_sched (s : State) (e : Word × Word × Word × Word) : (s.appendLog e).sched = s.sched := rfl
@[simp] theorem State.appendLog_link (s : State) (e : Word × Word × Word × Word) : (s.appendLog e).link = s.link := rfl
@[simp] theorem State.appendLog_msix (s : State) (e : Word × Word × Word × Word) : (s.appendLog e).msix = s.msix := rfl
@[simp] theorem State.appendLog_hostReads (s : State) (e : Word × Word × Word × Word) : (s.appendLog e).hostReads = s.hostReads := rfl
@[simp] theorem State.appendLog_port (s : State) (e : Word × Word × Word × Word) : (s.appendLog e).port = s.port := rfl
@[simp] theorem State.appendLog_cg (s : State) (e : Word × Word × Word × Word) : (s.appendLog e).cg = s.cg := rfl
@[simp] theorem State.appendLog_cgHeld (s : State) (e : Word × Word × Word × Word) : (s.appendLog e).cgHeld = s.cgHeld := rfl
@[simp] theorem State.appendLog_clock (s : State) (e : Word × Word × Word × Word) : (s.appendLog e).clock = s.clock := rfl
@[simp] theorem State.appendLog_agenda (s : State) (e : Word × Word × Word × Word) : (s.appendLog e).agenda = s.agenda := rfl
@[simp] theorem State.appendLog_cur (s : State) (e : Word × Word × Word × Word) : (s.appendLog e).cur = s.cur := rfl
@[simp] theorem State.appendLog_ticks (s : State) (e : Word × Word × Word × Word) : (s.appendLog e).ticks = s.ticks := rfl

/-! `State.setFrame`. -/

@[simp] theorem State.setFrame_cores (s : State) (f : Nat) (a : FrameAttr) : (s.setFrame f a).cores = s.cores := rfl
@[simp] theorem State.setFrame_frz (s : State) (f : Nat) (a : FrameAttr) : (s.setFrame f a).frz = s.frz := rfl
@[simp] theorem State.setFrame_posts (s : State) (f : Nat) (a : FrameAttr) : (s.setFrame f a).posts = s.posts := rfl
@[simp] theorem State.setFrame_replies (s : State) (f : Nat) (a : FrameAttr) : (s.setFrame f a).replies = s.replies := rfl
@[simp] theorem State.setFrame_conf (s : State) (f : Nat) (a : FrameAttr) : (s.setFrame f a).conf = s.conf := rfl
@[simp] theorem State.setFrame_sched (s : State) (f : Nat) (a : FrameAttr) : (s.setFrame f a).sched = s.sched := rfl
@[simp] theorem State.setFrame_mgmt (s : State) (f : Nat) (a : FrameAttr) : (s.setFrame f a).mgmt = s.mgmt := rfl
@[simp] theorem State.setFrame_link (s : State) (f : Nat) (a : FrameAttr) : (s.setFrame f a).link = s.link := rfl
@[simp] theorem State.setFrame_vectors (s : State) (f : Nat) (a : FrameAttr) : (s.setFrame f a).vectors = s.vectors := rfl
@[simp] theorem State.setFrame_msix (s : State) (f : Nat) (a : FrameAttr) : (s.setFrame f a).msix = s.msix := rfl
@[simp] theorem State.setFrame_pba (s : State) (f : Nat) (a : FrameAttr) : (s.setFrame f a).pba = s.pba := rfl
@[simp] theorem State.setFrame_hostReads (s : State) (f : Nat) (a : FrameAttr) : (s.setFrame f a).hostReads = s.hostReads := rfl
@[simp] theorem State.setFrame_port (s : State) (f : Nat) (a : FrameAttr) : (s.setFrame f a).port = s.port := rfl
@[simp] theorem State.setFrame_cg (s : State) (f : Nat) (a : FrameAttr) : (s.setFrame f a).cg = s.cg := rfl
@[simp] theorem State.setFrame_cgHeld (s : State) (f : Nat) (a : FrameAttr) : (s.setFrame f a).cgHeld = s.cgHeld := rfl
@[simp] theorem State.setFrame_clock (s : State) (f : Nat) (a : FrameAttr) : (s.setFrame f a).clock = s.clock := rfl
@[simp] theorem State.setFrame_agenda (s : State) (f : Nat) (a : FrameAttr) : (s.setFrame f a).agenda = s.agenda := rfl
@[simp] theorem State.setFrame_cur (s : State) (f : Nat) (a : FrameAttr) : (s.setFrame f a).cur = s.cur := rfl
@[simp] theorem State.setFrame_ticks (s : State) (f : Nat) (a : FrameAttr) : (s.setFrame f a).ticks = s.ticks := rfl

/-! `State.pokePhys`. -/

@[simp] theorem State.pokePhys_cores (s : State) (pa : Nat) (bs : List Byte) : (s.pokePhys pa bs).cores = s.cores := rfl
@[simp] theorem State.pokePhys_frz (s : State) (pa : Nat) (bs : List Byte) : (s.pokePhys pa bs).frz = s.frz := rfl
@[simp] theorem State.pokePhys_posts (s : State) (pa : Nat) (bs : List Byte) : (s.pokePhys pa bs).posts = s.posts := rfl
@[simp] theorem State.pokePhys_replies (s : State) (pa : Nat) (bs : List Byte) : (s.pokePhys pa bs).replies = s.replies := rfl
@[simp] theorem State.pokePhys_conf (s : State) (pa : Nat) (bs : List Byte) : (s.pokePhys pa bs).conf = s.conf := rfl
@[simp] theorem State.pokePhys_sched (s : State) (pa : Nat) (bs : List Byte) : (s.pokePhys pa bs).sched = s.sched := rfl
@[simp] theorem State.pokePhys_mgmt (s : State) (pa : Nat) (bs : List Byte) : (s.pokePhys pa bs).mgmt = s.mgmt := rfl
@[simp] theorem State.pokePhys_link (s : State) (pa : Nat) (bs : List Byte) : (s.pokePhys pa bs).link = s.link := rfl
@[simp] theorem State.pokePhys_vectors (s : State) (pa : Nat) (bs : List Byte) : (s.pokePhys pa bs).vectors = s.vectors := rfl
@[simp] theorem State.pokePhys_msix (s : State) (pa : Nat) (bs : List Byte) : (s.pokePhys pa bs).msix = s.msix := rfl
@[simp] theorem State.pokePhys_pba (s : State) (pa : Nat) (bs : List Byte) : (s.pokePhys pa bs).pba = s.pba := rfl
@[simp] theorem State.pokePhys_hostReads (s : State) (pa : Nat) (bs : List Byte) : (s.pokePhys pa bs).hostReads = s.hostReads := rfl
@[simp] theorem State.pokePhys_port (s : State) (pa : Nat) (bs : List Byte) : (s.pokePhys pa bs).port = s.port := rfl
@[simp] theorem State.pokePhys_cg (s : State) (pa : Nat) (bs : List Byte) : (s.pokePhys pa bs).cg = s.cg := rfl
@[simp] theorem State.pokePhys_cgHeld (s : State) (pa : Nat) (bs : List Byte) : (s.pokePhys pa bs).cgHeld = s.cgHeld := rfl
@[simp] theorem State.pokePhys_clock (s : State) (pa : Nat) (bs : List Byte) : (s.pokePhys pa bs).clock = s.clock := rfl
@[simp] theorem State.pokePhys_agenda (s : State) (pa : Nat) (bs : List Byte) : (s.pokePhys pa bs).agenda = s.agenda := rfl
@[simp] theorem State.pokePhys_cur (s : State) (pa : Nat) (bs : List Byte) : (s.pokePhys pa bs).cur = s.cur := rfl
@[simp] theorem State.pokePhys_ticks (s : State) (pa : Nat) (bs : List Byte) : (s.pokePhys pa bs).ticks = s.ticks := rfl

/-! `State.setGang`. -/

@[simp] theorem State.setGang_cores (s : State) (g : Gang) : (s.setGang g).cores = s.cores := rfl
@[simp] theorem State.setGang_mem (s : State) (g : Gang) : (s.setGang g).mem = s.mem := rfl
@[simp] theorem State.setGang_frz (s : State) (g : Gang) : (s.setGang g).frz = s.frz := rfl
@[simp] theorem State.setGang_posts (s : State) (g : Gang) : (s.setGang g).posts = s.posts := rfl
@[simp] theorem State.setGang_replies (s : State) (g : Gang) : (s.setGang g).replies = s.replies := rfl
@[simp] theorem State.setGang_conf (s : State) (g : Gang) : (s.setGang g).conf = s.conf := rfl
@[simp] theorem State.setGang_mgmt (s : State) (g : Gang) : (s.setGang g).mgmt = s.mgmt := rfl
@[simp] theorem State.setGang_link (s : State) (g : Gang) : (s.setGang g).link = s.link := rfl
@[simp] theorem State.setGang_vectors (s : State) (g : Gang) : (s.setGang g).vectors = s.vectors := rfl
@[simp] theorem State.setGang_msix (s : State) (g : Gang) : (s.setGang g).msix = s.msix := rfl
@[simp] theorem State.setGang_pba (s : State) (g : Gang) : (s.setGang g).pba = s.pba := rfl
@[simp] theorem State.setGang_hostReads (s : State) (g : Gang) : (s.setGang g).hostReads = s.hostReads := rfl
@[simp] theorem State.setGang_port (s : State) (g : Gang) : (s.setGang g).port = s.port := rfl
@[simp] theorem State.setGang_cg (s : State) (g : Gang) : (s.setGang g).cg = s.cg := rfl
@[simp] theorem State.setGang_cgHeld (s : State) (g : Gang) : (s.setGang g).cgHeld = s.cgHeld := rfl
@[simp] theorem State.setGang_clock (s : State) (g : Gang) : (s.setGang g).clock = s.clock := rfl
@[simp] theorem State.setGang_agenda (s : State) (g : Gang) : (s.setGang g).agenda = s.agenda := rfl
@[simp] theorem State.setGang_cur (s : State) (g : Gang) : (s.setGang g).cur = s.cur := rfl
@[simp] theorem State.setGang_ticks (s : State) (g : Gang) : (s.setGang g).ticks = s.ticks := rfl

/-! `State.setLaunch`. -/

@[simp] theorem State.setLaunch_cores (s : State) (l : Launch) : (s.setLaunch l).cores = s.cores := rfl
@[simp] theorem State.setLaunch_mem (s : State) (l : Launch) : (s.setLaunch l).mem = s.mem := rfl
@[simp] theorem State.setLaunch_frz (s : State) (l : Launch) : (s.setLaunch l).frz = s.frz := rfl
@[simp] theorem State.setLaunch_posts (s : State) (l : Launch) : (s.setLaunch l).posts = s.posts := rfl
@[simp] theorem State.setLaunch_replies (s : State) (l : Launch) : (s.setLaunch l).replies = s.replies := rfl
@[simp] theorem State.setLaunch_conf (s : State) (l : Launch) : (s.setLaunch l).conf = s.conf := rfl
@[simp] theorem State.setLaunch_mgmt (s : State) (l : Launch) : (s.setLaunch l).mgmt = s.mgmt := rfl
@[simp] theorem State.setLaunch_link (s : State) (l : Launch) : (s.setLaunch l).link = s.link := rfl
@[simp] theorem State.setLaunch_vectors (s : State) (l : Launch) : (s.setLaunch l).vectors = s.vectors := rfl
@[simp] theorem State.setLaunch_msix (s : State) (l : Launch) : (s.setLaunch l).msix = s.msix := rfl
@[simp] theorem State.setLaunch_pba (s : State) (l : Launch) : (s.setLaunch l).pba = s.pba := rfl
@[simp] theorem State.setLaunch_hostReads (s : State) (l : Launch) : (s.setLaunch l).hostReads = s.hostReads := rfl
@[simp] theorem State.setLaunch_port (s : State) (l : Launch) : (s.setLaunch l).port = s.port := rfl
@[simp] theorem State.setLaunch_cg (s : State) (l : Launch) : (s.setLaunch l).cg = s.cg := rfl
@[simp] theorem State.setLaunch_cgHeld (s : State) (l : Launch) : (s.setLaunch l).cgHeld = s.cgHeld := rfl
@[simp] theorem State.setLaunch_clock (s : State) (l : Launch) : (s.setLaunch l).clock = s.clock := rfl
@[simp] theorem State.setLaunch_agenda (s : State) (l : Launch) : (s.setLaunch l).agenda = s.agenda := rfl
@[simp] theorem State.setLaunch_cur (s : State) (l : Launch) : (s.setLaunch l).cur = s.cur := rfl
@[simp] theorem State.setLaunch_ticks (s : State) (l : Launch) : (s.setLaunch l).ticks = s.ticks := rfl

/-! `State.setQueue`. -/

@[simp] theorem State.setQueue_cores (s : State) (q : QueueId) (x : Queue) : (s.setQueue q x).cores = s.cores := rfl
@[simp] theorem State.setQueue_mem (s : State) (q : QueueId) (x : Queue) : (s.setQueue q x).mem = s.mem := rfl
@[simp] theorem State.setQueue_frz (s : State) (q : QueueId) (x : Queue) : (s.setQueue q x).frz = s.frz := rfl
@[simp] theorem State.setQueue_posts (s : State) (q : QueueId) (x : Queue) : (s.setQueue q x).posts = s.posts := rfl
@[simp] theorem State.setQueue_replies (s : State) (q : QueueId) (x : Queue) : (s.setQueue q x).replies = s.replies := rfl
@[simp] theorem State.setQueue_conf (s : State) (q : QueueId) (x : Queue) : (s.setQueue q x).conf = s.conf := rfl
@[simp] theorem State.setQueue_mgmt (s : State) (q : QueueId) (x : Queue) : (s.setQueue q x).mgmt = s.mgmt := rfl
@[simp] theorem State.setQueue_link (s : State) (q : QueueId) (x : Queue) : (s.setQueue q x).link = s.link := rfl
@[simp] theorem State.setQueue_vectors (s : State) (q : QueueId) (x : Queue) : (s.setQueue q x).vectors = s.vectors := rfl
@[simp] theorem State.setQueue_msix (s : State) (q : QueueId) (x : Queue) : (s.setQueue q x).msix = s.msix := rfl
@[simp] theorem State.setQueue_pba (s : State) (q : QueueId) (x : Queue) : (s.setQueue q x).pba = s.pba := rfl
@[simp] theorem State.setQueue_hostReads (s : State) (q : QueueId) (x : Queue) : (s.setQueue q x).hostReads = s.hostReads := rfl
@[simp] theorem State.setQueue_port (s : State) (q : QueueId) (x : Queue) : (s.setQueue q x).port = s.port := rfl
@[simp] theorem State.setQueue_cg (s : State) (q : QueueId) (x : Queue) : (s.setQueue q x).cg = s.cg := rfl
@[simp] theorem State.setQueue_cgHeld (s : State) (q : QueueId) (x : Queue) : (s.setQueue q x).cgHeld = s.cgHeld := rfl
@[simp] theorem State.setQueue_clock (s : State) (q : QueueId) (x : Queue) : (s.setQueue q x).clock = s.clock := rfl
@[simp] theorem State.setQueue_agenda (s : State) (q : QueueId) (x : Queue) : (s.setQueue q x).agenda = s.agenda := rfl
@[simp] theorem State.setQueue_cur (s : State) (q : QueueId) (x : Queue) : (s.setQueue q x).cur = s.cur := rfl
@[simp] theorem State.setQueue_ticks (s : State) (q : QueueId) (x : Queue) : (s.setQueue q x).ticks = s.ticks := rfl

/-! `State.send`. -/

@[simp] theorem State.send_cores (s : State) (r : Reply) : (s.send r).cores = s.cores := rfl
@[simp] theorem State.send_mem (s : State) (r : Reply) : (s.send r).mem = s.mem := rfl
@[simp] theorem State.send_frz (s : State) (r : Reply) : (s.send r).frz = s.frz := rfl
@[simp] theorem State.send_posts (s : State) (r : Reply) : (s.send r).posts = s.posts := rfl
@[simp] theorem State.send_conf (s : State) (r : Reply) : (s.send r).conf = s.conf := rfl
@[simp] theorem State.send_sched (s : State) (r : Reply) : (s.send r).sched = s.sched := rfl
@[simp] theorem State.send_mgmt (s : State) (r : Reply) : (s.send r).mgmt = s.mgmt := rfl
@[simp] theorem State.send_link (s : State) (r : Reply) : (s.send r).link = s.link := rfl
@[simp] theorem State.send_vectors (s : State) (r : Reply) : (s.send r).vectors = s.vectors := rfl
@[simp] theorem State.send_msix (s : State) (r : Reply) : (s.send r).msix = s.msix := rfl
@[simp] theorem State.send_pba (s : State) (r : Reply) : (s.send r).pba = s.pba := rfl
@[simp] theorem State.send_hostReads (s : State) (r : Reply) : (s.send r).hostReads = s.hostReads := rfl
@[simp] theorem State.send_port (s : State) (r : Reply) : (s.send r).port = s.port := rfl
@[simp] theorem State.send_cg (s : State) (r : Reply) : (s.send r).cg = s.cg := rfl
@[simp] theorem State.send_cgHeld (s : State) (r : Reply) : (s.send r).cgHeld = s.cgHeld := rfl
@[simp] theorem State.send_clock (s : State) (r : Reply) : (s.send r).clock = s.clock := rfl
@[simp] theorem State.send_agenda (s : State) (r : Reply) : (s.send r).agenda = s.agenda := rfl
@[simp] theorem State.send_cur (s : State) (r : Reply) : (s.send r).cur = s.cur := rfl
@[simp] theorem State.send_ticks (s : State) (r : Reply) : (s.send r).ticks = s.ticks := rfl

/-! `State.takeSeq`. -/

@[simp] theorem State.takeSeq_cores (s : State) : (s.takeSeq).cores = s.cores := rfl
@[simp] theorem State.takeSeq_mem (s : State) : (s.takeSeq).mem = s.mem := rfl
@[simp] theorem State.takeSeq_posts (s : State) : (s.takeSeq).posts = s.posts := rfl
@[simp] theorem State.takeSeq_replies (s : State) : (s.takeSeq).replies = s.replies := rfl
@[simp] theorem State.takeSeq_conf (s : State) : (s.takeSeq).conf = s.conf := rfl
@[simp] theorem State.takeSeq_sched (s : State) : (s.takeSeq).sched = s.sched := rfl
@[simp] theorem State.takeSeq_mgmt (s : State) : (s.takeSeq).mgmt = s.mgmt := rfl
@[simp] theorem State.takeSeq_link (s : State) : (s.takeSeq).link = s.link := rfl
@[simp] theorem State.takeSeq_vectors (s : State) : (s.takeSeq).vectors = s.vectors := rfl
@[simp] theorem State.takeSeq_msix (s : State) : (s.takeSeq).msix = s.msix := rfl
@[simp] theorem State.takeSeq_pba (s : State) : (s.takeSeq).pba = s.pba := rfl
@[simp] theorem State.takeSeq_hostReads (s : State) : (s.takeSeq).hostReads = s.hostReads := rfl
@[simp] theorem State.takeSeq_port (s : State) : (s.takeSeq).port = s.port := rfl
@[simp] theorem State.takeSeq_cg (s : State) : (s.takeSeq).cg = s.cg := rfl
@[simp] theorem State.takeSeq_cgHeld (s : State) : (s.takeSeq).cgHeld = s.cgHeld := rfl
@[simp] theorem State.takeSeq_clock (s : State) : (s.takeSeq).clock = s.clock := rfl
@[simp] theorem State.takeSeq_agenda (s : State) : (s.takeSeq).agenda = s.agenda := rfl
@[simp] theorem State.takeSeq_cur (s : State) : (s.takeSeq).cur = s.cur := rfl
@[simp] theorem State.takeSeq_ticks (s : State) : (s.takeSeq).ticks = s.ticks := rfl

/-! `Core.setStrand`. -/

@[simp] theorem Core.setStrand_task (k : Core) (e : Bool) (x : Strand) : (k.setStrand e x).task = k.task := by cases e <;> rfl
@[simp] theorem Core.setStrand_held (k : Core) (e : Bool) (x : Strand) : (k.setStrand e x).held = k.held := by cases e <;> rfl
@[simp] theorem Core.setStrand_halting (k : Core) (e : Bool) (x : Strand) : (k.setStrand e x).halting = k.halting := by cases e <;> rfl
@[simp] theorem Core.setStrand_halted (k : Core) (e : Bool) (x : Strand) : (k.setStrand e x).halted = k.halted := by cases e <;> rfl
@[simp] theorem Core.setStrand_loading (k : Core) (e : Bool) (x : Strand) : (k.setStrand e x).loading = k.loading := by cases e <;> rfl
@[simp] theorem Core.setStrand_asleep (k : Core) (e : Bool) (x : Strand) : (k.setStrand e x).asleep = k.asleep := by cases e <;> rfl
@[simp] theorem Core.setStrand_sleepAdvances (k : Core) (e : Bool) (x : Strand) : (k.setStrand e x).sleepAdvances = k.sleepAdvances := by cases e <;> rfl
@[simp] theorem Core.setStrand_run (k : Core) (e : Bool) (x : Strand) : (k.setStrand e x).run = k.run := by cases e <;> rfl
@[simp] theorem Core.setStrand_mbox (k : Core) (e : Bool) (x : Strand) : (k.setStrand e x).mbox = k.mbox := by cases e <;> rfl
@[simp] theorem Core.setStrand_m (k : Core) (e : Bool) (x : Strand) : (k.setStrand e x).m = k.m := by cases e <;> rfl
@[simp] theorem Core.setStrand_t (k : Core) (e : Bool) (x : Strand) : (k.setStrand e x).t = k.t := by cases e <;> rfl
@[simp] theorem Core.setStrand_a (k : Core) (e : Bool) (x : Strand) : (k.setStrand e x).a = k.a := by cases e <;> rfl
@[simp] theorem Core.setStrand_rot (k : Core) (e : Bool) (x : Strand) : (k.setStrand e x).rot = k.rot := by cases e <;> rfl
@[simp] theorem Core.setStrand_ls (k : Core) (e : Bool) (x : Strand) : (k.setStrand e x).ls = k.ls := by cases e <;> rfl
@[simp] theorem Core.setStrand_bad (k : Core) (e : Bool) (x : Strand) : (k.setStrand e x).bad = k.bad := by cases e <;> rfl
@[simp] theorem Core.setStrand_full (k : Core) (e : Bool) (x : Strand) : (k.setStrand e x).full = k.full := by cases e <;> rfl
@[simp] theorem Core.setStrand_claims (k : Core) (e : Bool) (x : Strand) : (k.setStrand e x).claims = k.claims := by cases e <;> rfl
@[simp] theorem Core.setStrand_cells (k : Core) (e : Bool) (x : Strand) : (k.setStrand e x).cells = k.cells := by cases e <;> rfl
@[simp] theorem Core.setStrand_slots (k : Core) (e : Bool) (x : Strand) : (k.setStrand e x).slots = k.slots := by cases e <;> rfl
@[simp] theorem Core.setStrand_codegen (k : Core) (e : Bool) (x : Strand) : (k.setStrand e x).codegen = k.codegen := by cases e <;> rfl
@[simp] theorem Core.setStrand_scopemiss (k : Core) (e : Bool) (x : Strand) : (k.setStrand e x).scopemiss = k.scopemiss := by cases e <;> rfl
@[simp] theorem Core.setStrand_fcause (k : Core) (e : Bool) (x : Strand) : (k.setStrand e x).fcause = k.fcause := by cases e <;> rfl
@[simp] theorem Core.setStrand_counters (k : Core) (e : Bool) (x : Strand) : (k.setStrand e x).counters = k.counters := by cases e <;> rfl
@[simp] theorem Core.setStrand_epoch (k : Core) (e : Bool) (x : Strand) : (k.setStrand e x).epoch = k.epoch := by cases e <;> rfl
@[simp] theorem Core.setStrand_writes (k : Core) (e : Bool) (x : Strand) : (k.setStrand e x).writes = k.writes := by cases e <;> rfl
@[simp] theorem Core.setStrand_copies (k : Core) (e : Bool) (x : Strand) : (k.setStrand e x).copies = k.copies := by cases e <;> rfl
@[simp] theorem Core.setStrand_batches (k : Core) (e : Bool) (x : Strand) : (k.setStrand e x).batches = k.batches := by cases e <;> rfl
@[simp] theorem Core.setStrand_batchCtr (k : Core) (e : Bool) (x : Strand) : (k.setStrand e x).batchCtr = k.batchCtr := by cases e <;> rfl
@[simp] theorem Core.setStrand_order (k : Core) (e : Bool) (x : Strand) : (k.setStrand e x).order = k.order := by cases e <;> rfl
@[simp] theorem Core.setStrand_barPhase (k : Core) (e : Bool) (x : Strand) : (k.setStrand e x).barPhase = k.barPhase := by cases e <;> rfl
@[simp] theorem Core.setStrand_barCell (k : Core) (e : Bool) (x : Strand) : (k.setStrand e x).barCell = k.barCell := by cases e <;> rfl
@[simp] theorem Core.setStrand_barLost (k : Core) (e : Bool) (x : Strand) : (k.setStrand e x).barLost = k.barLost := by cases e <;> rfl
@[simp] theorem Core.setStrand_thawBound (k : Core) (e : Bool) (x : Strand) : (k.setStrand e x).thawBound = k.thawBound := by cases e <;> rfl
@[simp] theorem Core.setStrand_rowUnits (k : Core) (e : Bool) (x : Strand) : (k.setStrand e x).rowUnits = k.rowUnits := by cases e <;> rfl
@[simp] theorem Core.setStrand_gather (k : Core) (e : Bool) (x : Strand) : (k.setStrand e x).gather = k.gather := by cases e <;> rfl
@[simp] theorem Core.setStrand_deferred (k : Core) (e : Bool) (x : Strand) : (k.setStrand e x).deferred = k.deferred := by cases e <;> rfl
@[simp] theorem Core.setStrand_l1i (k : Core) (e : Bool) (x : Strand) : (k.setStrand e x).l1i = k.l1i := by cases e <;> rfl
@[simp] theorem Core.setStrand_prefetched (k : Core) (e : Bool) (x : Strand) : (k.setStrand e x).prefetched = k.prefetched := by cases e <;> rfl
@[simp] theorem Core.setStrand_tlb (k : Core) (e : Bool) (x : Strand) : (k.setStrand e x).tlb = k.tlb := by cases e <;> rfl
@[simp] theorem Core.setStrand_itlb (k : Core) (e : Bool) (x : Strand) : (k.setStrand e x).itlb = k.itlb := by cases e <;> rfl
@[simp] theorem Core.setStrand_walks (k : Core) (e : Bool) (x : Strand) : (k.setStrand e x).walks = k.walks := by cases e <;> rfl

/-! `Core.setMask`. -/

@[simp] theorem Core.setMask_task (k : Core) (r : MReg) (v : Word) : (k.setMask r v).task = k.task := by unfold Core.setMask; split <;> rfl
@[simp] theorem Core.setMask_held (k : Core) (r : MReg) (v : Word) : (k.setMask r v).held = k.held := by unfold Core.setMask; split <;> rfl
@[simp] theorem Core.setMask_halting (k : Core) (r : MReg) (v : Word) : (k.setMask r v).halting = k.halting := by unfold Core.setMask; split <;> rfl
@[simp] theorem Core.setMask_halted (k : Core) (r : MReg) (v : Word) : (k.setMask r v).halted = k.halted := by unfold Core.setMask; split <;> rfl
@[simp] theorem Core.setMask_loading (k : Core) (r : MReg) (v : Word) : (k.setMask r v).loading = k.loading := by unfold Core.setMask; split <;> rfl
@[simp] theorem Core.setMask_asleep (k : Core) (r : MReg) (v : Word) : (k.setMask r v).asleep = k.asleep := by unfold Core.setMask; split <;> rfl
@[simp] theorem Core.setMask_sleepAdvances (k : Core) (r : MReg) (v : Word) : (k.setMask r v).sleepAdvances = k.sleepAdvances := by unfold Core.setMask; split <;> rfl
@[simp] theorem Core.setMask_main (k : Core) (r : MReg) (v : Word) : (k.setMask r v).main = k.main := by unfold Core.setMask; split <;> rfl
@[simp] theorem Core.setMask_err (k : Core) (r : MReg) (v : Word) : (k.setMask r v).err = k.err := by unfold Core.setMask; split <;> rfl
@[simp] theorem Core.setMask_run (k : Core) (r : MReg) (v : Word) : (k.setMask r v).run = k.run := by unfold Core.setMask; split <;> rfl
@[simp] theorem Core.setMask_mbox (k : Core) (r : MReg) (v : Word) : (k.setMask r v).mbox = k.mbox := by unfold Core.setMask; split <;> rfl
@[simp] theorem Core.setMask_t (k : Core) (r : MReg) (v : Word) : (k.setMask r v).t = k.t := by unfold Core.setMask; split <;> rfl
@[simp] theorem Core.setMask_a (k : Core) (r : MReg) (v : Word) : (k.setMask r v).a = k.a := by unfold Core.setMask; split <;> rfl
@[simp] theorem Core.setMask_rot (k : Core) (r : MReg) (v : Word) : (k.setMask r v).rot = k.rot := by unfold Core.setMask; split <;> rfl
@[simp] theorem Core.setMask_ls (k : Core) (r : MReg) (v : Word) : (k.setMask r v).ls = k.ls := by unfold Core.setMask; split <;> rfl
@[simp] theorem Core.setMask_bad (k : Core) (r : MReg) (v : Word) : (k.setMask r v).bad = k.bad := by unfold Core.setMask; split <;> rfl
@[simp] theorem Core.setMask_full (k : Core) (r : MReg) (v : Word) : (k.setMask r v).full = k.full := by unfold Core.setMask; split <;> rfl
@[simp] theorem Core.setMask_claims (k : Core) (r : MReg) (v : Word) : (k.setMask r v).claims = k.claims := by unfold Core.setMask; split <;> rfl
@[simp] theorem Core.setMask_cells (k : Core) (r : MReg) (v : Word) : (k.setMask r v).cells = k.cells := by unfold Core.setMask; split <;> rfl
@[simp] theorem Core.setMask_slots (k : Core) (r : MReg) (v : Word) : (k.setMask r v).slots = k.slots := by unfold Core.setMask; split <;> rfl
@[simp] theorem Core.setMask_codegen (k : Core) (r : MReg) (v : Word) : (k.setMask r v).codegen = k.codegen := by unfold Core.setMask; split <;> rfl
@[simp] theorem Core.setMask_scopemiss (k : Core) (r : MReg) (v : Word) : (k.setMask r v).scopemiss = k.scopemiss := by unfold Core.setMask; split <;> rfl
@[simp] theorem Core.setMask_fcause (k : Core) (r : MReg) (v : Word) : (k.setMask r v).fcause = k.fcause := by unfold Core.setMask; split <;> rfl
@[simp] theorem Core.setMask_counters (k : Core) (r : MReg) (v : Word) : (k.setMask r v).counters = k.counters := by unfold Core.setMask; split <;> rfl
@[simp] theorem Core.setMask_epoch (k : Core) (r : MReg) (v : Word) : (k.setMask r v).epoch = k.epoch := by unfold Core.setMask; split <;> rfl
@[simp] theorem Core.setMask_writes (k : Core) (r : MReg) (v : Word) : (k.setMask r v).writes = k.writes := by unfold Core.setMask; split <;> rfl
@[simp] theorem Core.setMask_copies (k : Core) (r : MReg) (v : Word) : (k.setMask r v).copies = k.copies := by unfold Core.setMask; split <;> rfl
@[simp] theorem Core.setMask_batches (k : Core) (r : MReg) (v : Word) : (k.setMask r v).batches = k.batches := by unfold Core.setMask; split <;> rfl
@[simp] theorem Core.setMask_batchCtr (k : Core) (r : MReg) (v : Word) : (k.setMask r v).batchCtr = k.batchCtr := by unfold Core.setMask; split <;> rfl
@[simp] theorem Core.setMask_order (k : Core) (r : MReg) (v : Word) : (k.setMask r v).order = k.order := by unfold Core.setMask; split <;> rfl
@[simp] theorem Core.setMask_barPhase (k : Core) (r : MReg) (v : Word) : (k.setMask r v).barPhase = k.barPhase := by unfold Core.setMask; split <;> rfl
@[simp] theorem Core.setMask_barCell (k : Core) (r : MReg) (v : Word) : (k.setMask r v).barCell = k.barCell := by unfold Core.setMask; split <;> rfl
@[simp] theorem Core.setMask_barLost (k : Core) (r : MReg) (v : Word) : (k.setMask r v).barLost = k.barLost := by unfold Core.setMask; split <;> rfl
@[simp] theorem Core.setMask_thawBound (k : Core) (r : MReg) (v : Word) : (k.setMask r v).thawBound = k.thawBound := by unfold Core.setMask; split <;> rfl
@[simp] theorem Core.setMask_rowUnits (k : Core) (r : MReg) (v : Word) : (k.setMask r v).rowUnits = k.rowUnits := by unfold Core.setMask; split <;> rfl
@[simp] theorem Core.setMask_gather (k : Core) (r : MReg) (v : Word) : (k.setMask r v).gather = k.gather := by unfold Core.setMask; split <;> rfl
@[simp] theorem Core.setMask_deferred (k : Core) (r : MReg) (v : Word) : (k.setMask r v).deferred = k.deferred := by unfold Core.setMask; split <;> rfl
@[simp] theorem Core.setMask_l1i (k : Core) (r : MReg) (v : Word) : (k.setMask r v).l1i = k.l1i := by unfold Core.setMask; split <;> rfl
@[simp] theorem Core.setMask_prefetched (k : Core) (r : MReg) (v : Word) : (k.setMask r v).prefetched = k.prefetched := by unfold Core.setMask; split <;> rfl
@[simp] theorem Core.setMask_tlb (k : Core) (r : MReg) (v : Word) : (k.setMask r v).tlb = k.tlb := by unfold Core.setMask; split <;> rfl
@[simp] theorem Core.setMask_itlb (k : Core) (r : MReg) (v : Word) : (k.setMask r v).itlb = k.itlb := by unfold Core.setMask; split <;> rfl
@[simp] theorem Core.setMask_walks (k : Core) (r : MReg) (v : Word) : (k.setMask r v).walks = k.walks := by unfold Core.setMask; split <;> rfl

/-! `Core.writeLocal`. -/

@[simp] theorem Core.writeLocal_task (k : Core) (off : Nat) (bs : List Byte) (st : Bool) : (k.writeLocal off bs st).task = k.task := rfl
@[simp] theorem Core.writeLocal_held (k : Core) (off : Nat) (bs : List Byte) (st : Bool) : (k.writeLocal off bs st).held = k.held := rfl
@[simp] theorem Core.writeLocal_halting (k : Core) (off : Nat) (bs : List Byte) (st : Bool) : (k.writeLocal off bs st).halting = k.halting := rfl
@[simp] theorem Core.writeLocal_halted (k : Core) (off : Nat) (bs : List Byte) (st : Bool) : (k.writeLocal off bs st).halted = k.halted := rfl
@[simp] theorem Core.writeLocal_loading (k : Core) (off : Nat) (bs : List Byte) (st : Bool) : (k.writeLocal off bs st).loading = k.loading := rfl
@[simp] theorem Core.writeLocal_asleep (k : Core) (off : Nat) (bs : List Byte) (st : Bool) : (k.writeLocal off bs st).asleep = k.asleep := rfl
@[simp] theorem Core.writeLocal_sleepAdvances (k : Core) (off : Nat) (bs : List Byte) (st : Bool) : (k.writeLocal off bs st).sleepAdvances = k.sleepAdvances := rfl
@[simp] theorem Core.writeLocal_main (k : Core) (off : Nat) (bs : List Byte) (st : Bool) : (k.writeLocal off bs st).main = k.main := rfl
@[simp] theorem Core.writeLocal_err (k : Core) (off : Nat) (bs : List Byte) (st : Bool) : (k.writeLocal off bs st).err = k.err := rfl
@[simp] theorem Core.writeLocal_run (k : Core) (off : Nat) (bs : List Byte) (st : Bool) : (k.writeLocal off bs st).run = k.run := rfl
@[simp] theorem Core.writeLocal_mbox (k : Core) (off : Nat) (bs : List Byte) (st : Bool) : (k.writeLocal off bs st).mbox = k.mbox := rfl
@[simp] theorem Core.writeLocal_m (k : Core) (off : Nat) (bs : List Byte) (st : Bool) : (k.writeLocal off bs st).m = k.m := rfl
@[simp] theorem Core.writeLocal_t (k : Core) (off : Nat) (bs : List Byte) (st : Bool) : (k.writeLocal off bs st).t = k.t := rfl
@[simp] theorem Core.writeLocal_a (k : Core) (off : Nat) (bs : List Byte) (st : Bool) : (k.writeLocal off bs st).a = k.a := rfl
@[simp] theorem Core.writeLocal_rot (k : Core) (off : Nat) (bs : List Byte) (st : Bool) : (k.writeLocal off bs st).rot = k.rot := rfl
@[simp] theorem Core.writeLocal_cells (k : Core) (off : Nat) (bs : List Byte) (st : Bool) : (k.writeLocal off bs st).cells = k.cells := rfl
@[simp] theorem Core.writeLocal_slots (k : Core) (off : Nat) (bs : List Byte) (st : Bool) : (k.writeLocal off bs st).slots = k.slots := rfl
@[simp] theorem Core.writeLocal_codegen (k : Core) (off : Nat) (bs : List Byte) (st : Bool) : (k.writeLocal off bs st).codegen = k.codegen := rfl
@[simp] theorem Core.writeLocal_scopemiss (k : Core) (off : Nat) (bs : List Byte) (st : Bool) : (k.writeLocal off bs st).scopemiss = k.scopemiss := rfl
@[simp] theorem Core.writeLocal_fcause (k : Core) (off : Nat) (bs : List Byte) (st : Bool) : (k.writeLocal off bs st).fcause = k.fcause := rfl
@[simp] theorem Core.writeLocal_counters (k : Core) (off : Nat) (bs : List Byte) (st : Bool) : (k.writeLocal off bs st).counters = k.counters := rfl
@[simp] theorem Core.writeLocal_epoch (k : Core) (off : Nat) (bs : List Byte) (st : Bool) : (k.writeLocal off bs st).epoch = k.epoch := rfl
@[simp] theorem Core.writeLocal_writes (k : Core) (off : Nat) (bs : List Byte) (st : Bool) : (k.writeLocal off bs st).writes = k.writes := rfl
@[simp] theorem Core.writeLocal_copies (k : Core) (off : Nat) (bs : List Byte) (st : Bool) : (k.writeLocal off bs st).copies = k.copies := rfl
@[simp] theorem Core.writeLocal_batches (k : Core) (off : Nat) (bs : List Byte) (st : Bool) : (k.writeLocal off bs st).batches = k.batches := rfl
@[simp] theorem Core.writeLocal_batchCtr (k : Core) (off : Nat) (bs : List Byte) (st : Bool) : (k.writeLocal off bs st).batchCtr = k.batchCtr := rfl
@[simp] theorem Core.writeLocal_order (k : Core) (off : Nat) (bs : List Byte) (st : Bool) : (k.writeLocal off bs st).order = k.order := rfl
@[simp] theorem Core.writeLocal_barPhase (k : Core) (off : Nat) (bs : List Byte) (st : Bool) : (k.writeLocal off bs st).barPhase = k.barPhase := rfl
@[simp] theorem Core.writeLocal_barCell (k : Core) (off : Nat) (bs : List Byte) (st : Bool) : (k.writeLocal off bs st).barCell = k.barCell := rfl
@[simp] theorem Core.writeLocal_barLost (k : Core) (off : Nat) (bs : List Byte) (st : Bool) : (k.writeLocal off bs st).barLost = k.barLost := rfl
@[simp] theorem Core.writeLocal_thawBound (k : Core) (off : Nat) (bs : List Byte) (st : Bool) : (k.writeLocal off bs st).thawBound = k.thawBound := rfl
@[simp] theorem Core.writeLocal_rowUnits (k : Core) (off : Nat) (bs : List Byte) (st : Bool) : (k.writeLocal off bs st).rowUnits = k.rowUnits := rfl
@[simp] theorem Core.writeLocal_gather (k : Core) (off : Nat) (bs : List Byte) (st : Bool) : (k.writeLocal off bs st).gather = k.gather := rfl
@[simp] theorem Core.writeLocal_deferred (k : Core) (off : Nat) (bs : List Byte) (st : Bool) : (k.writeLocal off bs st).deferred = k.deferred := rfl
@[simp] theorem Core.writeLocal_l1i (k : Core) (off : Nat) (bs : List Byte) (st : Bool) : (k.writeLocal off bs st).l1i = k.l1i := rfl
@[simp] theorem Core.writeLocal_prefetched (k : Core) (off : Nat) (bs : List Byte) (st : Bool) : (k.writeLocal off bs st).prefetched = k.prefetched := rfl
@[simp] theorem Core.writeLocal_tlb (k : Core) (off : Nat) (bs : List Byte) (st : Bool) : (k.writeLocal off bs st).tlb = k.tlb := rfl
@[simp] theorem Core.writeLocal_itlb (k : Core) (off : Nat) (bs : List Byte) (st : Bool) : (k.writeLocal off bs st).itlb = k.itlb := rfl
@[simp] theorem Core.writeLocal_walks (k : Core) (off : Nat) (bs : List Byte) (st : Bool) : (k.writeLocal off bs st).walks = k.walks := rfl

/-! `Core.setFull`. -/

@[simp] theorem Core.setFull_task (k : Core) (off n : Nat) (v : Bool) : (k.setFull off n v).task = k.task := rfl
@[simp] theorem Core.setFull_held (k : Core) (off n : Nat) (v : Bool) : (k.setFull off n v).held = k.held := rfl
@[simp] theorem Core.setFull_halting (k : Core) (off n : Nat) (v : Bool) : (k.setFull off n v).halting = k.halting := rfl
@[simp] theorem Core.setFull_halted (k : Core) (off n : Nat) (v : Bool) : (k.setFull off n v).halted = k.halted := rfl
@[simp] theorem Core.setFull_loading (k : Core) (off n : Nat) (v : Bool) : (k.setFull off n v).loading = k.loading := rfl
@[simp] theorem Core.setFull_asleep (k : Core) (off n : Nat) (v : Bool) : (k.setFull off n v).asleep = k.asleep := rfl
@[simp] theorem Core.setFull_sleepAdvances (k : Core) (off n : Nat) (v : Bool) : (k.setFull off n v).sleepAdvances = k.sleepAdvances := rfl
@[simp] theorem Core.setFull_main (k : Core) (off n : Nat) (v : Bool) : (k.setFull off n v).main = k.main := rfl
@[simp] theorem Core.setFull_err (k : Core) (off n : Nat) (v : Bool) : (k.setFull off n v).err = k.err := rfl
@[simp] theorem Core.setFull_run (k : Core) (off n : Nat) (v : Bool) : (k.setFull off n v).run = k.run := rfl
@[simp] theorem Core.setFull_mbox (k : Core) (off n : Nat) (v : Bool) : (k.setFull off n v).mbox = k.mbox := rfl
@[simp] theorem Core.setFull_m (k : Core) (off n : Nat) (v : Bool) : (k.setFull off n v).m = k.m := rfl
@[simp] theorem Core.setFull_t (k : Core) (off n : Nat) (v : Bool) : (k.setFull off n v).t = k.t := rfl
@[simp] theorem Core.setFull_a (k : Core) (off n : Nat) (v : Bool) : (k.setFull off n v).a = k.a := rfl
@[simp] theorem Core.setFull_rot (k : Core) (off n : Nat) (v : Bool) : (k.setFull off n v).rot = k.rot := rfl
@[simp] theorem Core.setFull_ls (k : Core) (off n : Nat) (v : Bool) : (k.setFull off n v).ls = k.ls := rfl
@[simp] theorem Core.setFull_bad (k : Core) (off n : Nat) (v : Bool) : (k.setFull off n v).bad = k.bad := rfl
@[simp] theorem Core.setFull_cells (k : Core) (off n : Nat) (v : Bool) : (k.setFull off n v).cells = k.cells := rfl
@[simp] theorem Core.setFull_slots (k : Core) (off n : Nat) (v : Bool) : (k.setFull off n v).slots = k.slots := rfl
@[simp] theorem Core.setFull_codegen (k : Core) (off n : Nat) (v : Bool) : (k.setFull off n v).codegen = k.codegen := rfl
@[simp] theorem Core.setFull_scopemiss (k : Core) (off n : Nat) (v : Bool) : (k.setFull off n v).scopemiss = k.scopemiss := rfl
@[simp] theorem Core.setFull_fcause (k : Core) (off n : Nat) (v : Bool) : (k.setFull off n v).fcause = k.fcause := rfl
@[simp] theorem Core.setFull_counters (k : Core) (off n : Nat) (v : Bool) : (k.setFull off n v).counters = k.counters := rfl
@[simp] theorem Core.setFull_epoch (k : Core) (off n : Nat) (v : Bool) : (k.setFull off n v).epoch = k.epoch := rfl
@[simp] theorem Core.setFull_writes (k : Core) (off n : Nat) (v : Bool) : (k.setFull off n v).writes = k.writes := rfl
@[simp] theorem Core.setFull_copies (k : Core) (off n : Nat) (v : Bool) : (k.setFull off n v).copies = k.copies := rfl
@[simp] theorem Core.setFull_batches (k : Core) (off n : Nat) (v : Bool) : (k.setFull off n v).batches = k.batches := rfl
@[simp] theorem Core.setFull_batchCtr (k : Core) (off n : Nat) (v : Bool) : (k.setFull off n v).batchCtr = k.batchCtr := rfl
@[simp] theorem Core.setFull_order (k : Core) (off n : Nat) (v : Bool) : (k.setFull off n v).order = k.order := rfl
@[simp] theorem Core.setFull_barPhase (k : Core) (off n : Nat) (v : Bool) : (k.setFull off n v).barPhase = k.barPhase := rfl
@[simp] theorem Core.setFull_barCell (k : Core) (off n : Nat) (v : Bool) : (k.setFull off n v).barCell = k.barCell := rfl
@[simp] theorem Core.setFull_barLost (k : Core) (off n : Nat) (v : Bool) : (k.setFull off n v).barLost = k.barLost := rfl
@[simp] theorem Core.setFull_thawBound (k : Core) (off n : Nat) (v : Bool) : (k.setFull off n v).thawBound = k.thawBound := rfl
@[simp] theorem Core.setFull_rowUnits (k : Core) (off n : Nat) (v : Bool) : (k.setFull off n v).rowUnits = k.rowUnits := rfl
@[simp] theorem Core.setFull_gather (k : Core) (off n : Nat) (v : Bool) : (k.setFull off n v).gather = k.gather := rfl
@[simp] theorem Core.setFull_deferred (k : Core) (off n : Nat) (v : Bool) : (k.setFull off n v).deferred = k.deferred := rfl
@[simp] theorem Core.setFull_l1i (k : Core) (off n : Nat) (v : Bool) : (k.setFull off n v).l1i = k.l1i := rfl
@[simp] theorem Core.setFull_prefetched (k : Core) (off n : Nat) (v : Bool) : (k.setFull off n v).prefetched = k.prefetched := rfl
@[simp] theorem Core.setFull_tlb (k : Core) (off n : Nat) (v : Bool) : (k.setFull off n v).tlb = k.tlb := rfl
@[simp] theorem Core.setFull_itlb (k : Core) (off n : Nat) (v : Bool) : (k.setFull off n v).itlb = k.itlb := rfl
@[simp] theorem Core.setFull_walks (k : Core) (off n : Nat) (v : Bool) : (k.setFull off n v).walks = k.walks := rfl

/-! `Core.learn`. -/

@[simp] theorem Core.learn_task (k : Core) (x : Bool) (f : Found) : (k.learn x f).task = k.task := rfl
@[simp] theorem Core.learn_held (k : Core) (x : Bool) (f : Found) : (k.learn x f).held = k.held := rfl
@[simp] theorem Core.learn_halting (k : Core) (x : Bool) (f : Found) : (k.learn x f).halting = k.halting := rfl
@[simp] theorem Core.learn_halted (k : Core) (x : Bool) (f : Found) : (k.learn x f).halted = k.halted := rfl
@[simp] theorem Core.learn_loading (k : Core) (x : Bool) (f : Found) : (k.learn x f).loading = k.loading := rfl
@[simp] theorem Core.learn_asleep (k : Core) (x : Bool) (f : Found) : (k.learn x f).asleep = k.asleep := rfl
@[simp] theorem Core.learn_sleepAdvances (k : Core) (x : Bool) (f : Found) : (k.learn x f).sleepAdvances = k.sleepAdvances := rfl
@[simp] theorem Core.learn_main (k : Core) (x : Bool) (f : Found) : (k.learn x f).main = k.main := rfl
@[simp] theorem Core.learn_err (k : Core) (x : Bool) (f : Found) : (k.learn x f).err = k.err := rfl
@[simp] theorem Core.learn_run (k : Core) (x : Bool) (f : Found) : (k.learn x f).run = k.run := rfl
@[simp] theorem Core.learn_mbox (k : Core) (x : Bool) (f : Found) : (k.learn x f).mbox = k.mbox := rfl
@[simp] theorem Core.learn_m (k : Core) (x : Bool) (f : Found) : (k.learn x f).m = k.m := rfl
@[simp] theorem Core.learn_t (k : Core) (x : Bool) (f : Found) : (k.learn x f).t = k.t := rfl
@[simp] theorem Core.learn_a (k : Core) (x : Bool) (f : Found) : (k.learn x f).a = k.a := rfl
@[simp] theorem Core.learn_rot (k : Core) (x : Bool) (f : Found) : (k.learn x f).rot = k.rot := rfl
@[simp] theorem Core.learn_ls (k : Core) (x : Bool) (f : Found) : (k.learn x f).ls = k.ls := rfl
@[simp] theorem Core.learn_bad (k : Core) (x : Bool) (f : Found) : (k.learn x f).bad = k.bad := rfl
@[simp] theorem Core.learn_full (k : Core) (x : Bool) (f : Found) : (k.learn x f).full = k.full := rfl
@[simp] theorem Core.learn_claims (k : Core) (x : Bool) (f : Found) : (k.learn x f).claims = k.claims := rfl
@[simp] theorem Core.learn_cells (k : Core) (x : Bool) (f : Found) : (k.learn x f).cells = k.cells := rfl
@[simp] theorem Core.learn_slots (k : Core) (x : Bool) (f : Found) : (k.learn x f).slots = k.slots := rfl
@[simp] theorem Core.learn_codegen (k : Core) (x : Bool) (f : Found) : (k.learn x f).codegen = k.codegen := rfl
@[simp] theorem Core.learn_scopemiss (k : Core) (x : Bool) (f : Found) : (k.learn x f).scopemiss = k.scopemiss := rfl
@[simp] theorem Core.learn_fcause (k : Core) (x : Bool) (f : Found) : (k.learn x f).fcause = k.fcause := rfl
@[simp] theorem Core.learn_counters (k : Core) (x : Bool) (f : Found) : (k.learn x f).counters = k.counters := rfl
@[simp] theorem Core.learn_epoch (k : Core) (x : Bool) (f : Found) : (k.learn x f).epoch = k.epoch := rfl
@[simp] theorem Core.learn_writes (k : Core) (x : Bool) (f : Found) : (k.learn x f).writes = k.writes := rfl
@[simp] theorem Core.learn_copies (k : Core) (x : Bool) (f : Found) : (k.learn x f).copies = k.copies := rfl
@[simp] theorem Core.learn_batches (k : Core) (x : Bool) (f : Found) : (k.learn x f).batches = k.batches := rfl
@[simp] theorem Core.learn_batchCtr (k : Core) (x : Bool) (f : Found) : (k.learn x f).batchCtr = k.batchCtr := rfl
@[simp] theorem Core.learn_order (k : Core) (x : Bool) (f : Found) : (k.learn x f).order = k.order := rfl
@[simp] theorem Core.learn_barPhase (k : Core) (x : Bool) (f : Found) : (k.learn x f).barPhase = k.barPhase := rfl
@[simp] theorem Core.learn_barCell (k : Core) (x : Bool) (f : Found) : (k.learn x f).barCell = k.barCell := rfl
@[simp] theorem Core.learn_barLost (k : Core) (x : Bool) (f : Found) : (k.learn x f).barLost = k.barLost := rfl
@[simp] theorem Core.learn_thawBound (k : Core) (x : Bool) (f : Found) : (k.learn x f).thawBound = k.thawBound := rfl
@[simp] theorem Core.learn_rowUnits (k : Core) (x : Bool) (f : Found) : (k.learn x f).rowUnits = k.rowUnits := rfl
@[simp] theorem Core.learn_gather (k : Core) (x : Bool) (f : Found) : (k.learn x f).gather = k.gather := rfl
@[simp] theorem Core.learn_deferred (k : Core) (x : Bool) (f : Found) : (k.learn x f).deferred = k.deferred := rfl
@[simp] theorem Core.learn_l1i (k : Core) (x : Bool) (f : Found) : (k.learn x f).l1i = k.l1i := rfl
@[simp] theorem Core.learn_prefetched (k : Core) (x : Bool) (f : Found) : (k.learn x f).prefetched = k.prefetched := rfl

/-! `Core.defer`. -/

@[simp] theorem Core.defer_task (k : Core) (c : Cause) (a : Word) : (k.defer c a).task = k.task := rfl
@[simp] theorem Core.defer_held (k : Core) (c : Cause) (a : Word) : (k.defer c a).held = k.held := rfl
@[simp] theorem Core.defer_halting (k : Core) (c : Cause) (a : Word) : (k.defer c a).halting = k.halting := rfl
@[simp] theorem Core.defer_halted (k : Core) (c : Cause) (a : Word) : (k.defer c a).halted = k.halted := rfl
@[simp] theorem Core.defer_loading (k : Core) (c : Cause) (a : Word) : (k.defer c a).loading = k.loading := rfl
@[simp] theorem Core.defer_asleep (k : Core) (c : Cause) (a : Word) : (k.defer c a).asleep = k.asleep := rfl
@[simp] theorem Core.defer_sleepAdvances (k : Core) (c : Cause) (a : Word) : (k.defer c a).sleepAdvances = k.sleepAdvances := rfl
@[simp] theorem Core.defer_main (k : Core) (c : Cause) (a : Word) : (k.defer c a).main = k.main := rfl
@[simp] theorem Core.defer_err (k : Core) (c : Cause) (a : Word) : (k.defer c a).err = k.err := rfl
@[simp] theorem Core.defer_run (k : Core) (c : Cause) (a : Word) : (k.defer c a).run = k.run := rfl
@[simp] theorem Core.defer_mbox (k : Core) (c : Cause) (a : Word) : (k.defer c a).mbox = k.mbox := rfl
@[simp] theorem Core.defer_m (k : Core) (c : Cause) (a : Word) : (k.defer c a).m = k.m := rfl
@[simp] theorem Core.defer_t (k : Core) (c : Cause) (a : Word) : (k.defer c a).t = k.t := rfl
@[simp] theorem Core.defer_a (k : Core) (c : Cause) (a : Word) : (k.defer c a).a = k.a := rfl
@[simp] theorem Core.defer_rot (k : Core) (c : Cause) (a : Word) : (k.defer c a).rot = k.rot := rfl
@[simp] theorem Core.defer_ls (k : Core) (c : Cause) (a : Word) : (k.defer c a).ls = k.ls := rfl
@[simp] theorem Core.defer_bad (k : Core) (c : Cause) (a : Word) : (k.defer c a).bad = k.bad := rfl
@[simp] theorem Core.defer_full (k : Core) (c : Cause) (a : Word) : (k.defer c a).full = k.full := rfl
@[simp] theorem Core.defer_claims (k : Core) (c : Cause) (a : Word) : (k.defer c a).claims = k.claims := rfl
@[simp] theorem Core.defer_cells (k : Core) (c : Cause) (a : Word) : (k.defer c a).cells = k.cells := rfl
@[simp] theorem Core.defer_slots (k : Core) (c : Cause) (a : Word) : (k.defer c a).slots = k.slots := rfl
@[simp] theorem Core.defer_codegen (k : Core) (c : Cause) (a : Word) : (k.defer c a).codegen = k.codegen := rfl
@[simp] theorem Core.defer_scopemiss (k : Core) (c : Cause) (a : Word) : (k.defer c a).scopemiss = k.scopemiss := rfl
@[simp] theorem Core.defer_fcause (k : Core) (c : Cause) (a : Word) : (k.defer c a).fcause = k.fcause := rfl
@[simp] theorem Core.defer_counters (k : Core) (c : Cause) (a : Word) : (k.defer c a).counters = k.counters := rfl
@[simp] theorem Core.defer_epoch (k : Core) (c : Cause) (a : Word) : (k.defer c a).epoch = k.epoch := rfl
@[simp] theorem Core.defer_writes (k : Core) (c : Cause) (a : Word) : (k.defer c a).writes = k.writes := rfl
@[simp] theorem Core.defer_copies (k : Core) (c : Cause) (a : Word) : (k.defer c a).copies = k.copies := rfl
@[simp] theorem Core.defer_batches (k : Core) (c : Cause) (a : Word) : (k.defer c a).batches = k.batches := rfl
@[simp] theorem Core.defer_batchCtr (k : Core) (c : Cause) (a : Word) : (k.defer c a).batchCtr = k.batchCtr := rfl
@[simp] theorem Core.defer_order (k : Core) (c : Cause) (a : Word) : (k.defer c a).order = k.order := rfl
@[simp] theorem Core.defer_barPhase (k : Core) (c : Cause) (a : Word) : (k.defer c a).barPhase = k.barPhase := rfl
@[simp] theorem Core.defer_barCell (k : Core) (c : Cause) (a : Word) : (k.defer c a).barCell = k.barCell := rfl
@[simp] theorem Core.defer_barLost (k : Core) (c : Cause) (a : Word) : (k.defer c a).barLost = k.barLost := rfl
@[simp] theorem Core.defer_thawBound (k : Core) (c : Cause) (a : Word) : (k.defer c a).thawBound = k.thawBound := rfl
@[simp] theorem Core.defer_rowUnits (k : Core) (c : Cause) (a : Word) : (k.defer c a).rowUnits = k.rowUnits := rfl
@[simp] theorem Core.defer_gather (k : Core) (c : Cause) (a : Word) : (k.defer c a).gather = k.gather := rfl
@[simp] theorem Core.defer_l1i (k : Core) (c : Cause) (a : Word) : (k.defer c a).l1i = k.l1i := rfl
@[simp] theorem Core.defer_prefetched (k : Core) (c : Cause) (a : Word) : (k.defer c a).prefetched = k.prefetched := rfl
@[simp] theorem Core.defer_tlb (k : Core) (c : Cause) (a : Word) : (k.defer c a).tlb = k.tlb := rfl
@[simp] theorem Core.defer_itlb (k : Core) (c : Cause) (a : Word) : (k.defer c a).itlb = k.itlb := rfl
@[simp] theorem Core.defer_walks (k : Core) (c : Cause) (a : Word) : (k.defer c a).walks = k.walks := rfl

/-! `Core.forget`. -/

@[simp] theorem Core.forget_task (k : Core) : (k.forget).task = k.task := rfl
@[simp] theorem Core.forget_held (k : Core) : (k.forget).held = k.held := rfl
@[simp] theorem Core.forget_halting (k : Core) : (k.forget).halting = k.halting := rfl
@[simp] theorem Core.forget_halted (k : Core) : (k.forget).halted = k.halted := rfl
@[simp] theorem Core.forget_loading (k : Core) : (k.forget).loading = k.loading := rfl
@[simp] theorem Core.forget_asleep (k : Core) : (k.forget).asleep = k.asleep := rfl
@[simp] theorem Core.forget_sleepAdvances (k : Core) : (k.forget).sleepAdvances = k.sleepAdvances := rfl
@[simp] theorem Core.forget_main (k : Core) : (k.forget).main = k.main := rfl
@[simp] theorem Core.forget_err (k : Core) : (k.forget).err = k.err := rfl
@[simp] theorem Core.forget_run (k : Core) : (k.forget).run = k.run := rfl
@[simp] theorem Core.forget_mbox (k : Core) : (k.forget).mbox = k.mbox := rfl
@[simp] theorem Core.forget_m (k : Core) : (k.forget).m = k.m := rfl
@[simp] theorem Core.forget_t (k : Core) : (k.forget).t = k.t := rfl
@[simp] theorem Core.forget_a (k : Core) : (k.forget).a = k.a := rfl
@[simp] theorem Core.forget_rot (k : Core) : (k.forget).rot = k.rot := rfl
@[simp] theorem Core.forget_ls (k : Core) : (k.forget).ls = k.ls := rfl
@[simp] theorem Core.forget_bad (k : Core) : (k.forget).bad = k.bad := rfl
@[simp] theorem Core.forget_full (k : Core) : (k.forget).full = k.full := rfl
@[simp] theorem Core.forget_claims (k : Core) : (k.forget).claims = k.claims := rfl
@[simp] theorem Core.forget_cells (k : Core) : (k.forget).cells = k.cells := rfl
@[simp] theorem Core.forget_slots (k : Core) : (k.forget).slots = k.slots := rfl
@[simp] theorem Core.forget_codegen (k : Core) : (k.forget).codegen = k.codegen := rfl
@[simp] theorem Core.forget_scopemiss (k : Core) : (k.forget).scopemiss = k.scopemiss := rfl
@[simp] theorem Core.forget_fcause (k : Core) : (k.forget).fcause = k.fcause := rfl
@[simp] theorem Core.forget_counters (k : Core) : (k.forget).counters = k.counters := rfl
@[simp] theorem Core.forget_epoch (k : Core) : (k.forget).epoch = k.epoch := rfl
@[simp] theorem Core.forget_writes (k : Core) : (k.forget).writes = k.writes := rfl
@[simp] theorem Core.forget_copies (k : Core) : (k.forget).copies = k.copies := rfl
@[simp] theorem Core.forget_batches (k : Core) : (k.forget).batches = k.batches := rfl
@[simp] theorem Core.forget_batchCtr (k : Core) : (k.forget).batchCtr = k.batchCtr := rfl
@[simp] theorem Core.forget_order (k : Core) : (k.forget).order = k.order := rfl
@[simp] theorem Core.forget_deferred (k : Core) : (k.forget).deferred = k.deferred := rfl
@[simp] theorem Core.forget_l1i (k : Core) : (k.forget).l1i = k.l1i := rfl
@[simp] theorem Core.forget_prefetched (k : Core) : (k.forget).prefetched = k.prefetched := rfl
@[simp] theorem Core.forget_tlb (k : Core) : (k.forget).tlb = k.tlb := rfl
@[simp] theorem Core.forget_itlb (k : Core) : (k.forget).itlb = k.itlb := rfl
@[simp] theorem Core.forget_walks (k : Core) : (k.forget).walks = k.walks := rfl

/-! `Core.count`. -/

@[simp] theorem Core.count_task (k : Core) (e : Bool) : (k.count e).task = k.task := by cases e <;> rfl
@[simp] theorem Core.count_held (k : Core) (e : Bool) : (k.count e).held = k.held := by cases e <;> rfl
@[simp] theorem Core.count_halting (k : Core) (e : Bool) : (k.count e).halting = k.halting := by cases e <;> rfl
@[simp] theorem Core.count_halted (k : Core) (e : Bool) : (k.count e).halted = k.halted := by cases e <;> rfl
@[simp] theorem Core.count_loading (k : Core) (e : Bool) : (k.count e).loading = k.loading := by cases e <;> rfl
@[simp] theorem Core.count_asleep (k : Core) (e : Bool) : (k.count e).asleep = k.asleep := by cases e <;> rfl
@[simp] theorem Core.count_sleepAdvances (k : Core) (e : Bool) : (k.count e).sleepAdvances = k.sleepAdvances := by cases e <;> rfl
@[simp] theorem Core.count_mbox (k : Core) (e : Bool) : (k.count e).mbox = k.mbox := by cases e <;> rfl
@[simp] theorem Core.count_m (k : Core) (e : Bool) : (k.count e).m = k.m := by cases e <;> rfl
@[simp] theorem Core.count_t (k : Core) (e : Bool) : (k.count e).t = k.t := by cases e <;> rfl
@[simp] theorem Core.count_a (k : Core) (e : Bool) : (k.count e).a = k.a := by cases e <;> rfl
@[simp] theorem Core.count_rot (k : Core) (e : Bool) : (k.count e).rot = k.rot := by cases e <;> rfl
@[simp] theorem Core.count_ls (k : Core) (e : Bool) : (k.count e).ls = k.ls := by cases e <;> rfl
@[simp] theorem Core.count_bad (k : Core) (e : Bool) : (k.count e).bad = k.bad := by cases e <;> rfl
@[simp] theorem Core.count_full (k : Core) (e : Bool) : (k.count e).full = k.full := by cases e <;> rfl
@[simp] theorem Core.count_claims (k : Core) (e : Bool) : (k.count e).claims = k.claims := by cases e <;> rfl
@[simp] theorem Core.count_cells (k : Core) (e : Bool) : (k.count e).cells = k.cells := by cases e <;> rfl
@[simp] theorem Core.count_slots (k : Core) (e : Bool) : (k.count e).slots = k.slots := by cases e <;> rfl
@[simp] theorem Core.count_codegen (k : Core) (e : Bool) : (k.count e).codegen = k.codegen := by cases e <;> rfl
@[simp] theorem Core.count_scopemiss (k : Core) (e : Bool) : (k.count e).scopemiss = k.scopemiss := by cases e <;> rfl
@[simp] theorem Core.count_fcause (k : Core) (e : Bool) : (k.count e).fcause = k.fcause := by cases e <;> rfl
@[simp] theorem Core.count_epoch (k : Core) (e : Bool) : (k.count e).epoch = k.epoch := by cases e <;> rfl
@[simp] theorem Core.count_writes (k : Core) (e : Bool) : (k.count e).writes = k.writes := by cases e <;> rfl
@[simp] theorem Core.count_copies (k : Core) (e : Bool) : (k.count e).copies = k.copies := by cases e <;> rfl
@[simp] theorem Core.count_batches (k : Core) (e : Bool) : (k.count e).batches = k.batches := by cases e <;> rfl
@[simp] theorem Core.count_batchCtr (k : Core) (e : Bool) : (k.count e).batchCtr = k.batchCtr := by cases e <;> rfl
@[simp] theorem Core.count_order (k : Core) (e : Bool) : (k.count e).order = k.order := by cases e <;> rfl
@[simp] theorem Core.count_barPhase (k : Core) (e : Bool) : (k.count e).barPhase = k.barPhase := by cases e <;> rfl
@[simp] theorem Core.count_barCell (k : Core) (e : Bool) : (k.count e).barCell = k.barCell := by cases e <;> rfl
@[simp] theorem Core.count_barLost (k : Core) (e : Bool) : (k.count e).barLost = k.barLost := by cases e <;> rfl
@[simp] theorem Core.count_thawBound (k : Core) (e : Bool) : (k.count e).thawBound = k.thawBound := by cases e <;> rfl
@[simp] theorem Core.count_rowUnits (k : Core) (e : Bool) : (k.count e).rowUnits = k.rowUnits := by cases e <;> rfl
@[simp] theorem Core.count_gather (k : Core) (e : Bool) : (k.count e).gather = k.gather := by cases e <;> rfl
@[simp] theorem Core.count_deferred (k : Core) (e : Bool) : (k.count e).deferred = k.deferred := by cases e <;> rfl
@[simp] theorem Core.count_l1i (k : Core) (e : Bool) : (k.count e).l1i = k.l1i := by cases e <;> rfl
@[simp] theorem Core.count_prefetched (k : Core) (e : Bool) : (k.count e).prefetched = k.prefetched := by cases e <;> rfl
@[simp] theorem Core.count_tlb (k : Core) (e : Bool) : (k.count e).tlb = k.tlb := by cases e <;> rfl
@[simp] theorem Core.count_itlb (k : Core) (e : Bool) : (k.count e).itlb = k.itlb := by cases e <;> rfl
@[simp] theorem Core.count_walks (k : Core) (e : Bool) : (k.count e).walks = k.walks := by cases e <;> rfl

/-! `Strand.writeG`. -/

@[simp] theorem Strand.writeG_pc (x : Strand) (r : GReg) (v : Word) : (x.writeG r v).pc = x.pc := by unfold Strand.writeG; repeat (first | rfl | split)
@[simp] theorem Strand.writeG_npc (x : Strand) (r : GReg) (v : Word) : (x.writeG r v).npc = x.npc := by unfold Strand.writeG; repeat (first | rfl | split)
@[simp] theorem Strand.writeG_mode (x : Strand) (r : GReg) (v : Word) : (x.writeG r v).mode = x.mode := by unfold Strand.writeG; repeat (first | rfl | split)
@[simp] theorem Strand.writeG_f (x : Strand) (r : GReg) (v : Word) : (x.writeG r v).f = x.f := by unfold Strand.writeG; repeat (first | rfl | split)
@[simp] theorem Strand.writeG_ret (x : Strand) (r : GReg) (v : Word) : (x.writeG r v).ret = x.ret := by unfold Strand.writeG; repeat (first | rfl | split)
@[simp] theorem Strand.writeG_sret (x : Strand) (r : GReg) (v : Word) : (x.writeG r v).sret = x.sret := by unfold Strand.writeG; repeat (first | rfl | split)
@[simp] theorem Strand.writeG_rspill (x : Strand) (r : GReg) (v : Word) : (x.writeG r v).rspill = x.rspill := by unfold Strand.writeG; repeat (first | rfl | split)
@[simp] theorem Strand.writeG_spilled (x : Strand) (r : GReg) (v : Word) : (x.writeG r v).spilled = x.spilled := by unfold Strand.writeG; repeat (first | rfl | split)
@[simp] theorem Strand.writeG_sstatus (x : Strand) (r : GReg) (v : Word) : (x.writeG r v).sstatus = x.sstatus := by unfold Strand.writeG; repeat (first | rfl | split)
@[simp] theorem Strand.writeG_sepc (x : Strand) (r : GReg) (v : Word) : (x.writeG r v).sepc = x.sepc := by unfold Strand.writeG; repeat (first | rfl | split)
@[simp] theorem Strand.writeG_svec (x : Strand) (r : GReg) (v : Word) : (x.writeG r v).svec = x.svec := by unfold Strand.writeG; repeat (first | rfl | split)
@[simp] theorem Strand.writeG_scause (x : Strand) (r : GReg) (v : Word) : (x.writeG r v).scause = x.scause := by unfold Strand.writeG; repeat (first | rfl | split)
@[simp] theorem Strand.writeG_sfaddr (x : Strand) (r : GReg) (v : Word) : (x.writeG r v).sfaddr = x.sfaddr := by unfold Strand.writeG; repeat (first | rfl | split)
@[simp] theorem Strand.writeG_sfinfo (x : Strand) (r : GReg) (v : Word) : (x.writeG r v).sfinfo = x.sfinfo := by unfold Strand.writeG; repeat (first | rfl | split)
@[simp] theorem Strand.writeG_sarg (x : Strand) (r : GReg) (v : Word) : (x.writeG r v).sarg = x.sarg := by unfold Strand.writeG; repeat (first | rfl | split)
@[simp] theorem Strand.writeG_sscratch (x : Strand) (r : GReg) (v : Word) : (x.writeG r v).sscratch = x.sscratch := by unfold Strand.writeG; repeat (first | rfl | split)
@[simp] theorem Strand.writeG_sdeleg (x : Strand) (r : GReg) (v : Word) : (x.writeG r v).sdeleg = x.sdeleg := by unfold Strand.writeG; repeat (first | rfl | split)
@[simp] theorem Strand.writeG_retries (x : Strand) (r : GReg) (v : Word) : (x.writeG r v).retries = x.retries := by unfold Strand.writeG; repeat (first | rfl | split)
@[simp] theorem Strand.writeG_backoff (x : Strand) (r : GReg) (v : Word) : (x.writeG r v).backoff = x.backoff := by unfold Strand.writeG; repeat (first | rfl | split)
@[simp] theorem Strand.writeG_inBackoff (x : Strand) (r : GReg) (v : Word) : (x.writeG r v).inBackoff = x.inBackoff := by unfold Strand.writeG; repeat (first | rfl | split)
@[simp] theorem Strand.writeG_lastFault (x : Strand) (r : GReg) (v : Word) : (x.writeG r v).lastFault = x.lastFault := by unfold Strand.writeG; repeat (first | rfl | split)
@[simp] theorem Strand.writeG_wait (x : Strand) (r : GReg) (v : Word) : (x.writeG r v).wait = x.wait := by unfold Strand.writeG; repeat (first | rfl | split)
@[simp] theorem Strand.writeG_wfloor (x : Strand) (r : GReg) (v : Word) : (x.writeG r v).wfloor = x.wfloor := by unfold Strand.writeG; repeat (first | rfl | split)
@[simp] theorem Strand.writeG_rfloor (x : Strand) (r : GReg) (v : Word) : (x.writeG r v).rfloor = x.rfloor := by unfold Strand.writeG; repeat (first | rfl | split)

/-! `Strand.cleared`. -/

@[simp] theorem Strand.cleared_pc (x : Strand) : (x.cleared).pc = x.pc := by unfold Strand.cleared; split <;> rfl
@[simp] theorem Strand.cleared_npc (x : Strand) : (x.cleared).npc = x.npc := by unfold Strand.cleared; split <;> rfl
@[simp] theorem Strand.cleared_mode (x : Strand) : (x.cleared).mode = x.mode := by unfold Strand.cleared; split <;> rfl
@[simp] theorem Strand.cleared_g (x : Strand) : (x.cleared).g = x.g := by unfold Strand.cleared; split <;> rfl
@[simp] theorem Strand.cleared_sg (x : Strand) : (x.cleared).sg = x.sg := by unfold Strand.cleared; split <;> rfl
@[simp] theorem Strand.cleared_f (x : Strand) : (x.cleared).f = x.f := by unfold Strand.cleared; split <;> rfl
@[simp] theorem Strand.cleared_ret (x : Strand) : (x.cleared).ret = x.ret := by unfold Strand.cleared; split <;> rfl
@[simp] theorem Strand.cleared_sret (x : Strand) : (x.cleared).sret = x.sret := by unfold Strand.cleared; split <;> rfl
@[simp] theorem Strand.cleared_rspill (x : Strand) : (x.cleared).rspill = x.rspill := by unfold Strand.cleared; split <;> rfl
@[simp] theorem Strand.cleared_spilled (x : Strand) : (x.cleared).spilled = x.spilled := by unfold Strand.cleared; split <;> rfl
@[simp] theorem Strand.cleared_sstatus (x : Strand) : (x.cleared).sstatus = x.sstatus := by unfold Strand.cleared; split <;> rfl
@[simp] theorem Strand.cleared_sepc (x : Strand) : (x.cleared).sepc = x.sepc := by unfold Strand.cleared; split <;> rfl
@[simp] theorem Strand.cleared_svec (x : Strand) : (x.cleared).svec = x.svec := by unfold Strand.cleared; split <;> rfl
@[simp] theorem Strand.cleared_scause (x : Strand) : (x.cleared).scause = x.scause := by unfold Strand.cleared; split <;> rfl
@[simp] theorem Strand.cleared_sfaddr (x : Strand) : (x.cleared).sfaddr = x.sfaddr := by unfold Strand.cleared; split <;> rfl
@[simp] theorem Strand.cleared_sfinfo (x : Strand) : (x.cleared).sfinfo = x.sfinfo := by unfold Strand.cleared; split <;> rfl
@[simp] theorem Strand.cleared_sarg (x : Strand) : (x.cleared).sarg = x.sarg := by unfold Strand.cleared; split <;> rfl
@[simp] theorem Strand.cleared_sscratch (x : Strand) : (x.cleared).sscratch = x.sscratch := by unfold Strand.cleared; split <;> rfl
@[simp] theorem Strand.cleared_sdeleg (x : Strand) : (x.cleared).sdeleg = x.sdeleg := by unfold Strand.cleared; split <;> rfl
@[simp] theorem Strand.cleared_wfloor (x : Strand) : (x.cleared).wfloor = x.wfloor := by unfold Strand.cleared; split <;> rfl
@[simp] theorem Strand.cleared_rfloor (x : Strand) : (x.cleared).rfloor = x.rfloor := by unfold Strand.cleared; split <;> rfl

/-! `Strand.leave`. -/

@[simp] theorem Strand.leave_pc (x : Strand) : (x.leave).pc = x.pc := rfl
@[simp] theorem Strand.leave_npc (x : Strand) : (x.leave).npc = x.npc := rfl
@[simp] theorem Strand.leave_g (x : Strand) : (x.leave).g = x.g := rfl
@[simp] theorem Strand.leave_sg (x : Strand) : (x.leave).sg = x.sg := rfl
@[simp] theorem Strand.leave_f (x : Strand) : (x.leave).f = x.f := rfl
@[simp] theorem Strand.leave_ret (x : Strand) : (x.leave).ret = x.ret := rfl
@[simp] theorem Strand.leave_sret (x : Strand) : (x.leave).sret = x.sret := rfl
@[simp] theorem Strand.leave_rspill (x : Strand) : (x.leave).rspill = x.rspill := rfl
@[simp] theorem Strand.leave_spilled (x : Strand) : (x.leave).spilled = x.spilled := rfl
@[simp] theorem Strand.leave_sstatus (x : Strand) : (x.leave).sstatus = x.sstatus := rfl
@[simp] theorem Strand.leave_sepc (x : Strand) : (x.leave).sepc = x.sepc := rfl
@[simp] theorem Strand.leave_svec (x : Strand) : (x.leave).svec = x.svec := rfl
@[simp] theorem Strand.leave_scause (x : Strand) : (x.leave).scause = x.scause := rfl
@[simp] theorem Strand.leave_sfaddr (x : Strand) : (x.leave).sfaddr = x.sfaddr := rfl
@[simp] theorem Strand.leave_sfinfo (x : Strand) : (x.leave).sfinfo = x.sfinfo := rfl
@[simp] theorem Strand.leave_sarg (x : Strand) : (x.leave).sarg = x.sarg := rfl
@[simp] theorem Strand.leave_sscratch (x : Strand) : (x.leave).sscratch = x.sscratch := rfl
@[simp] theorem Strand.leave_sdeleg (x : Strand) : (x.leave).sdeleg = x.sdeleg := rfl
@[simp] theorem Strand.leave_retries (x : Strand) : (x.leave).retries = x.retries := rfl
@[simp] theorem Strand.leave_backoff (x : Strand) : (x.leave).backoff = x.backoff := rfl
@[simp] theorem Strand.leave_inBackoff (x : Strand) : (x.leave).inBackoff = x.inBackoff := rfl
@[simp] theorem Strand.leave_lastFault (x : Strand) : (x.leave).lastFault = x.lastFault := rfl
@[simp] theorem Strand.leave_wfloor (x : Strand) : (x.leave).wfloor = x.wfloor := rfl
@[simp] theorem Strand.leave_rfloor (x : Strand) : (x.leave).rfloor = x.rfloor := rfl

/-! `State.completes`. -/

@[simp] theorem State.completes_cores (s : State) (bar a : Nat) (d : Option (List Byte)) : (s.completes bar a d).cores = s.cores := rfl
@[simp] theorem State.completes_mem (s : State) (bar a : Nat) (d : Option (List Byte)) : (s.completes bar a d).mem = s.mem := rfl
@[simp] theorem State.completes_frz (s : State) (bar a : Nat) (d : Option (List Byte)) : (s.completes bar a d).frz = s.frz := rfl
@[simp] theorem State.completes_posts (s : State) (bar a : Nat) (d : Option (List Byte)) : (s.completes bar a d).posts = s.posts := rfl
@[simp] theorem State.completes_replies (s : State) (bar a : Nat) (d : Option (List Byte)) : (s.completes bar a d).replies = s.replies := rfl
@[simp] theorem State.completes_conf (s : State) (bar a : Nat) (d : Option (List Byte)) : (s.completes bar a d).conf = s.conf := rfl
@[simp] theorem State.completes_sched (s : State) (bar a : Nat) (d : Option (List Byte)) : (s.completes bar a d).sched = s.sched := rfl
@[simp] theorem State.completes_mgmt (s : State) (bar a : Nat) (d : Option (List Byte)) : (s.completes bar a d).mgmt = s.mgmt := rfl
@[simp] theorem State.completes_link (s : State) (bar a : Nat) (d : Option (List Byte)) : (s.completes bar a d).link = s.link := rfl
@[simp] theorem State.completes_vectors (s : State) (bar a : Nat) (d : Option (List Byte)) : (s.completes bar a d).vectors = s.vectors := rfl
@[simp] theorem State.completes_msix (s : State) (bar a : Nat) (d : Option (List Byte)) : (s.completes bar a d).msix = s.msix := rfl
@[simp] theorem State.completes_pba (s : State) (bar a : Nat) (d : Option (List Byte)) : (s.completes bar a d).pba = s.pba := rfl
@[simp] theorem State.completes_cg (s : State) (bar a : Nat) (d : Option (List Byte)) : (s.completes bar a d).cg = s.cg := rfl
@[simp] theorem State.completes_cgHeld (s : State) (bar a : Nat) (d : Option (List Byte)) : (s.completes bar a d).cgHeld = s.cgHeld := rfl
@[simp] theorem State.completes_clock (s : State) (bar a : Nat) (d : Option (List Byte)) : (s.completes bar a d).clock = s.clock := rfl
@[simp] theorem State.completes_agenda (s : State) (bar a : Nat) (d : Option (List Byte)) : (s.completes bar a d).agenda = s.agenda := rfl
@[simp] theorem State.completes_cur (s : State) (bar a : Nat) (d : Option (List Byte)) : (s.completes bar a d).cur = s.cur := rfl
@[simp] theorem State.completes_ticks (s : State) (bar a : Nat) (d : Option (List Byte)) : (s.completes bar a d).ticks = s.ticks := rfl

/-! `State.countDropped`. -/

@[simp] theorem State.countDropped_cores (s : State) : (s.countDropped).cores = s.cores := rfl
@[simp] theorem State.countDropped_mem (s : State) : (s.countDropped).mem = s.mem := rfl
@[simp] theorem State.countDropped_frz (s : State) : (s.countDropped).frz = s.frz := rfl
@[simp] theorem State.countDropped_posts (s : State) : (s.countDropped).posts = s.posts := rfl
@[simp] theorem State.countDropped_replies (s : State) : (s.countDropped).replies = s.replies := rfl
@[simp] theorem State.countDropped_conf (s : State) : (s.countDropped).conf = s.conf := rfl
@[simp] theorem State.countDropped_sched (s : State) : (s.countDropped).sched = s.sched := rfl
@[simp] theorem State.countDropped_link (s : State) : (s.countDropped).link = s.link := rfl
@[simp] theorem State.countDropped_vectors (s : State) : (s.countDropped).vectors = s.vectors := rfl
@[simp] theorem State.countDropped_msix (s : State) : (s.countDropped).msix = s.msix := rfl
@[simp] theorem State.countDropped_pba (s : State) : (s.countDropped).pba = s.pba := rfl
@[simp] theorem State.countDropped_hostReads (s : State) : (s.countDropped).hostReads = s.hostReads := rfl
@[simp] theorem State.countDropped_port (s : State) : (s.countDropped).port = s.port := rfl
@[simp] theorem State.countDropped_cg (s : State) : (s.countDropped).cg = s.cg := rfl
@[simp] theorem State.countDropped_cgHeld (s : State) : (s.countDropped).cgHeld = s.cgHeld := rfl
@[simp] theorem State.countDropped_clock (s : State) : (s.countDropped).clock = s.clock := rfl
@[simp] theorem State.countDropped_agenda (s : State) : (s.countDropped).agenda = s.agenda := rfl
@[simp] theorem State.countDropped_cur (s : State) : (s.countDropped).cur = s.cur := rfl
@[simp] theorem State.countDropped_ticks (s : State) : (s.countDropped).ticks = s.ticks := rfl

/-! `State.setFrz`. -/

@[simp] theorem State.setFrz_cores (s : State) (z : FreezeSys) : (s.setFrz z).cores = s.cores := rfl
@[simp] theorem State.setFrz_mem (s : State) (z : FreezeSys) : (s.setFrz z).mem = s.mem := rfl
@[simp] theorem State.setFrz_posts (s : State) (z : FreezeSys) : (s.setFrz z).posts = s.posts := rfl
@[simp] theorem State.setFrz_replies (s : State) (z : FreezeSys) : (s.setFrz z).replies = s.replies := rfl
@[simp] theorem State.setFrz_conf (s : State) (z : FreezeSys) : (s.setFrz z).conf = s.conf := rfl
@[simp] theorem State.setFrz_sched (s : State) (z : FreezeSys) : (s.setFrz z).sched = s.sched := rfl
@[simp] theorem State.setFrz_mgmt (s : State) (z : FreezeSys) : (s.setFrz z).mgmt = s.mgmt := rfl
@[simp] theorem State.setFrz_link (s : State) (z : FreezeSys) : (s.setFrz z).link = s.link := rfl
@[simp] theorem State.setFrz_vectors (s : State) (z : FreezeSys) : (s.setFrz z).vectors = s.vectors := rfl
@[simp] theorem State.setFrz_msix (s : State) (z : FreezeSys) : (s.setFrz z).msix = s.msix := rfl
@[simp] theorem State.setFrz_pba (s : State) (z : FreezeSys) : (s.setFrz z).pba = s.pba := rfl
@[simp] theorem State.setFrz_hostReads (s : State) (z : FreezeSys) : (s.setFrz z).hostReads = s.hostReads := rfl
@[simp] theorem State.setFrz_port (s : State) (z : FreezeSys) : (s.setFrz z).port = s.port := rfl
@[simp] theorem State.setFrz_cg (s : State) (z : FreezeSys) : (s.setFrz z).cg = s.cg := rfl
@[simp] theorem State.setFrz_cgHeld (s : State) (z : FreezeSys) : (s.setFrz z).cgHeld = s.cgHeld := rfl
@[simp] theorem State.setFrz_clock (s : State) (z : FreezeSys) : (s.setFrz z).clock = s.clock := rfl
@[simp] theorem State.setFrz_agenda (s : State) (z : FreezeSys) : (s.setFrz z).agenda = s.agenda := rfl
@[simp] theorem State.setFrz_cur (s : State) (z : FreezeSys) : (s.setFrz z).cur = s.cur := rfl
@[simp] theorem State.setFrz_ticks (s : State) (z : FreezeSys) : (s.setFrz z).ticks = s.ticks := rfl

/-! `State.setMgmt`. -/

@[simp] theorem State.setMgmt_cores (s : State) (m : Mgmt) : (s.setMgmt m).cores = s.cores := rfl
@[simp] theorem State.setMgmt_mem (s : State) (m : Mgmt) : (s.setMgmt m).mem = s.mem := rfl
@[simp] theorem State.setMgmt_frz (s : State) (m : Mgmt) : (s.setMgmt m).frz = s.frz := rfl
@[simp] theorem State.setMgmt_posts (s : State) (m : Mgmt) : (s.setMgmt m).posts = s.posts := rfl
@[simp] theorem State.setMgmt_replies (s : State) (m : Mgmt) : (s.setMgmt m).replies = s.replies := rfl
@[simp] theorem State.setMgmt_conf (s : State) (m : Mgmt) : (s.setMgmt m).conf = s.conf := rfl
@[simp] theorem State.setMgmt_sched (s : State) (m : Mgmt) : (s.setMgmt m).sched = s.sched := rfl
@[simp] theorem State.setMgmt_link (s : State) (m : Mgmt) : (s.setMgmt m).link = s.link := rfl
@[simp] theorem State.setMgmt_vectors (s : State) (m : Mgmt) : (s.setMgmt m).vectors = s.vectors := rfl
@[simp] theorem State.setMgmt_msix (s : State) (m : Mgmt) : (s.setMgmt m).msix = s.msix := rfl
@[simp] theorem State.setMgmt_pba (s : State) (m : Mgmt) : (s.setMgmt m).pba = s.pba := rfl
@[simp] theorem State.setMgmt_hostReads (s : State) (m : Mgmt) : (s.setMgmt m).hostReads = s.hostReads := rfl
@[simp] theorem State.setMgmt_port (s : State) (m : Mgmt) : (s.setMgmt m).port = s.port := rfl
@[simp] theorem State.setMgmt_cg (s : State) (m : Mgmt) : (s.setMgmt m).cg = s.cg := rfl
@[simp] theorem State.setMgmt_cgHeld (s : State) (m : Mgmt) : (s.setMgmt m).cgHeld = s.cgHeld := rfl
@[simp] theorem State.setMgmt_clock (s : State) (m : Mgmt) : (s.setMgmt m).clock = s.clock := rfl
@[simp] theorem State.setMgmt_agenda (s : State) (m : Mgmt) : (s.setMgmt m).agenda = s.agenda := rfl
@[simp] theorem State.setMgmt_cur (s : State) (m : Mgmt) : (s.setMgmt m).cur = s.cur := rfl
@[simp] theorem State.setMgmt_ticks (s : State) (m : Mgmt) : (s.setMgmt m).ticks = s.ticks := rfl

/-! `State.mapLink`. -/

@[simp] theorem State.mapLink_cores (s : State) (f : Link → Link) : (s.mapLink f).cores = s.cores := rfl
@[simp] theorem State.mapLink_mem (s : State) (f : Link → Link) : (s.mapLink f).mem = s.mem := rfl
@[simp] theorem State.mapLink_frz (s : State) (f : Link → Link) : (s.mapLink f).frz = s.frz := rfl
@[simp] theorem State.mapLink_posts (s : State) (f : Link → Link) : (s.mapLink f).posts = s.posts := rfl
@[simp] theorem State.mapLink_replies (s : State) (f : Link → Link) : (s.mapLink f).replies = s.replies := rfl
@[simp] theorem State.mapLink_conf (s : State) (f : Link → Link) : (s.mapLink f).conf = s.conf := rfl
@[simp] theorem State.mapLink_sched (s : State) (f : Link → Link) : (s.mapLink f).sched = s.sched := rfl
@[simp] theorem State.mapLink_mgmt (s : State) (f : Link → Link) : (s.mapLink f).mgmt = s.mgmt := rfl
@[simp] theorem State.mapLink_vectors (s : State) (f : Link → Link) : (s.mapLink f).vectors = s.vectors := rfl
@[simp] theorem State.mapLink_msix (s : State) (f : Link → Link) : (s.mapLink f).msix = s.msix := rfl
@[simp] theorem State.mapLink_pba (s : State) (f : Link → Link) : (s.mapLink f).pba = s.pba := rfl
@[simp] theorem State.mapLink_hostReads (s : State) (f : Link → Link) : (s.mapLink f).hostReads = s.hostReads := rfl
@[simp] theorem State.mapLink_port (s : State) (f : Link → Link) : (s.mapLink f).port = s.port := rfl
@[simp] theorem State.mapLink_cg (s : State) (f : Link → Link) : (s.mapLink f).cg = s.cg := rfl
@[simp] theorem State.mapLink_cgHeld (s : State) (f : Link → Link) : (s.mapLink f).cgHeld = s.cgHeld := rfl
@[simp] theorem State.mapLink_clock (s : State) (f : Link → Link) : (s.mapLink f).clock = s.clock := rfl
@[simp] theorem State.mapLink_agenda (s : State) (f : Link → Link) : (s.mapLink f).agenda = s.agenda := rfl
@[simp] theorem State.mapLink_cur (s : State) (f : Link → Link) : (s.mapLink f).cur = s.cur := rfl
@[simp] theorem State.mapLink_ticks (s : State) (f : Link → Link) : (s.mapLink f).ticks = s.ticks := rfl

/-! `State.answer`. -/

@[simp] theorem State.answer_cores (s : State) (a : LinkAnswer) : (s.answer a).cores = s.cores := rfl
@[simp] theorem State.answer_mem (s : State) (a : LinkAnswer) : (s.answer a).mem = s.mem := rfl
@[simp] theorem State.answer_frz (s : State) (a : LinkAnswer) : (s.answer a).frz = s.frz := rfl
@[simp] theorem State.answer_posts (s : State) (a : LinkAnswer) : (s.answer a).posts = s.posts := rfl
@[simp] theorem State.answer_replies (s : State) (a : LinkAnswer) : (s.answer a).replies = s.replies := rfl
@[simp] theorem State.answer_conf (s : State) (a : LinkAnswer) : (s.answer a).conf = s.conf := rfl
@[simp] theorem State.answer_sched (s : State) (a : LinkAnswer) : (s.answer a).sched = s.sched := rfl
@[simp] theorem State.answer_mgmt (s : State) (a : LinkAnswer) : (s.answer a).mgmt = s.mgmt := rfl
@[simp] theorem State.answer_vectors (s : State) (a : LinkAnswer) : (s.answer a).vectors = s.vectors := rfl
@[simp] theorem State.answer_msix (s : State) (a : LinkAnswer) : (s.answer a).msix = s.msix := rfl
@[simp] theorem State.answer_pba (s : State) (a : LinkAnswer) : (s.answer a).pba = s.pba := rfl
@[simp] theorem State.answer_hostReads (s : State) (a : LinkAnswer) : (s.answer a).hostReads = s.hostReads := rfl
@[simp] theorem State.answer_port (s : State) (a : LinkAnswer) : (s.answer a).port = s.port := rfl
@[simp] theorem State.answer_cg (s : State) (a : LinkAnswer) : (s.answer a).cg = s.cg := rfl
@[simp] theorem State.answer_cgHeld (s : State) (a : LinkAnswer) : (s.answer a).cgHeld = s.cgHeld := rfl
@[simp] theorem State.answer_clock (s : State) (a : LinkAnswer) : (s.answer a).clock = s.clock := rfl
@[simp] theorem State.answer_agenda (s : State) (a : LinkAnswer) : (s.answer a).agenda = s.agenda := rfl
@[simp] theorem State.answer_cur (s : State) (a : LinkAnswer) : (s.answer a).cur = s.cur := rfl
@[simp] theorem State.answer_ticks (s : State) (a : LinkAnswer) : (s.answer a).ticks = s.ticks := rfl

/-! `State.noteHot`. -/

@[simp] theorem State.noteHot_cores (s : State) : (s.noteHot).cores = s.cores := rfl
@[simp] theorem State.noteHot_mem (s : State) : (s.noteHot).mem = s.mem := rfl
@[simp] theorem State.noteHot_frz (s : State) : (s.noteHot).frz = s.frz := rfl
@[simp] theorem State.noteHot_posts (s : State) : (s.noteHot).posts = s.posts := rfl
@[simp] theorem State.noteHot_replies (s : State) : (s.noteHot).replies = s.replies := rfl
@[simp] theorem State.noteHot_conf (s : State) : (s.noteHot).conf = s.conf := rfl
@[simp] theorem State.noteHot_mgmt (s : State) : (s.noteHot).mgmt = s.mgmt := rfl
@[simp] theorem State.noteHot_link (s : State) : (s.noteHot).link = s.link := rfl
@[simp] theorem State.noteHot_vectors (s : State) : (s.noteHot).vectors = s.vectors := rfl
@[simp] theorem State.noteHot_msix (s : State) : (s.noteHot).msix = s.msix := rfl
@[simp] theorem State.noteHot_pba (s : State) : (s.noteHot).pba = s.pba := rfl
@[simp] theorem State.noteHot_hostReads (s : State) : (s.noteHot).hostReads = s.hostReads := rfl
@[simp] theorem State.noteHot_port (s : State) : (s.noteHot).port = s.port := rfl
@[simp] theorem State.noteHot_cg (s : State) : (s.noteHot).cg = s.cg := rfl
@[simp] theorem State.noteHot_cgHeld (s : State) : (s.noteHot).cgHeld = s.cgHeld := rfl
@[simp] theorem State.noteHot_clock (s : State) : (s.noteHot).clock = s.clock := rfl
@[simp] theorem State.noteHot_agenda (s : State) : (s.noteHot).agenda = s.agenda := rfl
@[simp] theorem State.noteHot_cur (s : State) : (s.noteHot).cur = s.cur := rfl
@[simp] theorem State.noteHot_ticks (s : State) : (s.noteHot).ticks = s.ticks := rfl

/-! `State.addLaunch`. -/

@[simp] theorem State.addLaunch_cores (s : State) (q : QueueId) (l : Launch) : (s.addLaunch q l).cores = s.cores := rfl
@[simp] theorem State.addLaunch_mem (s : State) (q : QueueId) (l : Launch) : (s.addLaunch q l).mem = s.mem := rfl
@[simp] theorem State.addLaunch_frz (s : State) (q : QueueId) (l : Launch) : (s.addLaunch q l).frz = s.frz := rfl
@[simp] theorem State.addLaunch_posts (s : State) (q : QueueId) (l : Launch) : (s.addLaunch q l).posts = s.posts := rfl
@[simp] theorem State.addLaunch_replies (s : State) (q : QueueId) (l : Launch) : (s.addLaunch q l).replies = s.replies := rfl
@[simp] theorem State.addLaunch_conf (s : State) (q : QueueId) (l : Launch) : (s.addLaunch q l).conf = s.conf := rfl
@[simp] theorem State.addLaunch_mgmt (s : State) (q : QueueId) (l : Launch) : (s.addLaunch q l).mgmt = s.mgmt := rfl
@[simp] theorem State.addLaunch_link (s : State) (q : QueueId) (l : Launch) : (s.addLaunch q l).link = s.link := rfl
@[simp] theorem State.addLaunch_vectors (s : State) (q : QueueId) (l : Launch) : (s.addLaunch q l).vectors = s.vectors := rfl
@[simp] theorem State.addLaunch_msix (s : State) (q : QueueId) (l : Launch) : (s.addLaunch q l).msix = s.msix := rfl
@[simp] theorem State.addLaunch_pba (s : State) (q : QueueId) (l : Launch) : (s.addLaunch q l).pba = s.pba := rfl
@[simp] theorem State.addLaunch_hostReads (s : State) (q : QueueId) (l : Launch) : (s.addLaunch q l).hostReads = s.hostReads := rfl
@[simp] theorem State.addLaunch_port (s : State) (q : QueueId) (l : Launch) : (s.addLaunch q l).port = s.port := rfl
@[simp] theorem State.addLaunch_cg (s : State) (q : QueueId) (l : Launch) : (s.addLaunch q l).cg = s.cg := rfl
@[simp] theorem State.addLaunch_cgHeld (s : State) (q : QueueId) (l : Launch) : (s.addLaunch q l).cgHeld = s.cgHeld := rfl
@[simp] theorem State.addLaunch_clock (s : State) (q : QueueId) (l : Launch) : (s.addLaunch q l).clock = s.clock := rfl
@[simp] theorem State.addLaunch_agenda (s : State) (q : QueueId) (l : Launch) : (s.addLaunch q l).agenda = s.agenda := rfl
@[simp] theorem State.addLaunch_cur (s : State) (q : QueueId) (l : Launch) : (s.addLaunch q l).cur = s.cur := rfl
@[simp] theorem State.addLaunch_ticks (s : State) (q : QueueId) (l : Launch) : (s.addLaunch q l).ticks = s.ticks := rfl

/-! `State.tick`. -/

@[simp] theorem State.tick_mem (s : State) : (s.tick).mem = s.mem := rfl
@[simp] theorem State.tick_frz (s : State) : (s.tick).frz = s.frz := rfl
@[simp] theorem State.tick_posts (s : State) : (s.tick).posts = s.posts := rfl
@[simp] theorem State.tick_replies (s : State) : (s.tick).replies = s.replies := rfl
@[simp] theorem State.tick_conf (s : State) : (s.tick).conf = s.conf := rfl
@[simp] theorem State.tick_sched (s : State) : (s.tick).sched = s.sched := rfl
@[simp] theorem State.tick_mgmt (s : State) : (s.tick).mgmt = s.mgmt := rfl
@[simp] theorem State.tick_link (s : State) : (s.tick).link = s.link := rfl
@[simp] theorem State.tick_vectors (s : State) : (s.tick).vectors = s.vectors := rfl
@[simp] theorem State.tick_msix (s : State) : (s.tick).msix = s.msix := rfl
@[simp] theorem State.tick_pba (s : State) : (s.tick).pba = s.pba := rfl
@[simp] theorem State.tick_hostReads (s : State) : (s.tick).hostReads = s.hostReads := rfl
@[simp] theorem State.tick_port (s : State) : (s.tick).port = s.port := rfl
@[simp] theorem State.tick_cg (s : State) : (s.tick).cg = s.cg := rfl
@[simp] theorem State.tick_cgHeld (s : State) : (s.tick).cgHeld = s.cgHeld := rfl
@[simp] theorem State.tick_agenda (s : State) : (s.tick).agenda = s.agenda := rfl
@[simp] theorem State.tick_cur (s : State) : (s.tick).cur = s.cur := rfl

/-! `State.logDeniedAt`. -/

@[simp] theorem State.logDeniedAt_cores (s : State) (m : Master) (t pa : Nat) : (s.logDeniedAt m t pa).cores = s.cores := rfl
@[simp] theorem State.logDeniedAt_mem (s : State) (m : Master) (t pa : Nat) : (s.logDeniedAt m t pa).mem = s.mem := rfl
@[simp] theorem State.logDeniedAt_frz (s : State) (m : Master) (t pa : Nat) : (s.logDeniedAt m t pa).frz = s.frz := rfl
@[simp] theorem State.logDeniedAt_posts (s : State) (m : Master) (t pa : Nat) : (s.logDeniedAt m t pa).posts = s.posts := rfl
@[simp] theorem State.logDeniedAt_replies (s : State) (m : Master) (t pa : Nat) : (s.logDeniedAt m t pa).replies = s.replies := rfl
@[simp] theorem State.logDeniedAt_conf (s : State) (m : Master) (t pa : Nat) : (s.logDeniedAt m t pa).conf = s.conf := rfl
@[simp] theorem State.logDeniedAt_sched (s : State) (m : Master) (t pa : Nat) : (s.logDeniedAt m t pa).sched = s.sched := rfl
@[simp] theorem State.logDeniedAt_link (s : State) (m : Master) (t pa : Nat) : (s.logDeniedAt m t pa).link = s.link := rfl
@[simp] theorem State.logDeniedAt_msix (s : State) (m : Master) (t pa : Nat) : (s.logDeniedAt m t pa).msix = s.msix := rfl
@[simp] theorem State.logDeniedAt_hostReads (s : State) (m : Master) (t pa : Nat) : (s.logDeniedAt m t pa).hostReads = s.hostReads := rfl
@[simp] theorem State.logDeniedAt_port (s : State) (m : Master) (t pa : Nat) : (s.logDeniedAt m t pa).port = s.port := rfl
@[simp] theorem State.logDeniedAt_cg (s : State) (m : Master) (t pa : Nat) : (s.logDeniedAt m t pa).cg = s.cg := rfl
@[simp] theorem State.logDeniedAt_cgHeld (s : State) (m : Master) (t pa : Nat) : (s.logDeniedAt m t pa).cgHeld = s.cgHeld := rfl
@[simp] theorem State.logDeniedAt_clock (s : State) (m : Master) (t pa : Nat) : (s.logDeniedAt m t pa).clock = s.clock := rfl
@[simp] theorem State.logDeniedAt_agenda (s : State) (m : Master) (t pa : Nat) : (s.logDeniedAt m t pa).agenda = s.agenda := rfl
@[simp] theorem State.logDeniedAt_cur (s : State) (m : Master) (t pa : Nat) : (s.logDeniedAt m t pa).cur = s.cur := rfl
@[simp] theorem State.logDeniedAt_ticks (s : State) (m : Master) (t pa : Nat) : (s.logDeniedAt m t pa).ticks = s.ticks := rfl

/-! `Core.setCopies`. -/

@[simp] theorem Core.setCopies_task (k : Core) (l : List CopyOp) : (k.setCopies l).task = k.task := rfl
@[simp] theorem Core.setCopies_held (k : Core) (l : List CopyOp) : (k.setCopies l).held = k.held := rfl
@[simp] theorem Core.setCopies_halting (k : Core) (l : List CopyOp) : (k.setCopies l).halting = k.halting := rfl
@[simp] theorem Core.setCopies_halted (k : Core) (l : List CopyOp) : (k.setCopies l).halted = k.halted := rfl
@[simp] theorem Core.setCopies_loading (k : Core) (l : List CopyOp) : (k.setCopies l).loading = k.loading := rfl
@[simp] theorem Core.setCopies_asleep (k : Core) (l : List CopyOp) : (k.setCopies l).asleep = k.asleep := rfl
@[simp] theorem Core.setCopies_sleepAdvances (k : Core) (l : List CopyOp) : (k.setCopies l).sleepAdvances = k.sleepAdvances := rfl
@[simp] theorem Core.setCopies_main (k : Core) (l : List CopyOp) : (k.setCopies l).main = k.main := rfl
@[simp] theorem Core.setCopies_err (k : Core) (l : List CopyOp) : (k.setCopies l).err = k.err := rfl
@[simp] theorem Core.setCopies_run (k : Core) (l : List CopyOp) : (k.setCopies l).run = k.run := rfl
@[simp] theorem Core.setCopies_mbox (k : Core) (l : List CopyOp) : (k.setCopies l).mbox = k.mbox := rfl
@[simp] theorem Core.setCopies_m (k : Core) (l : List CopyOp) : (k.setCopies l).m = k.m := rfl
@[simp] theorem Core.setCopies_t (k : Core) (l : List CopyOp) : (k.setCopies l).t = k.t := rfl
@[simp] theorem Core.setCopies_a (k : Core) (l : List CopyOp) : (k.setCopies l).a = k.a := rfl
@[simp] theorem Core.setCopies_rot (k : Core) (l : List CopyOp) : (k.setCopies l).rot = k.rot := rfl
@[simp] theorem Core.setCopies_ls (k : Core) (l : List CopyOp) : (k.setCopies l).ls = k.ls := rfl
@[simp] theorem Core.setCopies_bad (k : Core) (l : List CopyOp) : (k.setCopies l).bad = k.bad := rfl
@[simp] theorem Core.setCopies_full (k : Core) (l : List CopyOp) : (k.setCopies l).full = k.full := rfl
@[simp] theorem Core.setCopies_claims (k : Core) (l : List CopyOp) : (k.setCopies l).claims = k.claims := rfl
@[simp] theorem Core.setCopies_cells (k : Core) (l : List CopyOp) : (k.setCopies l).cells = k.cells := rfl
@[simp] theorem Core.setCopies_slots (k : Core) (l : List CopyOp) : (k.setCopies l).slots = k.slots := rfl
@[simp] theorem Core.setCopies_codegen (k : Core) (l : List CopyOp) : (k.setCopies l).codegen = k.codegen := rfl
@[simp] theorem Core.setCopies_scopemiss (k : Core) (l : List CopyOp) : (k.setCopies l).scopemiss = k.scopemiss := rfl
@[simp] theorem Core.setCopies_fcause (k : Core) (l : List CopyOp) : (k.setCopies l).fcause = k.fcause := rfl
@[simp] theorem Core.setCopies_counters (k : Core) (l : List CopyOp) : (k.setCopies l).counters = k.counters := rfl
@[simp] theorem Core.setCopies_epoch (k : Core) (l : List CopyOp) : (k.setCopies l).epoch = k.epoch := rfl
@[simp] theorem Core.setCopies_writes (k : Core) (l : List CopyOp) : (k.setCopies l).writes = k.writes := rfl
@[simp] theorem Core.setCopies_batches (k : Core) (l : List CopyOp) : (k.setCopies l).batches = k.batches := rfl
@[simp] theorem Core.setCopies_batchCtr (k : Core) (l : List CopyOp) : (k.setCopies l).batchCtr = k.batchCtr := rfl
@[simp] theorem Core.setCopies_order (k : Core) (l : List CopyOp) : (k.setCopies l).order = k.order := rfl
@[simp] theorem Core.setCopies_barPhase (k : Core) (l : List CopyOp) : (k.setCopies l).barPhase = k.barPhase := rfl
@[simp] theorem Core.setCopies_barCell (k : Core) (l : List CopyOp) : (k.setCopies l).barCell = k.barCell := rfl
@[simp] theorem Core.setCopies_barLost (k : Core) (l : List CopyOp) : (k.setCopies l).barLost = k.barLost := rfl
@[simp] theorem Core.setCopies_thawBound (k : Core) (l : List CopyOp) : (k.setCopies l).thawBound = k.thawBound := rfl
@[simp] theorem Core.setCopies_rowUnits (k : Core) (l : List CopyOp) : (k.setCopies l).rowUnits = k.rowUnits := rfl
@[simp] theorem Core.setCopies_gather (k : Core) (l : List CopyOp) : (k.setCopies l).gather = k.gather := rfl
@[simp] theorem Core.setCopies_deferred (k : Core) (l : List CopyOp) : (k.setCopies l).deferred = k.deferred := rfl
@[simp] theorem Core.setCopies_l1i (k : Core) (l : List CopyOp) : (k.setCopies l).l1i = k.l1i := rfl
@[simp] theorem Core.setCopies_prefetched (k : Core) (l : List CopyOp) : (k.setCopies l).prefetched = k.prefetched := rfl
@[simp] theorem Core.setCopies_tlb (k : Core) (l : List CopyOp) : (k.setCopies l).tlb = k.tlb := rfl
@[simp] theorem Core.setCopies_itlb (k : Core) (l : List CopyOp) : (k.setCopies l).itlb = k.itlb := rfl
@[simp] theorem Core.setCopies_walks (k : Core) (l : List CopyOp) : (k.setCopies l).walks = k.walks := rfl

/-! `Core.leaveWrite`. -/

@[simp] theorem Core.leaveWrite_task (k : Core) (n : Nat) (gs : List Seg) : (k.leaveWrite n gs).task = k.task := rfl
@[simp] theorem Core.leaveWrite_held (k : Core) (n : Nat) (gs : List Seg) : (k.leaveWrite n gs).held = k.held := rfl
@[simp] theorem Core.leaveWrite_halting (k : Core) (n : Nat) (gs : List Seg) : (k.leaveWrite n gs).halting = k.halting := rfl
@[simp] theorem Core.leaveWrite_halted (k : Core) (n : Nat) (gs : List Seg) : (k.leaveWrite n gs).halted = k.halted := rfl
@[simp] theorem Core.leaveWrite_loading (k : Core) (n : Nat) (gs : List Seg) : (k.leaveWrite n gs).loading = k.loading := rfl
@[simp] theorem Core.leaveWrite_asleep (k : Core) (n : Nat) (gs : List Seg) : (k.leaveWrite n gs).asleep = k.asleep := rfl
@[simp] theorem Core.leaveWrite_sleepAdvances (k : Core) (n : Nat) (gs : List Seg) : (k.leaveWrite n gs).sleepAdvances = k.sleepAdvances := rfl
@[simp] theorem Core.leaveWrite_main (k : Core) (n : Nat) (gs : List Seg) : (k.leaveWrite n gs).main = k.main := rfl
@[simp] theorem Core.leaveWrite_err (k : Core) (n : Nat) (gs : List Seg) : (k.leaveWrite n gs).err = k.err := rfl
@[simp] theorem Core.leaveWrite_run (k : Core) (n : Nat) (gs : List Seg) : (k.leaveWrite n gs).run = k.run := rfl
@[simp] theorem Core.leaveWrite_mbox (k : Core) (n : Nat) (gs : List Seg) : (k.leaveWrite n gs).mbox = k.mbox := rfl
@[simp] theorem Core.leaveWrite_m (k : Core) (n : Nat) (gs : List Seg) : (k.leaveWrite n gs).m = k.m := rfl
@[simp] theorem Core.leaveWrite_t (k : Core) (n : Nat) (gs : List Seg) : (k.leaveWrite n gs).t = k.t := rfl
@[simp] theorem Core.leaveWrite_a (k : Core) (n : Nat) (gs : List Seg) : (k.leaveWrite n gs).a = k.a := rfl
@[simp] theorem Core.leaveWrite_rot (k : Core) (n : Nat) (gs : List Seg) : (k.leaveWrite n gs).rot = k.rot := rfl
@[simp] theorem Core.leaveWrite_ls (k : Core) (n : Nat) (gs : List Seg) : (k.leaveWrite n gs).ls = k.ls := rfl
@[simp] theorem Core.leaveWrite_bad (k : Core) (n : Nat) (gs : List Seg) : (k.leaveWrite n gs).bad = k.bad := rfl
@[simp] theorem Core.leaveWrite_full (k : Core) (n : Nat) (gs : List Seg) : (k.leaveWrite n gs).full = k.full := rfl
@[simp] theorem Core.leaveWrite_claims (k : Core) (n : Nat) (gs : List Seg) : (k.leaveWrite n gs).claims = k.claims := rfl
@[simp] theorem Core.leaveWrite_cells (k : Core) (n : Nat) (gs : List Seg) : (k.leaveWrite n gs).cells = k.cells := rfl
@[simp] theorem Core.leaveWrite_slots (k : Core) (n : Nat) (gs : List Seg) : (k.leaveWrite n gs).slots = k.slots := rfl
@[simp] theorem Core.leaveWrite_codegen (k : Core) (n : Nat) (gs : List Seg) : (k.leaveWrite n gs).codegen = k.codegen := rfl
@[simp] theorem Core.leaveWrite_scopemiss (k : Core) (n : Nat) (gs : List Seg) : (k.leaveWrite n gs).scopemiss = k.scopemiss := rfl
@[simp] theorem Core.leaveWrite_fcause (k : Core) (n : Nat) (gs : List Seg) : (k.leaveWrite n gs).fcause = k.fcause := rfl
@[simp] theorem Core.leaveWrite_counters (k : Core) (n : Nat) (gs : List Seg) : (k.leaveWrite n gs).counters = k.counters := rfl
@[simp] theorem Core.leaveWrite_epoch (k : Core) (n : Nat) (gs : List Seg) : (k.leaveWrite n gs).epoch = k.epoch := rfl
@[simp] theorem Core.leaveWrite_copies (k : Core) (n : Nat) (gs : List Seg) : (k.leaveWrite n gs).copies = k.copies := rfl
@[simp] theorem Core.leaveWrite_batches (k : Core) (n : Nat) (gs : List Seg) : (k.leaveWrite n gs).batches = k.batches := rfl
@[simp] theorem Core.leaveWrite_batchCtr (k : Core) (n : Nat) (gs : List Seg) : (k.leaveWrite n gs).batchCtr = k.batchCtr := rfl
@[simp] theorem Core.leaveWrite_order (k : Core) (n : Nat) (gs : List Seg) : (k.leaveWrite n gs).order = k.order := rfl
@[simp] theorem Core.leaveWrite_barPhase (k : Core) (n : Nat) (gs : List Seg) : (k.leaveWrite n gs).barPhase = k.barPhase := rfl
@[simp] theorem Core.leaveWrite_barCell (k : Core) (n : Nat) (gs : List Seg) : (k.leaveWrite n gs).barCell = k.barCell := rfl
@[simp] theorem Core.leaveWrite_barLost (k : Core) (n : Nat) (gs : List Seg) : (k.leaveWrite n gs).barLost = k.barLost := rfl
@[simp] theorem Core.leaveWrite_thawBound (k : Core) (n : Nat) (gs : List Seg) : (k.leaveWrite n gs).thawBound = k.thawBound := rfl
@[simp] theorem Core.leaveWrite_rowUnits (k : Core) (n : Nat) (gs : List Seg) : (k.leaveWrite n gs).rowUnits = k.rowUnits := rfl
@[simp] theorem Core.leaveWrite_gather (k : Core) (n : Nat) (gs : List Seg) : (k.leaveWrite n gs).gather = k.gather := rfl
@[simp] theorem Core.leaveWrite_deferred (k : Core) (n : Nat) (gs : List Seg) : (k.leaveWrite n gs).deferred = k.deferred := rfl
@[simp] theorem Core.leaveWrite_l1i (k : Core) (n : Nat) (gs : List Seg) : (k.leaveWrite n gs).l1i = k.l1i := rfl
@[simp] theorem Core.leaveWrite_prefetched (k : Core) (n : Nat) (gs : List Seg) : (k.leaveWrite n gs).prefetched = k.prefetched := rfl
@[simp] theorem Core.leaveWrite_tlb (k : Core) (n : Nat) (gs : List Seg) : (k.leaveWrite n gs).tlb = k.tlb := rfl
@[simp] theorem Core.leaveWrite_itlb (k : Core) (n : Nat) (gs : List Seg) : (k.leaveWrite n gs).itlb = k.itlb := rfl
@[simp] theorem Core.leaveWrite_walks (k : Core) (n : Nat) (gs : List Seg) : (k.leaveWrite n gs).walks = k.walks := rfl

/-! `Core.advanceEpoch`. -/

@[simp] theorem Core.advanceEpoch_task (k : Core) : (k.advanceEpoch).task = k.task := rfl
@[simp] theorem Core.advanceEpoch_held (k : Core) : (k.advanceEpoch).held = k.held := rfl
@[simp] theorem Core.advanceEpoch_halting (k : Core) : (k.advanceEpoch).halting = k.halting := rfl
@[simp] theorem Core.advanceEpoch_halted (k : Core) : (k.advanceEpoch).halted = k.halted := rfl
@[simp] theorem Core.advanceEpoch_loading (k : Core) : (k.advanceEpoch).loading = k.loading := rfl
@[simp] theorem Core.advanceEpoch_asleep (k : Core) : (k.advanceEpoch).asleep = k.asleep := rfl
@[simp] theorem Core.advanceEpoch_sleepAdvances (k : Core) : (k.advanceEpoch).sleepAdvances = k.sleepAdvances := rfl
@[simp] theorem Core.advanceEpoch_main (k : Core) : (k.advanceEpoch).main = k.main := rfl
@[simp] theorem Core.advanceEpoch_err (k : Core) : (k.advanceEpoch).err = k.err := rfl
@[simp] theorem Core.advanceEpoch_run (k : Core) : (k.advanceEpoch).run = k.run := rfl
@[simp] theorem Core.advanceEpoch_mbox (k : Core) : (k.advanceEpoch).mbox = k.mbox := rfl
@[simp] theorem Core.advanceEpoch_m (k : Core) : (k.advanceEpoch).m = k.m := rfl
@[simp] theorem Core.advanceEpoch_t (k : Core) : (k.advanceEpoch).t = k.t := rfl
@[simp] theorem Core.advanceEpoch_a (k : Core) : (k.advanceEpoch).a = k.a := rfl
@[simp] theorem Core.advanceEpoch_rot (k : Core) : (k.advanceEpoch).rot = k.rot := rfl
@[simp] theorem Core.advanceEpoch_ls (k : Core) : (k.advanceEpoch).ls = k.ls := rfl
@[simp] theorem Core.advanceEpoch_bad (k : Core) : (k.advanceEpoch).bad = k.bad := rfl
@[simp] theorem Core.advanceEpoch_full (k : Core) : (k.advanceEpoch).full = k.full := rfl
@[simp] theorem Core.advanceEpoch_claims (k : Core) : (k.advanceEpoch).claims = k.claims := rfl
@[simp] theorem Core.advanceEpoch_cells (k : Core) : (k.advanceEpoch).cells = k.cells := rfl
@[simp] theorem Core.advanceEpoch_slots (k : Core) : (k.advanceEpoch).slots = k.slots := rfl
@[simp] theorem Core.advanceEpoch_codegen (k : Core) : (k.advanceEpoch).codegen = k.codegen := rfl
@[simp] theorem Core.advanceEpoch_scopemiss (k : Core) : (k.advanceEpoch).scopemiss = k.scopemiss := rfl
@[simp] theorem Core.advanceEpoch_fcause (k : Core) : (k.advanceEpoch).fcause = k.fcause := rfl
@[simp] theorem Core.advanceEpoch_counters (k : Core) : (k.advanceEpoch).counters = k.counters := rfl
@[simp] theorem Core.advanceEpoch_writes (k : Core) : (k.advanceEpoch).writes = k.writes := rfl
@[simp] theorem Core.advanceEpoch_copies (k : Core) : (k.advanceEpoch).copies = k.copies := rfl
@[simp] theorem Core.advanceEpoch_batches (k : Core) : (k.advanceEpoch).batches = k.batches := rfl
@[simp] theorem Core.advanceEpoch_batchCtr (k : Core) : (k.advanceEpoch).batchCtr = k.batchCtr := rfl
@[simp] theorem Core.advanceEpoch_order (k : Core) : (k.advanceEpoch).order = k.order := rfl
@[simp] theorem Core.advanceEpoch_barPhase (k : Core) : (k.advanceEpoch).barPhase = k.barPhase := rfl
@[simp] theorem Core.advanceEpoch_barCell (k : Core) : (k.advanceEpoch).barCell = k.barCell := rfl
@[simp] theorem Core.advanceEpoch_barLost (k : Core) : (k.advanceEpoch).barLost = k.barLost := rfl
@[simp] theorem Core.advanceEpoch_thawBound (k : Core) : (k.advanceEpoch).thawBound = k.thawBound := rfl
@[simp] theorem Core.advanceEpoch_rowUnits (k : Core) : (k.advanceEpoch).rowUnits = k.rowUnits := rfl
@[simp] theorem Core.advanceEpoch_gather (k : Core) : (k.advanceEpoch).gather = k.gather := rfl
@[simp] theorem Core.advanceEpoch_deferred (k : Core) : (k.advanceEpoch).deferred = k.deferred := rfl
@[simp] theorem Core.advanceEpoch_l1i (k : Core) : (k.advanceEpoch).l1i = k.l1i := rfl
@[simp] theorem Core.advanceEpoch_prefetched (k : Core) : (k.advanceEpoch).prefetched = k.prefetched := rfl
@[simp] theorem Core.advanceEpoch_tlb (k : Core) : (k.advanceEpoch).tlb = k.tlb := rfl
@[simp] theorem Core.advanceEpoch_itlb (k : Core) : (k.advanceEpoch).itlb = k.itlb := rfl
@[simp] theorem Core.advanceEpoch_walks (k : Core) : (k.advanceEpoch).walks = k.walks := rfl

/-! `Core.failCopy`. -/

@[simp] theorem Core.failCopy_task (k : Core) (n : Nat) (b : Option (BitVec 32)) (x : FaultInfo) : (k.failCopy n b x).task = k.task := rfl
@[simp] theorem Core.failCopy_held (k : Core) (n : Nat) (b : Option (BitVec 32)) (x : FaultInfo) : (k.failCopy n b x).held = k.held := rfl
@[simp] theorem Core.failCopy_halting (k : Core) (n : Nat) (b : Option (BitVec 32)) (x : FaultInfo) : (k.failCopy n b x).halting = k.halting := rfl
@[simp] theorem Core.failCopy_halted (k : Core) (n : Nat) (b : Option (BitVec 32)) (x : FaultInfo) : (k.failCopy n b x).halted = k.halted := rfl
@[simp] theorem Core.failCopy_loading (k : Core) (n : Nat) (b : Option (BitVec 32)) (x : FaultInfo) : (k.failCopy n b x).loading = k.loading := rfl
@[simp] theorem Core.failCopy_asleep (k : Core) (n : Nat) (b : Option (BitVec 32)) (x : FaultInfo) : (k.failCopy n b x).asleep = k.asleep := rfl
@[simp] theorem Core.failCopy_sleepAdvances (k : Core) (n : Nat) (b : Option (BitVec 32)) (x : FaultInfo) : (k.failCopy n b x).sleepAdvances = k.sleepAdvances := rfl
@[simp] theorem Core.failCopy_main (k : Core) (n : Nat) (b : Option (BitVec 32)) (x : FaultInfo) : (k.failCopy n b x).main = k.main := rfl
@[simp] theorem Core.failCopy_err (k : Core) (n : Nat) (b : Option (BitVec 32)) (x : FaultInfo) : (k.failCopy n b x).err = k.err := rfl
@[simp] theorem Core.failCopy_run (k : Core) (n : Nat) (b : Option (BitVec 32)) (x : FaultInfo) : (k.failCopy n b x).run = k.run := rfl
@[simp] theorem Core.failCopy_mbox (k : Core) (n : Nat) (b : Option (BitVec 32)) (x : FaultInfo) : (k.failCopy n b x).mbox = k.mbox := rfl
@[simp] theorem Core.failCopy_m (k : Core) (n : Nat) (b : Option (BitVec 32)) (x : FaultInfo) : (k.failCopy n b x).m = k.m := rfl
@[simp] theorem Core.failCopy_t (k : Core) (n : Nat) (b : Option (BitVec 32)) (x : FaultInfo) : (k.failCopy n b x).t = k.t := rfl
@[simp] theorem Core.failCopy_a (k : Core) (n : Nat) (b : Option (BitVec 32)) (x : FaultInfo) : (k.failCopy n b x).a = k.a := rfl
@[simp] theorem Core.failCopy_rot (k : Core) (n : Nat) (b : Option (BitVec 32)) (x : FaultInfo) : (k.failCopy n b x).rot = k.rot := rfl
@[simp] theorem Core.failCopy_ls (k : Core) (n : Nat) (b : Option (BitVec 32)) (x : FaultInfo) : (k.failCopy n b x).ls = k.ls := rfl
@[simp] theorem Core.failCopy_bad (k : Core) (n : Nat) (b : Option (BitVec 32)) (x : FaultInfo) : (k.failCopy n b x).bad = k.bad := rfl
@[simp] theorem Core.failCopy_full (k : Core) (n : Nat) (b : Option (BitVec 32)) (x : FaultInfo) : (k.failCopy n b x).full = k.full := rfl
@[simp] theorem Core.failCopy_claims (k : Core) (n : Nat) (b : Option (BitVec 32)) (x : FaultInfo) : (k.failCopy n b x).claims = k.claims := rfl
@[simp] theorem Core.failCopy_cells (k : Core) (n : Nat) (b : Option (BitVec 32)) (x : FaultInfo) : (k.failCopy n b x).cells = k.cells := rfl
@[simp] theorem Core.failCopy_slots (k : Core) (n : Nat) (b : Option (BitVec 32)) (x : FaultInfo) : (k.failCopy n b x).slots = k.slots := rfl
@[simp] theorem Core.failCopy_codegen (k : Core) (n : Nat) (b : Option (BitVec 32)) (x : FaultInfo) : (k.failCopy n b x).codegen = k.codegen := rfl
@[simp] theorem Core.failCopy_scopemiss (k : Core) (n : Nat) (b : Option (BitVec 32)) (x : FaultInfo) : (k.failCopy n b x).scopemiss = k.scopemiss := rfl
@[simp] theorem Core.failCopy_fcause (k : Core) (n : Nat) (b : Option (BitVec 32)) (x : FaultInfo) : (k.failCopy n b x).fcause = k.fcause := rfl
@[simp] theorem Core.failCopy_counters (k : Core) (n : Nat) (b : Option (BitVec 32)) (x : FaultInfo) : (k.failCopy n b x).counters = k.counters := rfl
@[simp] theorem Core.failCopy_epoch (k : Core) (n : Nat) (b : Option (BitVec 32)) (x : FaultInfo) : (k.failCopy n b x).epoch = k.epoch := rfl
@[simp] theorem Core.failCopy_writes (k : Core) (n : Nat) (b : Option (BitVec 32)) (x : FaultInfo) : (k.failCopy n b x).writes = k.writes := rfl
@[simp] theorem Core.failCopy_batchCtr (k : Core) (n : Nat) (b : Option (BitVec 32)) (x : FaultInfo) : (k.failCopy n b x).batchCtr = k.batchCtr := rfl
@[simp] theorem Core.failCopy_order (k : Core) (n : Nat) (b : Option (BitVec 32)) (x : FaultInfo) : (k.failCopy n b x).order = k.order := rfl
@[simp] theorem Core.failCopy_barPhase (k : Core) (n : Nat) (b : Option (BitVec 32)) (x : FaultInfo) : (k.failCopy n b x).barPhase = k.barPhase := rfl
@[simp] theorem Core.failCopy_barCell (k : Core) (n : Nat) (b : Option (BitVec 32)) (x : FaultInfo) : (k.failCopy n b x).barCell = k.barCell := rfl
@[simp] theorem Core.failCopy_barLost (k : Core) (n : Nat) (b : Option (BitVec 32)) (x : FaultInfo) : (k.failCopy n b x).barLost = k.barLost := rfl
@[simp] theorem Core.failCopy_thawBound (k : Core) (n : Nat) (b : Option (BitVec 32)) (x : FaultInfo) : (k.failCopy n b x).thawBound = k.thawBound := rfl
@[simp] theorem Core.failCopy_rowUnits (k : Core) (n : Nat) (b : Option (BitVec 32)) (x : FaultInfo) : (k.failCopy n b x).rowUnits = k.rowUnits := rfl
@[simp] theorem Core.failCopy_gather (k : Core) (n : Nat) (b : Option (BitVec 32)) (x : FaultInfo) : (k.failCopy n b x).gather = k.gather := rfl
@[simp] theorem Core.failCopy_deferred (k : Core) (n : Nat) (b : Option (BitVec 32)) (x : FaultInfo) : (k.failCopy n b x).deferred = k.deferred := rfl
@[simp] theorem Core.failCopy_l1i (k : Core) (n : Nat) (b : Option (BitVec 32)) (x : FaultInfo) : (k.failCopy n b x).l1i = k.l1i := rfl
@[simp] theorem Core.failCopy_prefetched (k : Core) (n : Nat) (b : Option (BitVec 32)) (x : FaultInfo) : (k.failCopy n b x).prefetched = k.prefetched := rfl
@[simp] theorem Core.failCopy_tlb (k : Core) (n : Nat) (b : Option (BitVec 32)) (x : FaultInfo) : (k.failCopy n b x).tlb = k.tlb := rfl
@[simp] theorem Core.failCopy_itlb (k : Core) (n : Nat) (b : Option (BitVec 32)) (x : FaultInfo) : (k.failCopy n b x).itlb = k.itlb := rfl
@[simp] theorem Core.failCopy_walks (k : Core) (n : Nat) (b : Option (BitVec 32)) (x : FaultInfo) : (k.failCopy n b x).walks = k.walks := rfl

/-! `Core.finishCopy`. -/

@[simp] theorem Core.finishCopy_task (k : Core) (n : Nat) (b : Option (BitVec 32)) : (k.finishCopy n b).task = k.task := rfl
@[simp] theorem Core.finishCopy_held (k : Core) (n : Nat) (b : Option (BitVec 32)) : (k.finishCopy n b).held = k.held := rfl
@[simp] theorem Core.finishCopy_halting (k : Core) (n : Nat) (b : Option (BitVec 32)) : (k.finishCopy n b).halting = k.halting := rfl
@[simp] theorem Core.finishCopy_halted (k : Core) (n : Nat) (b : Option (BitVec 32)) : (k.finishCopy n b).halted = k.halted := rfl
@[simp] theorem Core.finishCopy_loading (k : Core) (n : Nat) (b : Option (BitVec 32)) : (k.finishCopy n b).loading = k.loading := rfl
@[simp] theorem Core.finishCopy_asleep (k : Core) (n : Nat) (b : Option (BitVec 32)) : (k.finishCopy n b).asleep = k.asleep := rfl
@[simp] theorem Core.finishCopy_sleepAdvances (k : Core) (n : Nat) (b : Option (BitVec 32)) : (k.finishCopy n b).sleepAdvances = k.sleepAdvances := rfl
@[simp] theorem Core.finishCopy_main (k : Core) (n : Nat) (b : Option (BitVec 32)) : (k.finishCopy n b).main = k.main := rfl
@[simp] theorem Core.finishCopy_err (k : Core) (n : Nat) (b : Option (BitVec 32)) : (k.finishCopy n b).err = k.err := rfl
@[simp] theorem Core.finishCopy_run (k : Core) (n : Nat) (b : Option (BitVec 32)) : (k.finishCopy n b).run = k.run := rfl
@[simp] theorem Core.finishCopy_mbox (k : Core) (n : Nat) (b : Option (BitVec 32)) : (k.finishCopy n b).mbox = k.mbox := rfl
@[simp] theorem Core.finishCopy_m (k : Core) (n : Nat) (b : Option (BitVec 32)) : (k.finishCopy n b).m = k.m := rfl
@[simp] theorem Core.finishCopy_t (k : Core) (n : Nat) (b : Option (BitVec 32)) : (k.finishCopy n b).t = k.t := rfl
@[simp] theorem Core.finishCopy_a (k : Core) (n : Nat) (b : Option (BitVec 32)) : (k.finishCopy n b).a = k.a := rfl
@[simp] theorem Core.finishCopy_rot (k : Core) (n : Nat) (b : Option (BitVec 32)) : (k.finishCopy n b).rot = k.rot := rfl
@[simp] theorem Core.finishCopy_ls (k : Core) (n : Nat) (b : Option (BitVec 32)) : (k.finishCopy n b).ls = k.ls := rfl
@[simp] theorem Core.finishCopy_bad (k : Core) (n : Nat) (b : Option (BitVec 32)) : (k.finishCopy n b).bad = k.bad := rfl
@[simp] theorem Core.finishCopy_full (k : Core) (n : Nat) (b : Option (BitVec 32)) : (k.finishCopy n b).full = k.full := rfl
@[simp] theorem Core.finishCopy_claims (k : Core) (n : Nat) (b : Option (BitVec 32)) : (k.finishCopy n b).claims = k.claims := rfl
@[simp] theorem Core.finishCopy_cells (k : Core) (n : Nat) (b : Option (BitVec 32)) : (k.finishCopy n b).cells = k.cells := rfl
@[simp] theorem Core.finishCopy_slots (k : Core) (n : Nat) (b : Option (BitVec 32)) : (k.finishCopy n b).slots = k.slots := rfl
@[simp] theorem Core.finishCopy_codegen (k : Core) (n : Nat) (b : Option (BitVec 32)) : (k.finishCopy n b).codegen = k.codegen := rfl
@[simp] theorem Core.finishCopy_scopemiss (k : Core) (n : Nat) (b : Option (BitVec 32)) : (k.finishCopy n b).scopemiss = k.scopemiss := rfl
@[simp] theorem Core.finishCopy_fcause (k : Core) (n : Nat) (b : Option (BitVec 32)) : (k.finishCopy n b).fcause = k.fcause := rfl
@[simp] theorem Core.finishCopy_counters (k : Core) (n : Nat) (b : Option (BitVec 32)) : (k.finishCopy n b).counters = k.counters := rfl
@[simp] theorem Core.finishCopy_epoch (k : Core) (n : Nat) (b : Option (BitVec 32)) : (k.finishCopy n b).epoch = k.epoch := rfl
@[simp] theorem Core.finishCopy_writes (k : Core) (n : Nat) (b : Option (BitVec 32)) : (k.finishCopy n b).writes = k.writes := rfl
@[simp] theorem Core.finishCopy_batchCtr (k : Core) (n : Nat) (b : Option (BitVec 32)) : (k.finishCopy n b).batchCtr = k.batchCtr := rfl
@[simp] theorem Core.finishCopy_order (k : Core) (n : Nat) (b : Option (BitVec 32)) : (k.finishCopy n b).order = k.order := rfl
@[simp] theorem Core.finishCopy_barPhase (k : Core) (n : Nat) (b : Option (BitVec 32)) : (k.finishCopy n b).barPhase = k.barPhase := rfl
@[simp] theorem Core.finishCopy_barCell (k : Core) (n : Nat) (b : Option (BitVec 32)) : (k.finishCopy n b).barCell = k.barCell := rfl
@[simp] theorem Core.finishCopy_barLost (k : Core) (n : Nat) (b : Option (BitVec 32)) : (k.finishCopy n b).barLost = k.barLost := rfl
@[simp] theorem Core.finishCopy_thawBound (k : Core) (n : Nat) (b : Option (BitVec 32)) : (k.finishCopy n b).thawBound = k.thawBound := rfl
@[simp] theorem Core.finishCopy_rowUnits (k : Core) (n : Nat) (b : Option (BitVec 32)) : (k.finishCopy n b).rowUnits = k.rowUnits := rfl
@[simp] theorem Core.finishCopy_gather (k : Core) (n : Nat) (b : Option (BitVec 32)) : (k.finishCopy n b).gather = k.gather := rfl
@[simp] theorem Core.finishCopy_deferred (k : Core) (n : Nat) (b : Option (BitVec 32)) : (k.finishCopy n b).deferred = k.deferred := rfl
@[simp] theorem Core.finishCopy_l1i (k : Core) (n : Nat) (b : Option (BitVec 32)) : (k.finishCopy n b).l1i = k.l1i := rfl
@[simp] theorem Core.finishCopy_prefetched (k : Core) (n : Nat) (b : Option (BitVec 32)) : (k.finishCopy n b).prefetched = k.prefetched := rfl
@[simp] theorem Core.finishCopy_tlb (k : Core) (n : Nat) (b : Option (BitVec 32)) : (k.finishCopy n b).tlb = k.tlb := rfl
@[simp] theorem Core.finishCopy_itlb (k : Core) (n : Nat) (b : Option (BitVec 32)) : (k.finishCopy n b).itlb = k.itlb := rfl
@[simp] theorem Core.finishCopy_walks (k : Core) (n : Nat) (b : Option (BitVec 32)) : (k.finishCopy n b).walks = k.walks := rfl

/-! `Core.dropLines`. -/

@[simp] theorem Core.dropLines_task (k : Core) (ls : List Nat) : (k.dropLines ls).task = k.task := rfl
@[simp] theorem Core.dropLines_held (k : Core) (ls : List Nat) : (k.dropLines ls).held = k.held := rfl
@[simp] theorem Core.dropLines_halting (k : Core) (ls : List Nat) : (k.dropLines ls).halting = k.halting := rfl
@[simp] theorem Core.dropLines_halted (k : Core) (ls : List Nat) : (k.dropLines ls).halted = k.halted := rfl
@[simp] theorem Core.dropLines_loading (k : Core) (ls : List Nat) : (k.dropLines ls).loading = k.loading := rfl
@[simp] theorem Core.dropLines_asleep (k : Core) (ls : List Nat) : (k.dropLines ls).asleep = k.asleep := rfl
@[simp] theorem Core.dropLines_sleepAdvances (k : Core) (ls : List Nat) : (k.dropLines ls).sleepAdvances = k.sleepAdvances := rfl
@[simp] theorem Core.dropLines_main (k : Core) (ls : List Nat) : (k.dropLines ls).main = k.main := rfl
@[simp] theorem Core.dropLines_err (k : Core) (ls : List Nat) : (k.dropLines ls).err = k.err := rfl
@[simp] theorem Core.dropLines_run (k : Core) (ls : List Nat) : (k.dropLines ls).run = k.run := rfl
@[simp] theorem Core.dropLines_mbox (k : Core) (ls : List Nat) : (k.dropLines ls).mbox = k.mbox := rfl
@[simp] theorem Core.dropLines_m (k : Core) (ls : List Nat) : (k.dropLines ls).m = k.m := rfl
@[simp] theorem Core.dropLines_t (k : Core) (ls : List Nat) : (k.dropLines ls).t = k.t := rfl
@[simp] theorem Core.dropLines_a (k : Core) (ls : List Nat) : (k.dropLines ls).a = k.a := rfl
@[simp] theorem Core.dropLines_rot (k : Core) (ls : List Nat) : (k.dropLines ls).rot = k.rot := rfl
@[simp] theorem Core.dropLines_ls (k : Core) (ls : List Nat) : (k.dropLines ls).ls = k.ls := rfl
@[simp] theorem Core.dropLines_bad (k : Core) (ls : List Nat) : (k.dropLines ls).bad = k.bad := rfl
@[simp] theorem Core.dropLines_full (k : Core) (ls : List Nat) : (k.dropLines ls).full = k.full := rfl
@[simp] theorem Core.dropLines_claims (k : Core) (ls : List Nat) : (k.dropLines ls).claims = k.claims := rfl
@[simp] theorem Core.dropLines_cells (k : Core) (ls : List Nat) : (k.dropLines ls).cells = k.cells := rfl
@[simp] theorem Core.dropLines_slots (k : Core) (ls : List Nat) : (k.dropLines ls).slots = k.slots := rfl
@[simp] theorem Core.dropLines_codegen (k : Core) (ls : List Nat) : (k.dropLines ls).codegen = k.codegen := rfl
@[simp] theorem Core.dropLines_scopemiss (k : Core) (ls : List Nat) : (k.dropLines ls).scopemiss = k.scopemiss := rfl
@[simp] theorem Core.dropLines_fcause (k : Core) (ls : List Nat) : (k.dropLines ls).fcause = k.fcause := rfl
@[simp] theorem Core.dropLines_counters (k : Core) (ls : List Nat) : (k.dropLines ls).counters = k.counters := rfl
@[simp] theorem Core.dropLines_epoch (k : Core) (ls : List Nat) : (k.dropLines ls).epoch = k.epoch := rfl
@[simp] theorem Core.dropLines_writes (k : Core) (ls : List Nat) : (k.dropLines ls).writes = k.writes := rfl
@[simp] theorem Core.dropLines_copies (k : Core) (ls : List Nat) : (k.dropLines ls).copies = k.copies := rfl
@[simp] theorem Core.dropLines_batches (k : Core) (ls : List Nat) : (k.dropLines ls).batches = k.batches := rfl
@[simp] theorem Core.dropLines_batchCtr (k : Core) (ls : List Nat) : (k.dropLines ls).batchCtr = k.batchCtr := rfl
@[simp] theorem Core.dropLines_order (k : Core) (ls : List Nat) : (k.dropLines ls).order = k.order := rfl
@[simp] theorem Core.dropLines_barPhase (k : Core) (ls : List Nat) : (k.dropLines ls).barPhase = k.barPhase := rfl
@[simp] theorem Core.dropLines_barCell (k : Core) (ls : List Nat) : (k.dropLines ls).barCell = k.barCell := rfl
@[simp] theorem Core.dropLines_barLost (k : Core) (ls : List Nat) : (k.dropLines ls).barLost = k.barLost := rfl
@[simp] theorem Core.dropLines_thawBound (k : Core) (ls : List Nat) : (k.dropLines ls).thawBound = k.thawBound := rfl
@[simp] theorem Core.dropLines_rowUnits (k : Core) (ls : List Nat) : (k.dropLines ls).rowUnits = k.rowUnits := rfl
@[simp] theorem Core.dropLines_gather (k : Core) (ls : List Nat) : (k.dropLines ls).gather = k.gather := rfl
@[simp] theorem Core.dropLines_deferred (k : Core) (ls : List Nat) : (k.dropLines ls).deferred = k.deferred := rfl
@[simp] theorem Core.dropLines_tlb (k : Core) (ls : List Nat) : (k.dropLines ls).tlb = k.tlb := rfl
@[simp] theorem Core.dropLines_itlb (k : Core) (ls : List Nat) : (k.dropLines ls).itlb = k.itlb := rfl
@[simp] theorem Core.dropLines_walks (k : Core) (ls : List Nat) : (k.dropLines ls).walks = k.walks := rfl

/-! `Core.discardCode`. -/

@[simp] theorem Core.discardCode_task (k : Core) (ls : List Nat) : (k.discardCode ls).task = k.task := rfl
@[simp] theorem Core.discardCode_held (k : Core) (ls : List Nat) : (k.discardCode ls).held = k.held := rfl
@[simp] theorem Core.discardCode_halting (k : Core) (ls : List Nat) : (k.discardCode ls).halting = k.halting := rfl
@[simp] theorem Core.discardCode_halted (k : Core) (ls : List Nat) : (k.discardCode ls).halted = k.halted := rfl
@[simp] theorem Core.discardCode_loading (k : Core) (ls : List Nat) : (k.discardCode ls).loading = k.loading := rfl
@[simp] theorem Core.discardCode_asleep (k : Core) (ls : List Nat) : (k.discardCode ls).asleep = k.asleep := rfl
@[simp] theorem Core.discardCode_sleepAdvances (k : Core) (ls : List Nat) : (k.discardCode ls).sleepAdvances = k.sleepAdvances := rfl
@[simp] theorem Core.discardCode_main (k : Core) (ls : List Nat) : (k.discardCode ls).main = k.main := rfl
@[simp] theorem Core.discardCode_err (k : Core) (ls : List Nat) : (k.discardCode ls).err = k.err := rfl
@[simp] theorem Core.discardCode_run (k : Core) (ls : List Nat) : (k.discardCode ls).run = k.run := rfl
@[simp] theorem Core.discardCode_mbox (k : Core) (ls : List Nat) : (k.discardCode ls).mbox = k.mbox := rfl
@[simp] theorem Core.discardCode_m (k : Core) (ls : List Nat) : (k.discardCode ls).m = k.m := rfl
@[simp] theorem Core.discardCode_t (k : Core) (ls : List Nat) : (k.discardCode ls).t = k.t := rfl
@[simp] theorem Core.discardCode_a (k : Core) (ls : List Nat) : (k.discardCode ls).a = k.a := rfl
@[simp] theorem Core.discardCode_rot (k : Core) (ls : List Nat) : (k.discardCode ls).rot = k.rot := rfl
@[simp] theorem Core.discardCode_ls (k : Core) (ls : List Nat) : (k.discardCode ls).ls = k.ls := rfl
@[simp] theorem Core.discardCode_bad (k : Core) (ls : List Nat) : (k.discardCode ls).bad = k.bad := rfl
@[simp] theorem Core.discardCode_full (k : Core) (ls : List Nat) : (k.discardCode ls).full = k.full := rfl
@[simp] theorem Core.discardCode_claims (k : Core) (ls : List Nat) : (k.discardCode ls).claims = k.claims := rfl
@[simp] theorem Core.discardCode_cells (k : Core) (ls : List Nat) : (k.discardCode ls).cells = k.cells := rfl
@[simp] theorem Core.discardCode_slots (k : Core) (ls : List Nat) : (k.discardCode ls).slots = k.slots := rfl
@[simp] theorem Core.discardCode_codegen (k : Core) (ls : List Nat) : (k.discardCode ls).codegen = k.codegen := rfl
@[simp] theorem Core.discardCode_scopemiss (k : Core) (ls : List Nat) : (k.discardCode ls).scopemiss = k.scopemiss := rfl
@[simp] theorem Core.discardCode_fcause (k : Core) (ls : List Nat) : (k.discardCode ls).fcause = k.fcause := rfl
@[simp] theorem Core.discardCode_counters (k : Core) (ls : List Nat) : (k.discardCode ls).counters = k.counters := rfl
@[simp] theorem Core.discardCode_epoch (k : Core) (ls : List Nat) : (k.discardCode ls).epoch = k.epoch := rfl
@[simp] theorem Core.discardCode_writes (k : Core) (ls : List Nat) : (k.discardCode ls).writes = k.writes := rfl
@[simp] theorem Core.discardCode_copies (k : Core) (ls : List Nat) : (k.discardCode ls).copies = k.copies := rfl
@[simp] theorem Core.discardCode_batches (k : Core) (ls : List Nat) : (k.discardCode ls).batches = k.batches := rfl
@[simp] theorem Core.discardCode_batchCtr (k : Core) (ls : List Nat) : (k.discardCode ls).batchCtr = k.batchCtr := rfl
@[simp] theorem Core.discardCode_order (k : Core) (ls : List Nat) : (k.discardCode ls).order = k.order := rfl
@[simp] theorem Core.discardCode_barPhase (k : Core) (ls : List Nat) : (k.discardCode ls).barPhase = k.barPhase := rfl
@[simp] theorem Core.discardCode_barCell (k : Core) (ls : List Nat) : (k.discardCode ls).barCell = k.barCell := rfl
@[simp] theorem Core.discardCode_barLost (k : Core) (ls : List Nat) : (k.discardCode ls).barLost = k.barLost := rfl
@[simp] theorem Core.discardCode_thawBound (k : Core) (ls : List Nat) : (k.discardCode ls).thawBound = k.thawBound := rfl
@[simp] theorem Core.discardCode_rowUnits (k : Core) (ls : List Nat) : (k.discardCode ls).rowUnits = k.rowUnits := rfl
@[simp] theorem Core.discardCode_gather (k : Core) (ls : List Nat) : (k.discardCode ls).gather = k.gather := rfl
@[simp] theorem Core.discardCode_deferred (k : Core) (ls : List Nat) : (k.discardCode ls).deferred = k.deferred := rfl
@[simp] theorem Core.discardCode_l1i (k : Core) (ls : List Nat) : (k.discardCode ls).l1i = k.l1i := rfl
@[simp] theorem Core.discardCode_tlb (k : Core) (ls : List Nat) : (k.discardCode ls).tlb = k.tlb := rfl
@[simp] theorem Core.discardCode_itlb (k : Core) (ls : List Nat) : (k.discardCode ls).itlb = k.itlb := rfl
@[simp] theorem Core.discardCode_walks (k : Core) (ls : List Nat) : (k.discardCode ls).walks = k.walks := rfl

/-! `Core.setHalting`. -/

@[simp] theorem Core.setHalting_task (k : Core) (v : Bool) : (k.setHalting v).task = k.task := rfl
@[simp] theorem Core.setHalting_held (k : Core) (v : Bool) : (k.setHalting v).held = k.held := rfl
@[simp] theorem Core.setHalting_halted (k : Core) (v : Bool) : (k.setHalting v).halted = k.halted := rfl
@[simp] theorem Core.setHalting_loading (k : Core) (v : Bool) : (k.setHalting v).loading = k.loading := rfl
@[simp] theorem Core.setHalting_asleep (k : Core) (v : Bool) : (k.setHalting v).asleep = k.asleep := rfl
@[simp] theorem Core.setHalting_sleepAdvances (k : Core) (v : Bool) : (k.setHalting v).sleepAdvances = k.sleepAdvances := rfl
@[simp] theorem Core.setHalting_main (k : Core) (v : Bool) : (k.setHalting v).main = k.main := rfl
@[simp] theorem Core.setHalting_err (k : Core) (v : Bool) : (k.setHalting v).err = k.err := rfl
@[simp] theorem Core.setHalting_run (k : Core) (v : Bool) : (k.setHalting v).run = k.run := rfl
@[simp] theorem Core.setHalting_mbox (k : Core) (v : Bool) : (k.setHalting v).mbox = k.mbox := rfl
@[simp] theorem Core.setHalting_m (k : Core) (v : Bool) : (k.setHalting v).m = k.m := rfl
@[simp] theorem Core.setHalting_t (k : Core) (v : Bool) : (k.setHalting v).t = k.t := rfl
@[simp] theorem Core.setHalting_a (k : Core) (v : Bool) : (k.setHalting v).a = k.a := rfl
@[simp] theorem Core.setHalting_rot (k : Core) (v : Bool) : (k.setHalting v).rot = k.rot := rfl
@[simp] theorem Core.setHalting_ls (k : Core) (v : Bool) : (k.setHalting v).ls = k.ls := rfl
@[simp] theorem Core.setHalting_bad (k : Core) (v : Bool) : (k.setHalting v).bad = k.bad := rfl
@[simp] theorem Core.setHalting_full (k : Core) (v : Bool) : (k.setHalting v).full = k.full := rfl
@[simp] theorem Core.setHalting_claims (k : Core) (v : Bool) : (k.setHalting v).claims = k.claims := rfl
@[simp] theorem Core.setHalting_cells (k : Core) (v : Bool) : (k.setHalting v).cells = k.cells := rfl
@[simp] theorem Core.setHalting_slots (k : Core) (v : Bool) : (k.setHalting v).slots = k.slots := rfl
@[simp] theorem Core.setHalting_codegen (k : Core) (v : Bool) : (k.setHalting v).codegen = k.codegen := rfl
@[simp] theorem Core.setHalting_scopemiss (k : Core) (v : Bool) : (k.setHalting v).scopemiss = k.scopemiss := rfl
@[simp] theorem Core.setHalting_fcause (k : Core) (v : Bool) : (k.setHalting v).fcause = k.fcause := rfl
@[simp] theorem Core.setHalting_counters (k : Core) (v : Bool) : (k.setHalting v).counters = k.counters := rfl
@[simp] theorem Core.setHalting_epoch (k : Core) (v : Bool) : (k.setHalting v).epoch = k.epoch := rfl
@[simp] theorem Core.setHalting_writes (k : Core) (v : Bool) : (k.setHalting v).writes = k.writes := rfl
@[simp] theorem Core.setHalting_copies (k : Core) (v : Bool) : (k.setHalting v).copies = k.copies := rfl
@[simp] theorem Core.setHalting_batches (k : Core) (v : Bool) : (k.setHalting v).batches = k.batches := rfl
@[simp] theorem Core.setHalting_batchCtr (k : Core) (v : Bool) : (k.setHalting v).batchCtr = k.batchCtr := rfl
@[simp] theorem Core.setHalting_order (k : Core) (v : Bool) : (k.setHalting v).order = k.order := rfl
@[simp] theorem Core.setHalting_barPhase (k : Core) (v : Bool) : (k.setHalting v).barPhase = k.barPhase := rfl
@[simp] theorem Core.setHalting_barCell (k : Core) (v : Bool) : (k.setHalting v).barCell = k.barCell := rfl
@[simp] theorem Core.setHalting_barLost (k : Core) (v : Bool) : (k.setHalting v).barLost = k.barLost := rfl
@[simp] theorem Core.setHalting_thawBound (k : Core) (v : Bool) : (k.setHalting v).thawBound = k.thawBound := rfl
@[simp] theorem Core.setHalting_rowUnits (k : Core) (v : Bool) : (k.setHalting v).rowUnits = k.rowUnits := rfl
@[simp] theorem Core.setHalting_gather (k : Core) (v : Bool) : (k.setHalting v).gather = k.gather := rfl
@[simp] theorem Core.setHalting_deferred (k : Core) (v : Bool) : (k.setHalting v).deferred = k.deferred := rfl
@[simp] theorem Core.setHalting_l1i (k : Core) (v : Bool) : (k.setHalting v).l1i = k.l1i := rfl
@[simp] theorem Core.setHalting_prefetched (k : Core) (v : Bool) : (k.setHalting v).prefetched = k.prefetched := rfl
@[simp] theorem Core.setHalting_tlb (k : Core) (v : Bool) : (k.setHalting v).tlb = k.tlb := rfl
@[simp] theorem Core.setHalting_itlb (k : Core) (v : Bool) : (k.setHalting v).itlb = k.itlb := rfl
@[simp] theorem Core.setHalting_walks (k : Core) (v : Bool) : (k.setHalting v).walks = k.walks := rfl

/-! `Core.leaveCell`. -/

@[simp] theorem Core.leaveCell_task (k : Core) : (k.leaveCell).task = k.task := rfl
@[simp] theorem Core.leaveCell_held (k : Core) : (k.leaveCell).held = k.held := rfl
@[simp] theorem Core.leaveCell_halting (k : Core) : (k.leaveCell).halting = k.halting := rfl
@[simp] theorem Core.leaveCell_halted (k : Core) : (k.leaveCell).halted = k.halted := rfl
@[simp] theorem Core.leaveCell_loading (k : Core) : (k.leaveCell).loading = k.loading := rfl
@[simp] theorem Core.leaveCell_asleep (k : Core) : (k.leaveCell).asleep = k.asleep := rfl
@[simp] theorem Core.leaveCell_sleepAdvances (k : Core) : (k.leaveCell).sleepAdvances = k.sleepAdvances := rfl
@[simp] theorem Core.leaveCell_main (k : Core) : (k.leaveCell).main = k.main := rfl
@[simp] theorem Core.leaveCell_err (k : Core) : (k.leaveCell).err = k.err := rfl
@[simp] theorem Core.leaveCell_run (k : Core) : (k.leaveCell).run = k.run := rfl
@[simp] theorem Core.leaveCell_mbox (k : Core) : (k.leaveCell).mbox = k.mbox := rfl
@[simp] theorem Core.leaveCell_m (k : Core) : (k.leaveCell).m = k.m := rfl
@[simp] theorem Core.leaveCell_t (k : Core) : (k.leaveCell).t = k.t := rfl
@[simp] theorem Core.leaveCell_a (k : Core) : (k.leaveCell).a = k.a := rfl
@[simp] theorem Core.leaveCell_rot (k : Core) : (k.leaveCell).rot = k.rot := rfl
@[simp] theorem Core.leaveCell_ls (k : Core) : (k.leaveCell).ls = k.ls := rfl
@[simp] theorem Core.leaveCell_bad (k : Core) : (k.leaveCell).bad = k.bad := rfl
@[simp] theorem Core.leaveCell_full (k : Core) : (k.leaveCell).full = k.full := rfl
@[simp] theorem Core.leaveCell_claims (k : Core) : (k.leaveCell).claims = k.claims := rfl
@[simp] theorem Core.leaveCell_cells (k : Core) : (k.leaveCell).cells = k.cells := rfl
@[simp] theorem Core.leaveCell_slots (k : Core) : (k.leaveCell).slots = k.slots := rfl
@[simp] theorem Core.leaveCell_codegen (k : Core) : (k.leaveCell).codegen = k.codegen := rfl
@[simp] theorem Core.leaveCell_scopemiss (k : Core) : (k.leaveCell).scopemiss = k.scopemiss := rfl
@[simp] theorem Core.leaveCell_fcause (k : Core) : (k.leaveCell).fcause = k.fcause := rfl
@[simp] theorem Core.leaveCell_counters (k : Core) : (k.leaveCell).counters = k.counters := rfl
@[simp] theorem Core.leaveCell_epoch (k : Core) : (k.leaveCell).epoch = k.epoch := rfl
@[simp] theorem Core.leaveCell_writes (k : Core) : (k.leaveCell).writes = k.writes := rfl
@[simp] theorem Core.leaveCell_copies (k : Core) : (k.leaveCell).copies = k.copies := rfl
@[simp] theorem Core.leaveCell_batches (k : Core) : (k.leaveCell).batches = k.batches := rfl
@[simp] theorem Core.leaveCell_batchCtr (k : Core) : (k.leaveCell).batchCtr = k.batchCtr := rfl
@[simp] theorem Core.leaveCell_order (k : Core) : (k.leaveCell).order = k.order := rfl
@[simp] theorem Core.leaveCell_thawBound (k : Core) : (k.leaveCell).thawBound = k.thawBound := rfl
@[simp] theorem Core.leaveCell_rowUnits (k : Core) : (k.leaveCell).rowUnits = k.rowUnits := rfl
@[simp] theorem Core.leaveCell_gather (k : Core) : (k.leaveCell).gather = k.gather := rfl
@[simp] theorem Core.leaveCell_deferred (k : Core) : (k.leaveCell).deferred = k.deferred := rfl
@[simp] theorem Core.leaveCell_l1i (k : Core) : (k.leaveCell).l1i = k.l1i := rfl
@[simp] theorem Core.leaveCell_prefetched (k : Core) : (k.leaveCell).prefetched = k.prefetched := rfl
@[simp] theorem Core.leaveCell_tlb (k : Core) : (k.leaveCell).tlb = k.tlb := rfl
@[simp] theorem Core.leaveCell_itlb (k : Core) : (k.leaveCell).itlb = k.itlb := rfl
@[simp] theorem Core.leaveCell_walks (k : Core) : (k.leaveCell).walks = k.walks := rfl

/-! `Core.clearCells`. -/

@[simp] theorem Core.clearCells_task (k : Core) : (k.clearCells).task = k.task := rfl
@[simp] theorem Core.clearCells_held (k : Core) : (k.clearCells).held = k.held := rfl
@[simp] theorem Core.clearCells_halting (k : Core) : (k.clearCells).halting = k.halting := rfl
@[simp] theorem Core.clearCells_halted (k : Core) : (k.clearCells).halted = k.halted := rfl
@[simp] theorem Core.clearCells_loading (k : Core) : (k.clearCells).loading = k.loading := rfl
@[simp] theorem Core.clearCells_asleep (k : Core) : (k.clearCells).asleep = k.asleep := rfl
@[simp] theorem Core.clearCells_sleepAdvances (k : Core) : (k.clearCells).sleepAdvances = k.sleepAdvances := rfl
@[simp] theorem Core.clearCells_main (k : Core) : (k.clearCells).main = k.main := rfl
@[simp] theorem Core.clearCells_err (k : Core) : (k.clearCells).err = k.err := rfl
@[simp] theorem Core.clearCells_run (k : Core) : (k.clearCells).run = k.run := rfl
@[simp] theorem Core.clearCells_mbox (k : Core) : (k.clearCells).mbox = k.mbox := rfl
@[simp] theorem Core.clearCells_m (k : Core) : (k.clearCells).m = k.m := rfl
@[simp] theorem Core.clearCells_t (k : Core) : (k.clearCells).t = k.t := rfl
@[simp] theorem Core.clearCells_a (k : Core) : (k.clearCells).a = k.a := rfl
@[simp] theorem Core.clearCells_rot (k : Core) : (k.clearCells).rot = k.rot := rfl
@[simp] theorem Core.clearCells_ls (k : Core) : (k.clearCells).ls = k.ls := rfl
@[simp] theorem Core.clearCells_bad (k : Core) : (k.clearCells).bad = k.bad := rfl
@[simp] theorem Core.clearCells_full (k : Core) : (k.clearCells).full = k.full := rfl
@[simp] theorem Core.clearCells_claims (k : Core) : (k.clearCells).claims = k.claims := rfl
@[simp] theorem Core.clearCells_slots (k : Core) : (k.clearCells).slots = k.slots := rfl
@[simp] theorem Core.clearCells_codegen (k : Core) : (k.clearCells).codegen = k.codegen := rfl
@[simp] theorem Core.clearCells_scopemiss (k : Core) : (k.clearCells).scopemiss = k.scopemiss := rfl
@[simp] theorem Core.clearCells_fcause (k : Core) : (k.clearCells).fcause = k.fcause := rfl
@[simp] theorem Core.clearCells_counters (k : Core) : (k.clearCells).counters = k.counters := rfl
@[simp] theorem Core.clearCells_epoch (k : Core) : (k.clearCells).epoch = k.epoch := rfl
@[simp] theorem Core.clearCells_writes (k : Core) : (k.clearCells).writes = k.writes := rfl
@[simp] theorem Core.clearCells_copies (k : Core) : (k.clearCells).copies = k.copies := rfl
@[simp] theorem Core.clearCells_batches (k : Core) : (k.clearCells).batches = k.batches := rfl
@[simp] theorem Core.clearCells_batchCtr (k : Core) : (k.clearCells).batchCtr = k.batchCtr := rfl
@[simp] theorem Core.clearCells_order (k : Core) : (k.clearCells).order = k.order := rfl
@[simp] theorem Core.clearCells_barPhase (k : Core) : (k.clearCells).barPhase = k.barPhase := rfl
@[simp] theorem Core.clearCells_barCell (k : Core) : (k.clearCells).barCell = k.barCell := rfl
@[simp] theorem Core.clearCells_barLost (k : Core) : (k.clearCells).barLost = k.barLost := rfl
@[simp] theorem Core.clearCells_thawBound (k : Core) : (k.clearCells).thawBound = k.thawBound := rfl
@[simp] theorem Core.clearCells_rowUnits (k : Core) : (k.clearCells).rowUnits = k.rowUnits := rfl
@[simp] theorem Core.clearCells_gather (k : Core) : (k.clearCells).gather = k.gather := rfl
@[simp] theorem Core.clearCells_deferred (k : Core) : (k.clearCells).deferred = k.deferred := rfl
@[simp] theorem Core.clearCells_l1i (k : Core) : (k.clearCells).l1i = k.l1i := rfl
@[simp] theorem Core.clearCells_prefetched (k : Core) : (k.clearCells).prefetched = k.prefetched := rfl
@[simp] theorem Core.clearCells_tlb (k : Core) : (k.clearCells).tlb = k.tlb := rfl
@[simp] theorem Core.clearCells_itlb (k : Core) : (k.clearCells).itlb = k.itlb := rfl
@[simp] theorem Core.clearCells_walks (k : Core) : (k.clearCells).walks = k.walks := rfl

/-! `Core.endBackoff`. -/

@[simp] theorem Core.endBackoff_task (k : Core) : (k.endBackoff).task = k.task := rfl
@[simp] theorem Core.endBackoff_held (k : Core) : (k.endBackoff).held = k.held := rfl
@[simp] theorem Core.endBackoff_halting (k : Core) : (k.endBackoff).halting = k.halting := rfl
@[simp] theorem Core.endBackoff_halted (k : Core) : (k.endBackoff).halted = k.halted := rfl
@[simp] theorem Core.endBackoff_loading (k : Core) : (k.endBackoff).loading = k.loading := rfl
@[simp] theorem Core.endBackoff_asleep (k : Core) : (k.endBackoff).asleep = k.asleep := rfl
@[simp] theorem Core.endBackoff_sleepAdvances (k : Core) : (k.endBackoff).sleepAdvances = k.sleepAdvances := rfl
@[simp] theorem Core.endBackoff_run (k : Core) : (k.endBackoff).run = k.run := rfl
@[simp] theorem Core.endBackoff_mbox (k : Core) : (k.endBackoff).mbox = k.mbox := rfl
@[simp] theorem Core.endBackoff_m (k : Core) : (k.endBackoff).m = k.m := rfl
@[simp] theorem Core.endBackoff_t (k : Core) : (k.endBackoff).t = k.t := rfl
@[simp] theorem Core.endBackoff_a (k : Core) : (k.endBackoff).a = k.a := rfl
@[simp] theorem Core.endBackoff_rot (k : Core) : (k.endBackoff).rot = k.rot := rfl
@[simp] theorem Core.endBackoff_ls (k : Core) : (k.endBackoff).ls = k.ls := rfl
@[simp] theorem Core.endBackoff_bad (k : Core) : (k.endBackoff).bad = k.bad := rfl
@[simp] theorem Core.endBackoff_full (k : Core) : (k.endBackoff).full = k.full := rfl
@[simp] theorem Core.endBackoff_claims (k : Core) : (k.endBackoff).claims = k.claims := rfl
@[simp] theorem Core.endBackoff_cells (k : Core) : (k.endBackoff).cells = k.cells := rfl
@[simp] theorem Core.endBackoff_slots (k : Core) : (k.endBackoff).slots = k.slots := rfl
@[simp] theorem Core.endBackoff_codegen (k : Core) : (k.endBackoff).codegen = k.codegen := rfl
@[simp] theorem Core.endBackoff_scopemiss (k : Core) : (k.endBackoff).scopemiss = k.scopemiss := rfl
@[simp] theorem Core.endBackoff_fcause (k : Core) : (k.endBackoff).fcause = k.fcause := rfl
@[simp] theorem Core.endBackoff_counters (k : Core) : (k.endBackoff).counters = k.counters := rfl
@[simp] theorem Core.endBackoff_epoch (k : Core) : (k.endBackoff).epoch = k.epoch := rfl
@[simp] theorem Core.endBackoff_writes (k : Core) : (k.endBackoff).writes = k.writes := rfl
@[simp] theorem Core.endBackoff_copies (k : Core) : (k.endBackoff).copies = k.copies := rfl
@[simp] theorem Core.endBackoff_batches (k : Core) : (k.endBackoff).batches = k.batches := rfl
@[simp] theorem Core.endBackoff_batchCtr (k : Core) : (k.endBackoff).batchCtr = k.batchCtr := rfl
@[simp] theorem Core.endBackoff_order (k : Core) : (k.endBackoff).order = k.order := rfl
@[simp] theorem Core.endBackoff_barPhase (k : Core) : (k.endBackoff).barPhase = k.barPhase := rfl
@[simp] theorem Core.endBackoff_barCell (k : Core) : (k.endBackoff).barCell = k.barCell := rfl
@[simp] theorem Core.endBackoff_barLost (k : Core) : (k.endBackoff).barLost = k.barLost := rfl
@[simp] theorem Core.endBackoff_thawBound (k : Core) : (k.endBackoff).thawBound = k.thawBound := rfl
@[simp] theorem Core.endBackoff_rowUnits (k : Core) : (k.endBackoff).rowUnits = k.rowUnits := rfl
@[simp] theorem Core.endBackoff_gather (k : Core) : (k.endBackoff).gather = k.gather := rfl
@[simp] theorem Core.endBackoff_deferred (k : Core) : (k.endBackoff).deferred = k.deferred := rfl
@[simp] theorem Core.endBackoff_l1i (k : Core) : (k.endBackoff).l1i = k.l1i := rfl
@[simp] theorem Core.endBackoff_prefetched (k : Core) : (k.endBackoff).prefetched = k.prefetched := rfl
@[simp] theorem Core.endBackoff_tlb (k : Core) : (k.endBackoff).tlb = k.tlb := rfl
@[simp] theorem Core.endBackoff_itlb (k : Core) : (k.endBackoff).itlb = k.itlb := rfl
@[simp] theorem Core.endBackoff_walks (k : Core) : (k.endBackoff).walks = k.walks := rfl

/-! `Core.squash`. -/

@[simp] theorem Core.squash_task (k : Core) : (k.squash).task = k.task := rfl
@[simp] theorem Core.squash_held (k : Core) : (k.squash).held = k.held := rfl
@[simp] theorem Core.squash_halting (k : Core) : (k.squash).halting = k.halting := rfl
@[simp] theorem Core.squash_halted (k : Core) : (k.squash).halted = k.halted := rfl
@[simp] theorem Core.squash_loading (k : Core) : (k.squash).loading = k.loading := rfl
@[simp] theorem Core.squash_asleep (k : Core) : (k.squash).asleep = k.asleep := rfl
@[simp] theorem Core.squash_sleepAdvances (k : Core) : (k.squash).sleepAdvances = k.sleepAdvances := rfl
@[simp] theorem Core.squash_run (k : Core) : (k.squash).run = k.run := rfl
@[simp] theorem Core.squash_mbox (k : Core) : (k.squash).mbox = k.mbox := rfl
@[simp] theorem Core.squash_m (k : Core) : (k.squash).m = k.m := rfl
@[simp] theorem Core.squash_t (k : Core) : (k.squash).t = k.t := rfl
@[simp] theorem Core.squash_a (k : Core) : (k.squash).a = k.a := rfl
@[simp] theorem Core.squash_rot (k : Core) : (k.squash).rot = k.rot := rfl
@[simp] theorem Core.squash_ls (k : Core) : (k.squash).ls = k.ls := rfl
@[simp] theorem Core.squash_bad (k : Core) : (k.squash).bad = k.bad := rfl
@[simp] theorem Core.squash_full (k : Core) : (k.squash).full = k.full := rfl
@[simp] theorem Core.squash_claims (k : Core) : (k.squash).claims = k.claims := rfl
@[simp] theorem Core.squash_cells (k : Core) : (k.squash).cells = k.cells := rfl
@[simp] theorem Core.squash_slots (k : Core) : (k.squash).slots = k.slots := rfl
@[simp] theorem Core.squash_codegen (k : Core) : (k.squash).codegen = k.codegen := rfl
@[simp] theorem Core.squash_scopemiss (k : Core) : (k.squash).scopemiss = k.scopemiss := rfl
@[simp] theorem Core.squash_fcause (k : Core) : (k.squash).fcause = k.fcause := rfl
@[simp] theorem Core.squash_counters (k : Core) : (k.squash).counters = k.counters := rfl
@[simp] theorem Core.squash_epoch (k : Core) : (k.squash).epoch = k.epoch := rfl
@[simp] theorem Core.squash_writes (k : Core) : (k.squash).writes = k.writes := rfl
@[simp] theorem Core.squash_copies (k : Core) : (k.squash).copies = k.copies := rfl
@[simp] theorem Core.squash_batches (k : Core) : (k.squash).batches = k.batches := rfl
@[simp] theorem Core.squash_batchCtr (k : Core) : (k.squash).batchCtr = k.batchCtr := rfl
@[simp] theorem Core.squash_order (k : Core) : (k.squash).order = k.order := rfl
@[simp] theorem Core.squash_barPhase (k : Core) : (k.squash).barPhase = k.barPhase := rfl
@[simp] theorem Core.squash_barCell (k : Core) : (k.squash).barCell = k.barCell := rfl
@[simp] theorem Core.squash_barLost (k : Core) : (k.squash).barLost = k.barLost := rfl
@[simp] theorem Core.squash_rowUnits (k : Core) : (k.squash).rowUnits = k.rowUnits := rfl
@[simp] theorem Core.squash_deferred (k : Core) : (k.squash).deferred = k.deferred := rfl
@[simp] theorem Core.squash_l1i (k : Core) : (k.squash).l1i = k.l1i := rfl
@[simp] theorem Core.squash_prefetched (k : Core) : (k.squash).prefetched = k.prefetched := rfl
@[simp] theorem Core.squash_tlb (k : Core) : (k.squash).tlb = k.tlb := rfl
@[simp] theorem Core.squash_itlb (k : Core) : (k.squash).itlb = k.itlb := rfl
@[simp] theorem Core.squash_walks (k : Core) : (k.squash).walks = k.walks := rfl

/-! `Core.writeRspill`. -/

@[simp] theorem Core.writeRspill_task (k : Core) (v : Word) : (k.writeRspill v).task = k.task := rfl
@[simp] theorem Core.writeRspill_held (k : Core) (v : Word) : (k.writeRspill v).held = k.held := rfl
@[simp] theorem Core.writeRspill_halting (k : Core) (v : Word) : (k.writeRspill v).halting = k.halting := rfl
@[simp] theorem Core.writeRspill_halted (k : Core) (v : Word) : (k.writeRspill v).halted = k.halted := rfl
@[simp] theorem Core.writeRspill_loading (k : Core) (v : Word) : (k.writeRspill v).loading = k.loading := rfl
@[simp] theorem Core.writeRspill_asleep (k : Core) (v : Word) : (k.writeRspill v).asleep = k.asleep := rfl
@[simp] theorem Core.writeRspill_sleepAdvances (k : Core) (v : Word) : (k.writeRspill v).sleepAdvances = k.sleepAdvances := rfl
@[simp] theorem Core.writeRspill_err (k : Core) (v : Word) : (k.writeRspill v).err = k.err := rfl
@[simp] theorem Core.writeRspill_run (k : Core) (v : Word) : (k.writeRspill v).run = k.run := rfl
@[simp] theorem Core.writeRspill_mbox (k : Core) (v : Word) : (k.writeRspill v).mbox = k.mbox := rfl
@[simp] theorem Core.writeRspill_m (k : Core) (v : Word) : (k.writeRspill v).m = k.m := rfl
@[simp] theorem Core.writeRspill_t (k : Core) (v : Word) : (k.writeRspill v).t = k.t := rfl
@[simp] theorem Core.writeRspill_a (k : Core) (v : Word) : (k.writeRspill v).a = k.a := rfl
@[simp] theorem Core.writeRspill_rot (k : Core) (v : Word) : (k.writeRspill v).rot = k.rot := rfl
@[simp] theorem Core.writeRspill_ls (k : Core) (v : Word) : (k.writeRspill v).ls = k.ls := rfl
@[simp] theorem Core.writeRspill_bad (k : Core) (v : Word) : (k.writeRspill v).bad = k.bad := rfl
@[simp] theorem Core.writeRspill_full (k : Core) (v : Word) : (k.writeRspill v).full = k.full := rfl
@[simp] theorem Core.writeRspill_claims (k : Core) (v : Word) : (k.writeRspill v).claims = k.claims := rfl
@[simp] theorem Core.writeRspill_cells (k : Core) (v : Word) : (k.writeRspill v).cells = k.cells := rfl
@[simp] theorem Core.writeRspill_slots (k : Core) (v : Word) : (k.writeRspill v).slots = k.slots := rfl
@[simp] theorem Core.writeRspill_codegen (k : Core) (v : Word) : (k.writeRspill v).codegen = k.codegen := rfl
@[simp] theorem Core.writeRspill_scopemiss (k : Core) (v : Word) : (k.writeRspill v).scopemiss = k.scopemiss := rfl
@[simp] theorem Core.writeRspill_fcause (k : Core) (v : Word) : (k.writeRspill v).fcause = k.fcause := rfl
@[simp] theorem Core.writeRspill_counters (k : Core) (v : Word) : (k.writeRspill v).counters = k.counters := rfl
@[simp] theorem Core.writeRspill_epoch (k : Core) (v : Word) : (k.writeRspill v).epoch = k.epoch := rfl
@[simp] theorem Core.writeRspill_writes (k : Core) (v : Word) : (k.writeRspill v).writes = k.writes := rfl
@[simp] theorem Core.writeRspill_copies (k : Core) (v : Word) : (k.writeRspill v).copies = k.copies := rfl
@[simp] theorem Core.writeRspill_batches (k : Core) (v : Word) : (k.writeRspill v).batches = k.batches := rfl
@[simp] theorem Core.writeRspill_batchCtr (k : Core) (v : Word) : (k.writeRspill v).batchCtr = k.batchCtr := rfl
@[simp] theorem Core.writeRspill_order (k : Core) (v : Word) : (k.writeRspill v).order = k.order := rfl
@[simp] theorem Core.writeRspill_barPhase (k : Core) (v : Word) : (k.writeRspill v).barPhase = k.barPhase := rfl
@[simp] theorem Core.writeRspill_barCell (k : Core) (v : Word) : (k.writeRspill v).barCell = k.barCell := rfl
@[simp] theorem Core.writeRspill_barLost (k : Core) (v : Word) : (k.writeRspill v).barLost = k.barLost := rfl
@[simp] theorem Core.writeRspill_thawBound (k : Core) (v : Word) : (k.writeRspill v).thawBound = k.thawBound := rfl
@[simp] theorem Core.writeRspill_rowUnits (k : Core) (v : Word) : (k.writeRspill v).rowUnits = k.rowUnits := rfl
@[simp] theorem Core.writeRspill_gather (k : Core) (v : Word) : (k.writeRspill v).gather = k.gather := rfl
@[simp] theorem Core.writeRspill_deferred (k : Core) (v : Word) : (k.writeRspill v).deferred = k.deferred := rfl
@[simp] theorem Core.writeRspill_l1i (k : Core) (v : Word) : (k.writeRspill v).l1i = k.l1i := rfl
@[simp] theorem Core.writeRspill_prefetched (k : Core) (v : Word) : (k.writeRspill v).prefetched = k.prefetched := rfl
@[simp] theorem Core.writeRspill_tlb (k : Core) (v : Word) : (k.writeRspill v).tlb = k.tlb := rfl
@[simp] theorem Core.writeRspill_itlb (k : Core) (v : Word) : (k.writeRspill v).itlb = k.itlb := rfl
@[simp] theorem Core.writeRspill_walks (k : Core) (v : Word) : (k.writeRspill v).walks = k.walks := rfl

/-! `Strand.retryLater`. -/

@[simp] theorem Strand.retryLater_pc (t : Strand) (f : FaultInfo) : (t.retryLater f).pc = t.pc := rfl
@[simp] theorem Strand.retryLater_npc (t : Strand) (f : FaultInfo) : (t.retryLater f).npc = t.npc := rfl
@[simp] theorem Strand.retryLater_mode (t : Strand) (f : FaultInfo) : (t.retryLater f).mode = t.mode := rfl
@[simp] theorem Strand.retryLater_g (t : Strand) (f : FaultInfo) : (t.retryLater f).g = t.g := rfl
@[simp] theorem Strand.retryLater_sg (t : Strand) (f : FaultInfo) : (t.retryLater f).sg = t.sg := rfl
@[simp] theorem Strand.retryLater_f (t : Strand) (f : FaultInfo) : (t.retryLater f).f = t.f := rfl
@[simp] theorem Strand.retryLater_ret (t : Strand) (f : FaultInfo) : (t.retryLater f).ret = t.ret := rfl
@[simp] theorem Strand.retryLater_sret (t : Strand) (f : FaultInfo) : (t.retryLater f).sret = t.sret := rfl
@[simp] theorem Strand.retryLater_rspill (t : Strand) (f : FaultInfo) : (t.retryLater f).rspill = t.rspill := rfl
@[simp] theorem Strand.retryLater_spilled (t : Strand) (f : FaultInfo) : (t.retryLater f).spilled = t.spilled := rfl
@[simp] theorem Strand.retryLater_sstatus (t : Strand) (f : FaultInfo) : (t.retryLater f).sstatus = t.sstatus := rfl
@[simp] theorem Strand.retryLater_sepc (t : Strand) (f : FaultInfo) : (t.retryLater f).sepc = t.sepc := rfl
@[simp] theorem Strand.retryLater_svec (t : Strand) (f : FaultInfo) : (t.retryLater f).svec = t.svec := rfl
@[simp] theorem Strand.retryLater_scause (t : Strand) (f : FaultInfo) : (t.retryLater f).scause = t.scause := rfl
@[simp] theorem Strand.retryLater_sfaddr (t : Strand) (f : FaultInfo) : (t.retryLater f).sfaddr = t.sfaddr := rfl
@[simp] theorem Strand.retryLater_sfinfo (t : Strand) (f : FaultInfo) : (t.retryLater f).sfinfo = t.sfinfo := rfl
@[simp] theorem Strand.retryLater_sarg (t : Strand) (f : FaultInfo) : (t.retryLater f).sarg = t.sarg := rfl
@[simp] theorem Strand.retryLater_sscratch (t : Strand) (f : FaultInfo) : (t.retryLater f).sscratch = t.sscratch := rfl
@[simp] theorem Strand.retryLater_sdeleg (t : Strand) (f : FaultInfo) : (t.retryLater f).sdeleg = t.sdeleg := rfl
@[simp] theorem Strand.retryLater_wfloor (t : Strand) (f : FaultInfo) : (t.retryLater f).wfloor = t.wfloor := rfl
@[simp] theorem Strand.retryLater_rfloor (t : Strand) (f : FaultInfo) : (t.retryLater f).rfloor = t.rfloor := rfl

/-! `Strand.enter`. -/

@[simp] theorem Strand.enter_g (t : Strand) (errand : Bool) (kind code : Nat) (sepc addr info : Word) (r : GReg) : (t.enter errand kind code sepc addr info r).g = t.g := rfl
@[simp] theorem Strand.enter_sg (t : Strand) (errand : Bool) (kind code : Nat) (sepc addr info : Word) (r : GReg) : (t.enter errand kind code sepc addr info r).sg = t.sg := rfl
@[simp] theorem Strand.enter_f (t : Strand) (errand : Bool) (kind code : Nat) (sepc addr info : Word) (r : GReg) : (t.enter errand kind code sepc addr info r).f = t.f := rfl
@[simp] theorem Strand.enter_ret (t : Strand) (errand : Bool) (kind code : Nat) (sepc addr info : Word) (r : GReg) : (t.enter errand kind code sepc addr info r).ret = t.ret := rfl
@[simp] theorem Strand.enter_rspill (t : Strand) (errand : Bool) (kind code : Nat) (sepc addr info : Word) (r : GReg) : (t.enter errand kind code sepc addr info r).rspill = t.rspill := rfl
@[simp] theorem Strand.enter_spilled (t : Strand) (errand : Bool) (kind code : Nat) (sepc addr info : Word) (r : GReg) : (t.enter errand kind code sepc addr info r).spilled = t.spilled := rfl
@[simp] theorem Strand.enter_svec (t : Strand) (errand : Bool) (kind code : Nat) (sepc addr info : Word) (r : GReg) : (t.enter errand kind code sepc addr info r).svec = t.svec := rfl
@[simp] theorem Strand.enter_sscratch (t : Strand) (errand : Bool) (kind code : Nat) (sepc addr info : Word) (r : GReg) : (t.enter errand kind code sepc addr info r).sscratch = t.sscratch := rfl
@[simp] theorem Strand.enter_sdeleg (t : Strand) (errand : Bool) (kind code : Nat) (sepc addr info : Word) (r : GReg) : (t.enter errand kind code sepc addr info r).sdeleg = t.sdeleg := rfl
@[simp] theorem Strand.enter_retries (t : Strand) (errand : Bool) (kind code : Nat) (sepc addr info : Word) (r : GReg) : (t.enter errand kind code sepc addr info r).retries = t.retries := rfl
@[simp] theorem Strand.enter_backoff (t : Strand) (errand : Bool) (kind code : Nat) (sepc addr info : Word) (r : GReg) : (t.enter errand kind code sepc addr info r).backoff = t.backoff := rfl
@[simp] theorem Strand.enter_inBackoff (t : Strand) (errand : Bool) (kind code : Nat) (sepc addr info : Word) (r : GReg) : (t.enter errand kind code sepc addr info r).inBackoff = t.inBackoff := rfl
@[simp] theorem Strand.enter_lastFault (t : Strand) (errand : Bool) (kind code : Nat) (sepc addr info : Word) (r : GReg) : (t.enter errand kind code sepc addr info r).lastFault = t.lastFault := rfl
@[simp] theorem Strand.enter_wfloor (t : Strand) (errand : Bool) (kind code : Nat) (sepc addr info : Word) (r : GReg) : (t.enter errand kind code sepc addr info r).wfloor = t.wfloor := rfl
@[simp] theorem Strand.enter_rfloor (t : Strand) (errand : Bool) (kind code : Nat) (sepc addr info : Word) (r : GReg) : (t.enter errand kind code sepc addr info r).rfloor = t.rfloor := rfl

/-! `State.noteMaster`. -/

@[simp] theorem State.noteMaster_cores (s : State) (pa n : Nat) (m : Option Master) : (s.noteMaster pa n m).cores = s.cores := rfl
@[simp] theorem State.noteMaster_frz (s : State) (pa n : Nat) (m : Option Master) : (s.noteMaster pa n m).frz = s.frz := rfl
@[simp] theorem State.noteMaster_posts (s : State) (pa n : Nat) (m : Option Master) : (s.noteMaster pa n m).posts = s.posts := rfl
@[simp] theorem State.noteMaster_replies (s : State) (pa n : Nat) (m : Option Master) : (s.noteMaster pa n m).replies = s.replies := rfl
@[simp] theorem State.noteMaster_conf (s : State) (pa n : Nat) (m : Option Master) : (s.noteMaster pa n m).conf = s.conf := rfl
@[simp] theorem State.noteMaster_sched (s : State) (pa n : Nat) (m : Option Master) : (s.noteMaster pa n m).sched = s.sched := rfl
@[simp] theorem State.noteMaster_mgmt (s : State) (pa n : Nat) (m : Option Master) : (s.noteMaster pa n m).mgmt = s.mgmt := rfl
@[simp] theorem State.noteMaster_link (s : State) (pa n : Nat) (m : Option Master) : (s.noteMaster pa n m).link = s.link := rfl
@[simp] theorem State.noteMaster_vectors (s : State) (pa n : Nat) (m : Option Master) : (s.noteMaster pa n m).vectors = s.vectors := rfl
@[simp] theorem State.noteMaster_msix (s : State) (pa n : Nat) (m : Option Master) : (s.noteMaster pa n m).msix = s.msix := rfl
@[simp] theorem State.noteMaster_pba (s : State) (pa n : Nat) (m : Option Master) : (s.noteMaster pa n m).pba = s.pba := rfl
@[simp] theorem State.noteMaster_hostReads (s : State) (pa n : Nat) (m : Option Master) : (s.noteMaster pa n m).hostReads = s.hostReads := rfl
@[simp] theorem State.noteMaster_port (s : State) (pa n : Nat) (m : Option Master) : (s.noteMaster pa n m).port = s.port := rfl
@[simp] theorem State.noteMaster_cg (s : State) (pa n : Nat) (m : Option Master) : (s.noteMaster pa n m).cg = s.cg := rfl
@[simp] theorem State.noteMaster_cgHeld (s : State) (pa n : Nat) (m : Option Master) : (s.noteMaster pa n m).cgHeld = s.cgHeld := rfl
@[simp] theorem State.noteMaster_clock (s : State) (pa n : Nat) (m : Option Master) : (s.noteMaster pa n m).clock = s.clock := rfl
@[simp] theorem State.noteMaster_agenda (s : State) (pa n : Nat) (m : Option Master) : (s.noteMaster pa n m).agenda = s.agenda := rfl
@[simp] theorem State.noteMaster_cur (s : State) (pa n : Nat) (m : Option Master) : (s.noteMaster pa n m).cur = s.cur := rfl
@[simp] theorem State.noteMaster_ticks (s : State) (pa n : Nat) (m : Option Master) : (s.noteMaster pa n m).ticks = s.ticks := rfl

/-! `State.keepBack`. -/

@[simp] theorem State.keepBack_cores (s : State) (x : LinkTransaction) : (s.keepBack x).cores = s.cores := rfl
@[simp] theorem State.keepBack_mem (s : State) (x : LinkTransaction) : (s.keepBack x).mem = s.mem := rfl
@[simp] theorem State.keepBack_frz (s : State) (x : LinkTransaction) : (s.keepBack x).frz = s.frz := rfl
@[simp] theorem State.keepBack_posts (s : State) (x : LinkTransaction) : (s.keepBack x).posts = s.posts := rfl
@[simp] theorem State.keepBack_replies (s : State) (x : LinkTransaction) : (s.keepBack x).replies = s.replies := rfl
@[simp] theorem State.keepBack_conf (s : State) (x : LinkTransaction) : (s.keepBack x).conf = s.conf := rfl
@[simp] theorem State.keepBack_sched (s : State) (x : LinkTransaction) : (s.keepBack x).sched = s.sched := rfl
@[simp] theorem State.keepBack_mgmt (s : State) (x : LinkTransaction) : (s.keepBack x).mgmt = s.mgmt := rfl
@[simp] theorem State.keepBack_vectors (s : State) (x : LinkTransaction) : (s.keepBack x).vectors = s.vectors := rfl
@[simp] theorem State.keepBack_msix (s : State) (x : LinkTransaction) : (s.keepBack x).msix = s.msix := rfl
@[simp] theorem State.keepBack_pba (s : State) (x : LinkTransaction) : (s.keepBack x).pba = s.pba := rfl
@[simp] theorem State.keepBack_hostReads (s : State) (x : LinkTransaction) : (s.keepBack x).hostReads = s.hostReads := rfl
@[simp] theorem State.keepBack_port (s : State) (x : LinkTransaction) : (s.keepBack x).port = s.port := rfl
@[simp] theorem State.keepBack_cg (s : State) (x : LinkTransaction) : (s.keepBack x).cg = s.cg := rfl
@[simp] theorem State.keepBack_cgHeld (s : State) (x : LinkTransaction) : (s.keepBack x).cgHeld = s.cgHeld := rfl
@[simp] theorem State.keepBack_clock (s : State) (x : LinkTransaction) : (s.keepBack x).clock = s.clock := rfl
@[simp] theorem State.keepBack_agenda (s : State) (x : LinkTransaction) : (s.keepBack x).agenda = s.agenda := rfl
@[simp] theorem State.keepBack_cur (s : State) (x : LinkTransaction) : (s.keepBack x).cur = s.cur := rfl
@[simp] theorem State.keepBack_ticks (s : State) (x : LinkTransaction) : (s.keepBack x).ticks = s.ticks := rfl

/-! `State.unkeep`. -/

@[simp] theorem State.unkeep_cores (s : State) (x : LinkTransaction) : (s.unkeep x).cores = s.cores := rfl
@[simp] theorem State.unkeep_mem (s : State) (x : LinkTransaction) : (s.unkeep x).mem = s.mem := rfl
@[simp] theorem State.unkeep_frz (s : State) (x : LinkTransaction) : (s.unkeep x).frz = s.frz := rfl
@[simp] theorem State.unkeep_posts (s : State) (x : LinkTransaction) : (s.unkeep x).posts = s.posts := rfl
@[simp] theorem State.unkeep_replies (s : State) (x : LinkTransaction) : (s.unkeep x).replies = s.replies := rfl
@[simp] theorem State.unkeep_conf (s : State) (x : LinkTransaction) : (s.unkeep x).conf = s.conf := rfl
@[simp] theorem State.unkeep_sched (s : State) (x : LinkTransaction) : (s.unkeep x).sched = s.sched := rfl
@[simp] theorem State.unkeep_mgmt (s : State) (x : LinkTransaction) : (s.unkeep x).mgmt = s.mgmt := rfl
@[simp] theorem State.unkeep_vectors (s : State) (x : LinkTransaction) : (s.unkeep x).vectors = s.vectors := rfl
@[simp] theorem State.unkeep_msix (s : State) (x : LinkTransaction) : (s.unkeep x).msix = s.msix := rfl
@[simp] theorem State.unkeep_pba (s : State) (x : LinkTransaction) : (s.unkeep x).pba = s.pba := rfl
@[simp] theorem State.unkeep_hostReads (s : State) (x : LinkTransaction) : (s.unkeep x).hostReads = s.hostReads := rfl
@[simp] theorem State.unkeep_port (s : State) (x : LinkTransaction) : (s.unkeep x).port = s.port := rfl
@[simp] theorem State.unkeep_cg (s : State) (x : LinkTransaction) : (s.unkeep x).cg = s.cg := rfl
@[simp] theorem State.unkeep_cgHeld (s : State) (x : LinkTransaction) : (s.unkeep x).cgHeld = s.cgHeld := rfl
@[simp] theorem State.unkeep_clock (s : State) (x : LinkTransaction) : (s.unkeep x).clock = s.clock := rfl
@[simp] theorem State.unkeep_agenda (s : State) (x : LinkTransaction) : (s.unkeep x).agenda = s.agenda := rfl
@[simp] theorem State.unkeep_cur (s : State) (x : LinkTransaction) : (s.unkeep x).cur = s.cur := rfl
@[simp] theorem State.unkeep_ticks (s : State) (x : LinkTransaction) : (s.unkeep x).ticks = s.ticks := rfl

/-! `State.cameIn`. -/

@[simp] theorem State.cameIn_cores (s : State) (y : Incoming) : (s.cameIn y).cores = s.cores := rfl
@[simp] theorem State.cameIn_mem (s : State) (y : Incoming) : (s.cameIn y).mem = s.mem := rfl
@[simp] theorem State.cameIn_frz (s : State) (y : Incoming) : (s.cameIn y).frz = s.frz := rfl
@[simp] theorem State.cameIn_posts (s : State) (y : Incoming) : (s.cameIn y).posts = s.posts := rfl
@[simp] theorem State.cameIn_replies (s : State) (y : Incoming) : (s.cameIn y).replies = s.replies := rfl
@[simp] theorem State.cameIn_conf (s : State) (y : Incoming) : (s.cameIn y).conf = s.conf := rfl
@[simp] theorem State.cameIn_sched (s : State) (y : Incoming) : (s.cameIn y).sched = s.sched := rfl
@[simp] theorem State.cameIn_mgmt (s : State) (y : Incoming) : (s.cameIn y).mgmt = s.mgmt := rfl
@[simp] theorem State.cameIn_vectors (s : State) (y : Incoming) : (s.cameIn y).vectors = s.vectors := rfl
@[simp] theorem State.cameIn_msix (s : State) (y : Incoming) : (s.cameIn y).msix = s.msix := rfl
@[simp] theorem State.cameIn_pba (s : State) (y : Incoming) : (s.cameIn y).pba = s.pba := rfl
@[simp] theorem State.cameIn_hostReads (s : State) (y : Incoming) : (s.cameIn y).hostReads = s.hostReads := rfl
@[simp] theorem State.cameIn_port (s : State) (y : Incoming) : (s.cameIn y).port = s.port := rfl
@[simp] theorem State.cameIn_cg (s : State) (y : Incoming) : (s.cameIn y).cg = s.cg := rfl
@[simp] theorem State.cameIn_cgHeld (s : State) (y : Incoming) : (s.cameIn y).cgHeld = s.cgHeld := rfl
@[simp] theorem State.cameIn_clock (s : State) (y : Incoming) : (s.cameIn y).clock = s.clock := rfl
@[simp] theorem State.cameIn_agenda (s : State) (y : Incoming) : (s.cameIn y).agenda = s.agenda := rfl
@[simp] theorem State.cameIn_cur (s : State) (y : Incoming) : (s.cameIn y).cur = s.cur := rfl
@[simp] theorem State.cameIn_ticks (s : State) (y : Incoming) : (s.cameIn y).ticks = s.ticks := rfl

/-! `State.sendWrite`. -/

@[simp] theorem State.sendWrite_cores (s : State) (who : Option Who) (n : Nat) (va : Word) (pa : Nat) (bs : List Byte) (v : Option Nat) : (s.sendWrite who n va pa bs v).cores = s.cores := rfl
@[simp] theorem State.sendWrite_mem (s : State) (who : Option Who) (n : Nat) (va : Word) (pa : Nat) (bs : List Byte) (v : Option Nat) : (s.sendWrite who n va pa bs v).mem = s.mem := rfl
@[simp] theorem State.sendWrite_frz (s : State) (who : Option Who) (n : Nat) (va : Word) (pa : Nat) (bs : List Byte) (v : Option Nat) : (s.sendWrite who n va pa bs v).frz = s.frz := rfl
@[simp] theorem State.sendWrite_posts (s : State) (who : Option Who) (n : Nat) (va : Word) (pa : Nat) (bs : List Byte) (v : Option Nat) : (s.sendWrite who n va pa bs v).posts = s.posts := rfl
@[simp] theorem State.sendWrite_replies (s : State) (who : Option Who) (n : Nat) (va : Word) (pa : Nat) (bs : List Byte) (v : Option Nat) : (s.sendWrite who n va pa bs v).replies = s.replies := rfl
@[simp] theorem State.sendWrite_conf (s : State) (who : Option Who) (n : Nat) (va : Word) (pa : Nat) (bs : List Byte) (v : Option Nat) : (s.sendWrite who n va pa bs v).conf = s.conf := rfl
@[simp] theorem State.sendWrite_sched (s : State) (who : Option Who) (n : Nat) (va : Word) (pa : Nat) (bs : List Byte) (v : Option Nat) : (s.sendWrite who n va pa bs v).sched = s.sched := rfl
@[simp] theorem State.sendWrite_mgmt (s : State) (who : Option Who) (n : Nat) (va : Word) (pa : Nat) (bs : List Byte) (v : Option Nat) : (s.sendWrite who n va pa bs v).mgmt = s.mgmt := rfl
@[simp] theorem State.sendWrite_vectors (s : State) (who : Option Who) (n : Nat) (va : Word) (pa : Nat) (bs : List Byte) (v : Option Nat) : (s.sendWrite who n va pa bs v).vectors = s.vectors := rfl
@[simp] theorem State.sendWrite_msix (s : State) (who : Option Who) (n : Nat) (va : Word) (pa : Nat) (bs : List Byte) (v : Option Nat) : (s.sendWrite who n va pa bs v).msix = s.msix := rfl
@[simp] theorem State.sendWrite_pba (s : State) (who : Option Who) (n : Nat) (va : Word) (pa : Nat) (bs : List Byte) (v : Option Nat) : (s.sendWrite who n va pa bs v).pba = s.pba := rfl
@[simp] theorem State.sendWrite_hostReads (s : State) (who : Option Who) (n : Nat) (va : Word) (pa : Nat) (bs : List Byte) (v : Option Nat) : (s.sendWrite who n va pa bs v).hostReads = s.hostReads := rfl
@[simp] theorem State.sendWrite_port (s : State) (who : Option Who) (n : Nat) (va : Word) (pa : Nat) (bs : List Byte) (v : Option Nat) : (s.sendWrite who n va pa bs v).port = s.port := rfl
@[simp] theorem State.sendWrite_cg (s : State) (who : Option Who) (n : Nat) (va : Word) (pa : Nat) (bs : List Byte) (v : Option Nat) : (s.sendWrite who n va pa bs v).cg = s.cg := rfl
@[simp] theorem State.sendWrite_cgHeld (s : State) (who : Option Who) (n : Nat) (va : Word) (pa : Nat) (bs : List Byte) (v : Option Nat) : (s.sendWrite who n va pa bs v).cgHeld = s.cgHeld := rfl
@[simp] theorem State.sendWrite_clock (s : State) (who : Option Who) (n : Nat) (va : Word) (pa : Nat) (bs : List Byte) (v : Option Nat) : (s.sendWrite who n va pa bs v).clock = s.clock := rfl
@[simp] theorem State.sendWrite_agenda (s : State) (who : Option Who) (n : Nat) (va : Word) (pa : Nat) (bs : List Byte) (v : Option Nat) : (s.sendWrite who n va pa bs v).agenda = s.agenda := rfl
@[simp] theorem State.sendWrite_cur (s : State) (who : Option Who) (n : Nat) (va : Word) (pa : Nat) (bs : List Byte) (v : Option Nat) : (s.sendWrite who n va pa bs v).cur = s.cur := rfl
@[simp] theorem State.sendWrite_ticks (s : State) (who : Option Who) (n : Nat) (va : Word) (pa : Nat) (bs : List Byte) (v : Option Nat) : (s.sendWrite who n va pa bs v).ticks = s.ticks := rfl

/-! `Strand.fenceReads`. -/

@[simp] theorem Strand.fenceReads_pc (t : Strand) (n : Nat) : (t.fenceReads n).pc = t.pc := rfl
@[simp] theorem Strand.fenceReads_npc (t : Strand) (n : Nat) : (t.fenceReads n).npc = t.npc := rfl
@[simp] theorem Strand.fenceReads_mode (t : Strand) (n : Nat) : (t.fenceReads n).mode = t.mode := rfl
@[simp] theorem Strand.fenceReads_g (t : Strand) (n : Nat) : (t.fenceReads n).g = t.g := rfl
@[simp] theorem Strand.fenceReads_sg (t : Strand) (n : Nat) : (t.fenceReads n).sg = t.sg := rfl
@[simp] theorem Strand.fenceReads_f (t : Strand) (n : Nat) : (t.fenceReads n).f = t.f := rfl
@[simp] theorem Strand.fenceReads_ret (t : Strand) (n : Nat) : (t.fenceReads n).ret = t.ret := rfl
@[simp] theorem Strand.fenceReads_sret (t : Strand) (n : Nat) : (t.fenceReads n).sret = t.sret := rfl
@[simp] theorem Strand.fenceReads_rspill (t : Strand) (n : Nat) : (t.fenceReads n).rspill = t.rspill := rfl
@[simp] theorem Strand.fenceReads_spilled (t : Strand) (n : Nat) : (t.fenceReads n).spilled = t.spilled := rfl
@[simp] theorem Strand.fenceReads_sstatus (t : Strand) (n : Nat) : (t.fenceReads n).sstatus = t.sstatus := rfl
@[simp] theorem Strand.fenceReads_sepc (t : Strand) (n : Nat) : (t.fenceReads n).sepc = t.sepc := rfl
@[simp] theorem Strand.fenceReads_svec (t : Strand) (n : Nat) : (t.fenceReads n).svec = t.svec := rfl
@[simp] theorem Strand.fenceReads_scause (t : Strand) (n : Nat) : (t.fenceReads n).scause = t.scause := rfl
@[simp] theorem Strand.fenceReads_sfaddr (t : Strand) (n : Nat) : (t.fenceReads n).sfaddr = t.sfaddr := rfl
@[simp] theorem Strand.fenceReads_sfinfo (t : Strand) (n : Nat) : (t.fenceReads n).sfinfo = t.sfinfo := rfl
@[simp] theorem Strand.fenceReads_sarg (t : Strand) (n : Nat) : (t.fenceReads n).sarg = t.sarg := rfl
@[simp] theorem Strand.fenceReads_sscratch (t : Strand) (n : Nat) : (t.fenceReads n).sscratch = t.sscratch := rfl
@[simp] theorem Strand.fenceReads_sdeleg (t : Strand) (n : Nat) : (t.fenceReads n).sdeleg = t.sdeleg := rfl
@[simp] theorem Strand.fenceReads_retries (t : Strand) (n : Nat) : (t.fenceReads n).retries = t.retries := rfl
@[simp] theorem Strand.fenceReads_backoff (t : Strand) (n : Nat) : (t.fenceReads n).backoff = t.backoff := rfl
@[simp] theorem Strand.fenceReads_inBackoff (t : Strand) (n : Nat) : (t.fenceReads n).inBackoff = t.inBackoff := rfl
@[simp] theorem Strand.fenceReads_lastFault (t : Strand) (n : Nat) : (t.fenceReads n).lastFault = t.lastFault := rfl
@[simp] theorem Strand.fenceReads_wait (t : Strand) (n : Nat) : (t.fenceReads n).wait = t.wait := rfl
@[simp] theorem Strand.fenceReads_wfloor (t : Strand) (n : Nat) : (t.fenceReads n).wfloor = t.wfloor := rfl

/-! `State.noteUnits`. -/



/-! `State.pass`. -/



/-! `Core.fillLine`. -/



/-! `Strand.writeUserG`. -/



/-! `Strand.resumeUser`. -/



/-! `State.peerFreeze`. -/



/-! `State.setUnseen`. -/

@[simp] theorem State.setUnseen_cores (s : State) (l : List Unseen) : (s.setUnseen l).cores = s.cores := rfl
@[simp] theorem State.setUnseen_frz (s : State) (l : List Unseen) : (s.setUnseen l).frz = s.frz := rfl
@[simp] theorem State.setUnseen_posts (s : State) (l : List Unseen) : (s.setUnseen l).posts = s.posts := rfl
@[simp] theorem State.setUnseen_replies (s : State) (l : List Unseen) : (s.setUnseen l).replies = s.replies := rfl
@[simp] theorem State.setUnseen_conf (s : State) (l : List Unseen) : (s.setUnseen l).conf = s.conf := rfl
@[simp] theorem State.setUnseen_sched (s : State) (l : List Unseen) : (s.setUnseen l).sched = s.sched := rfl
@[simp] theorem State.setUnseen_mgmt (s : State) (l : List Unseen) : (s.setUnseen l).mgmt = s.mgmt := rfl
@[simp] theorem State.setUnseen_link (s : State) (l : List Unseen) : (s.setUnseen l).link = s.link := rfl
@[simp] theorem State.setUnseen_vectors (s : State) (l : List Unseen) : (s.setUnseen l).vectors = s.vectors := rfl
@[simp] theorem State.setUnseen_msix (s : State) (l : List Unseen) : (s.setUnseen l).msix = s.msix := rfl
@[simp] theorem State.setUnseen_pba (s : State) (l : List Unseen) : (s.setUnseen l).pba = s.pba := rfl
@[simp] theorem State.setUnseen_hostReads (s : State) (l : List Unseen) : (s.setUnseen l).hostReads = s.hostReads := rfl
@[simp] theorem State.setUnseen_port (s : State) (l : List Unseen) : (s.setUnseen l).port = s.port := rfl
@[simp] theorem State.setUnseen_cg (s : State) (l : List Unseen) : (s.setUnseen l).cg = s.cg := rfl
@[simp] theorem State.setUnseen_cgHeld (s : State) (l : List Unseen) : (s.setUnseen l).cgHeld = s.cgHeld := rfl
@[simp] theorem State.setUnseen_clock (s : State) (l : List Unseen) : (s.setUnseen l).clock = s.clock := rfl
@[simp] theorem State.setUnseen_agenda (s : State) (l : List Unseen) : (s.setUnseen l).agenda = s.agenda := rfl
@[simp] theorem State.setUnseen_cur (s : State) (l : List Unseen) : (s.setUnseen l).cur = s.cur := rfl
@[simp] theorem State.setUnseen_ticks (s : State) (l : List Unseen) : (s.setUnseen l).ticks = s.ticks := rfl

/-! `State.seen`. -/

@[simp] theorem State.seen_cores (s : State) : (s.seen).cores = s.cores := rfl
@[simp] theorem State.seen_frz (s : State) : (s.seen).frz = s.frz := rfl
@[simp] theorem State.seen_posts (s : State) : (s.seen).posts = s.posts := rfl
@[simp] theorem State.seen_replies (s : State) : (s.seen).replies = s.replies := rfl
@[simp] theorem State.seen_conf (s : State) : (s.seen).conf = s.conf := rfl
@[simp] theorem State.seen_sched (s : State) : (s.seen).sched = s.sched := rfl
@[simp] theorem State.seen_mgmt (s : State) : (s.seen).mgmt = s.mgmt := rfl
@[simp] theorem State.seen_link (s : State) : (s.seen).link = s.link := rfl
@[simp] theorem State.seen_vectors (s : State) : (s.seen).vectors = s.vectors := rfl
@[simp] theorem State.seen_msix (s : State) : (s.seen).msix = s.msix := rfl
@[simp] theorem State.seen_pba (s : State) : (s.seen).pba = s.pba := rfl
@[simp] theorem State.seen_hostReads (s : State) : (s.seen).hostReads = s.hostReads := rfl
@[simp] theorem State.seen_port (s : State) : (s.seen).port = s.port := rfl
@[simp] theorem State.seen_cg (s : State) : (s.seen).cg = s.cg := rfl
@[simp] theorem State.seen_cgHeld (s : State) : (s.seen).cgHeld = s.cgHeld := rfl
@[simp] theorem State.seen_clock (s : State) : (s.seen).clock = s.clock := rfl
@[simp] theorem State.seen_agenda (s : State) : (s.seen).agenda = s.agenda := rfl
@[simp] theorem State.seen_cur (s : State) : (s.seen).cur = s.cur := rfl
@[simp] theorem State.seen_ticks (s : State) : (s.seen).ticks = s.ticks := rfl

/-! `State.portWrite`. -/

@[simp] theorem State.portWrite_cores (s : State) (w : PortWrite) : (s.portWrite w).cores = s.cores := rfl
@[simp] theorem State.portWrite_mem (s : State) (w : PortWrite) : (s.portWrite w).mem = s.mem := rfl
@[simp] theorem State.portWrite_frz (s : State) (w : PortWrite) : (s.portWrite w).frz = s.frz := rfl
@[simp] theorem State.portWrite_posts (s : State) (w : PortWrite) : (s.portWrite w).posts = s.posts := rfl
@[simp] theorem State.portWrite_replies (s : State) (w : PortWrite) : (s.portWrite w).replies = s.replies := rfl
@[simp] theorem State.portWrite_conf (s : State) (w : PortWrite) : (s.portWrite w).conf = s.conf := rfl
@[simp] theorem State.portWrite_sched (s : State) (w : PortWrite) : (s.portWrite w).sched = s.sched := rfl
@[simp] theorem State.portWrite_mgmt (s : State) (w : PortWrite) : (s.portWrite w).mgmt = s.mgmt := rfl
@[simp] theorem State.portWrite_link (s : State) (w : PortWrite) : (s.portWrite w).link = s.link := rfl
@[simp] theorem State.portWrite_vectors (s : State) (w : PortWrite) : (s.portWrite w).vectors = s.vectors := rfl
@[simp] theorem State.portWrite_msix (s : State) (w : PortWrite) : (s.portWrite w).msix = s.msix := rfl
@[simp] theorem State.portWrite_pba (s : State) (w : PortWrite) : (s.portWrite w).pba = s.pba := rfl
@[simp] theorem State.portWrite_hostReads (s : State) (w : PortWrite) : (s.portWrite w).hostReads = s.hostReads := rfl
@[simp] theorem State.portWrite_cg (s : State) (w : PortWrite) : (s.portWrite w).cg = s.cg := rfl
@[simp] theorem State.portWrite_cgHeld (s : State) (w : PortWrite) : (s.portWrite w).cgHeld = s.cgHeld := rfl
@[simp] theorem State.portWrite_clock (s : State) (w : PortWrite) : (s.portWrite w).clock = s.clock := rfl
@[simp] theorem State.portWrite_agenda (s : State) (w : PortWrite) : (s.portWrite w).agenda = s.agenda := rfl
@[simp] theorem State.portWrite_cur (s : State) (w : PortWrite) : (s.portWrite w).cur = s.cur := rfl
@[simp] theorem State.portWrite_ticks (s : State) (w : PortWrite) : (s.portWrite w).ticks = s.ticks := rfl

/-! `State.hostOwns`. -/

@[simp] theorem State.hostOwns_cores (s : State) (pa n : Nat) : (s.hostOwns pa n).cores = s.cores := rfl
@[simp] theorem State.hostOwns_frz (s : State) (pa n : Nat) : (s.hostOwns pa n).frz = s.frz := rfl
@[simp] theorem State.hostOwns_posts (s : State) (pa n : Nat) : (s.hostOwns pa n).posts = s.posts := rfl
@[simp] theorem State.hostOwns_replies (s : State) (pa n : Nat) : (s.hostOwns pa n).replies = s.replies := rfl
@[simp] theorem State.hostOwns_conf (s : State) (pa n : Nat) : (s.hostOwns pa n).conf = s.conf := rfl
@[simp] theorem State.hostOwns_sched (s : State) (pa n : Nat) : (s.hostOwns pa n).sched = s.sched := rfl
@[simp] theorem State.hostOwns_mgmt (s : State) (pa n : Nat) : (s.hostOwns pa n).mgmt = s.mgmt := rfl
@[simp] theorem State.hostOwns_link (s : State) (pa n : Nat) : (s.hostOwns pa n).link = s.link := rfl
@[simp] theorem State.hostOwns_vectors (s : State) (pa n : Nat) : (s.hostOwns pa n).vectors = s.vectors := rfl
@[simp] theorem State.hostOwns_msix (s : State) (pa n : Nat) : (s.hostOwns pa n).msix = s.msix := rfl
@[simp] theorem State.hostOwns_pba (s : State) (pa n : Nat) : (s.hostOwns pa n).pba = s.pba := rfl
@[simp] theorem State.hostOwns_hostReads (s : State) (pa n : Nat) : (s.hostOwns pa n).hostReads = s.hostReads := rfl
@[simp] theorem State.hostOwns_port (s : State) (pa n : Nat) : (s.hostOwns pa n).port = s.port := rfl
@[simp] theorem State.hostOwns_cg (s : State) (pa n : Nat) : (s.hostOwns pa n).cg = s.cg := rfl
@[simp] theorem State.hostOwns_cgHeld (s : State) (pa n : Nat) : (s.hostOwns pa n).cgHeld = s.cgHeld := rfl
@[simp] theorem State.hostOwns_clock (s : State) (pa n : Nat) : (s.hostOwns pa n).clock = s.clock := rfl
@[simp] theorem State.hostOwns_agenda (s : State) (pa n : Nat) : (s.hostOwns pa n).agenda = s.agenda := rfl
@[simp] theorem State.hostOwns_cur (s : State) (pa n : Nat) : (s.hostOwns pa n).cur = s.cur := rfl
@[simp] theorem State.hostOwns_ticks (s : State) (pa n : Nat) : (s.hostOwns pa n).ticks = s.ticks := rfl

/-! `State.claim`. -/

@[simp] theorem State.claim_mem (s : State) (c : CoreId) (off n : Nat) : (s.claim c off n).mem = s.mem := rfl
@[simp] theorem State.claim_frz (s : State) (c : CoreId) (off n : Nat) : (s.claim c off n).frz = s.frz := rfl
@[simp] theorem State.claim_posts (s : State) (c : CoreId) (off n : Nat) : (s.claim c off n).posts = s.posts := rfl
@[simp] theorem State.claim_replies (s : State) (c : CoreId) (off n : Nat) : (s.claim c off n).replies = s.replies := rfl
@[simp] theorem State.claim_conf (s : State) (c : CoreId) (off n : Nat) : (s.claim c off n).conf = s.conf := rfl
@[simp] theorem State.claim_sched (s : State) (c : CoreId) (off n : Nat) : (s.claim c off n).sched = s.sched := rfl
@[simp] theorem State.claim_mgmt (s : State) (c : CoreId) (off n : Nat) : (s.claim c off n).mgmt = s.mgmt := rfl
@[simp] theorem State.claim_link (s : State) (c : CoreId) (off n : Nat) : (s.claim c off n).link = s.link := rfl
@[simp] theorem State.claim_vectors (s : State) (c : CoreId) (off n : Nat) : (s.claim c off n).vectors = s.vectors := rfl
@[simp] theorem State.claim_msix (s : State) (c : CoreId) (off n : Nat) : (s.claim c off n).msix = s.msix := rfl
@[simp] theorem State.claim_pba (s : State) (c : CoreId) (off n : Nat) : (s.claim c off n).pba = s.pba := rfl
@[simp] theorem State.claim_hostReads (s : State) (c : CoreId) (off n : Nat) : (s.claim c off n).hostReads = s.hostReads := rfl
@[simp] theorem State.claim_port (s : State) (c : CoreId) (off n : Nat) : (s.claim c off n).port = s.port := rfl
@[simp] theorem State.claim_cg (s : State) (c : CoreId) (off n : Nat) : (s.claim c off n).cg = s.cg := rfl
@[simp] theorem State.claim_cgHeld (s : State) (c : CoreId) (off n : Nat) : (s.claim c off n).cgHeld = s.cgHeld := rfl
@[simp] theorem State.claim_clock (s : State) (c : CoreId) (off n : Nat) : (s.claim c off n).clock = s.clock := rfl
@[simp] theorem State.claim_agenda (s : State) (c : CoreId) (off n : Nat) : (s.claim c off n).agenda = s.agenda := rfl
@[simp] theorem State.claim_cur (s : State) (c : CoreId) (off n : Nat) : (s.claim c off n).cur = s.cur := rfl
@[simp] theorem State.claim_ticks (s : State) (c : CoreId) (off n : Nat) : (s.claim c off n).ticks = s.ticks := rfl

/-! `Core.claim`. -/

@[simp] theorem Core.claim_task (k : Core) (off n : Nat) (key : GangKey) (p : Nat) : (k.claim off n key p).task = k.task := rfl
@[simp] theorem Core.claim_held (k : Core) (off n : Nat) (key : GangKey) (p : Nat) : (k.claim off n key p).held = k.held := rfl
@[simp] theorem Core.claim_halting (k : Core) (off n : Nat) (key : GangKey) (p : Nat) : (k.claim off n key p).halting = k.halting := rfl
@[simp] theorem Core.claim_halted (k : Core) (off n : Nat) (key : GangKey) (p : Nat) : (k.claim off n key p).halted = k.halted := rfl
@[simp] theorem Core.claim_loading (k : Core) (off n : Nat) (key : GangKey) (p : Nat) : (k.claim off n key p).loading = k.loading := rfl
@[simp] theorem Core.claim_asleep (k : Core) (off n : Nat) (key : GangKey) (p : Nat) : (k.claim off n key p).asleep = k.asleep := rfl
@[simp] theorem Core.claim_sleepAdvances (k : Core) (off n : Nat) (key : GangKey) (p : Nat) : (k.claim off n key p).sleepAdvances = k.sleepAdvances := rfl
@[simp] theorem Core.claim_main (k : Core) (off n : Nat) (key : GangKey) (p : Nat) : (k.claim off n key p).main = k.main := rfl
@[simp] theorem Core.claim_err (k : Core) (off n : Nat) (key : GangKey) (p : Nat) : (k.claim off n key p).err = k.err := rfl
@[simp] theorem Core.claim_run (k : Core) (off n : Nat) (key : GangKey) (p : Nat) : (k.claim off n key p).run = k.run := rfl
@[simp] theorem Core.claim_mbox (k : Core) (off n : Nat) (key : GangKey) (p : Nat) : (k.claim off n key p).mbox = k.mbox := rfl
@[simp] theorem Core.claim_m (k : Core) (off n : Nat) (key : GangKey) (p : Nat) : (k.claim off n key p).m = k.m := rfl
@[simp] theorem Core.claim_t (k : Core) (off n : Nat) (key : GangKey) (p : Nat) : (k.claim off n key p).t = k.t := rfl
@[simp] theorem Core.claim_a (k : Core) (off n : Nat) (key : GangKey) (p : Nat) : (k.claim off n key p).a = k.a := rfl
@[simp] theorem Core.claim_rot (k : Core) (off n : Nat) (key : GangKey) (p : Nat) : (k.claim off n key p).rot = k.rot := rfl
@[simp] theorem Core.claim_ls (k : Core) (off n : Nat) (key : GangKey) (p : Nat) : (k.claim off n key p).ls = k.ls := rfl
@[simp] theorem Core.claim_bad (k : Core) (off n : Nat) (key : GangKey) (p : Nat) : (k.claim off n key p).bad = k.bad := rfl
@[simp] theorem Core.claim_full (k : Core) (off n : Nat) (key : GangKey) (p : Nat) : (k.claim off n key p).full = k.full := rfl
@[simp] theorem Core.claim_cells (k : Core) (off n : Nat) (key : GangKey) (p : Nat) : (k.claim off n key p).cells = k.cells := rfl
@[simp] theorem Core.claim_slots (k : Core) (off n : Nat) (key : GangKey) (p : Nat) : (k.claim off n key p).slots = k.slots := rfl
@[simp] theorem Core.claim_codegen (k : Core) (off n : Nat) (key : GangKey) (p : Nat) : (k.claim off n key p).codegen = k.codegen := rfl
@[simp] theorem Core.claim_scopemiss (k : Core) (off n : Nat) (key : GangKey) (p : Nat) : (k.claim off n key p).scopemiss = k.scopemiss := rfl
@[simp] theorem Core.claim_fcause (k : Core) (off n : Nat) (key : GangKey) (p : Nat) : (k.claim off n key p).fcause = k.fcause := rfl
@[simp] theorem Core.claim_counters (k : Core) (off n : Nat) (key : GangKey) (p : Nat) : (k.claim off n key p).counters = k.counters := rfl
@[simp] theorem Core.claim_epoch (k : Core) (off n : Nat) (key : GangKey) (p : Nat) : (k.claim off n key p).epoch = k.epoch := rfl
@[simp] theorem Core.claim_writes (k : Core) (off n : Nat) (key : GangKey) (p : Nat) : (k.claim off n key p).writes = k.writes := rfl
@[simp] theorem Core.claim_copies (k : Core) (off n : Nat) (key : GangKey) (p : Nat) : (k.claim off n key p).copies = k.copies := rfl
@[simp] theorem Core.claim_batches (k : Core) (off n : Nat) (key : GangKey) (p : Nat) : (k.claim off n key p).batches = k.batches := rfl
@[simp] theorem Core.claim_batchCtr (k : Core) (off n : Nat) (key : GangKey) (p : Nat) : (k.claim off n key p).batchCtr = k.batchCtr := rfl
@[simp] theorem Core.claim_order (k : Core) (off n : Nat) (key : GangKey) (p : Nat) : (k.claim off n key p).order = k.order := rfl
@[simp] theorem Core.claim_barPhase (k : Core) (off n : Nat) (key : GangKey) (p : Nat) : (k.claim off n key p).barPhase = k.barPhase := rfl
@[simp] theorem Core.claim_barCell (k : Core) (off n : Nat) (key : GangKey) (p : Nat) : (k.claim off n key p).barCell = k.barCell := rfl
@[simp] theorem Core.claim_barLost (k : Core) (off n : Nat) (key : GangKey) (p : Nat) : (k.claim off n key p).barLost = k.barLost := rfl
@[simp] theorem Core.claim_thawBound (k : Core) (off n : Nat) (key : GangKey) (p : Nat) : (k.claim off n key p).thawBound = k.thawBound := rfl
@[simp] theorem Core.claim_rowUnits (k : Core) (off n : Nat) (key : GangKey) (p : Nat) : (k.claim off n key p).rowUnits = k.rowUnits := rfl
@[simp] theorem Core.claim_gather (k : Core) (off n : Nat) (key : GangKey) (p : Nat) : (k.claim off n key p).gather = k.gather := rfl
@[simp] theorem Core.claim_deferred (k : Core) (off n : Nat) (key : GangKey) (p : Nat) : (k.claim off n key p).deferred = k.deferred := rfl
@[simp] theorem Core.claim_l1i (k : Core) (off n : Nat) (key : GangKey) (p : Nat) : (k.claim off n key p).l1i = k.l1i := rfl
@[simp] theorem Core.claim_prefetched (k : Core) (off n : Nat) (key : GangKey) (p : Nat) : (k.claim off n key p).prefetched = k.prefetched := rfl
@[simp] theorem Core.claim_tlb (k : Core) (off n : Nat) (key : GangKey) (p : Nat) : (k.claim off n key p).tlb = k.tlb := rfl
@[simp] theorem Core.claim_itlb (k : Core) (off n : Nat) (key : GangKey) (p : Nat) : (k.claim off n key p).itlb = k.itlb := rfl
@[simp] theorem Core.claim_walks (k : Core) (off n : Nat) (key : GangKey) (p : Nat) : (k.claim off n key p).walks = k.walks := rfl

end Sys2Proof.Machine
end

