-- ==== Sys2Proof/Laws/Registers.lean ====
section
/-! SUPPORT. Reading after writing: cores, strands and the register files (R63, R67, R287), and what retirement leaves as
it was. -/

namespace Sys2Proof.Machine

/-! Cores and strands. -/

@[simp] theorem State.core_setCore_self (s : State) (c : CoreId) (k : Core) : (s.setCore c k).core c = k := by
  simp [State.core, State.setCore]

theorem State.core_setCore_ne (s : State) {c d : CoreId} (k : Core) (h : d ≠ c) : (s.setCore c k).core d = s.core d := by
  have : c.val ≠ d.val := fun e => h (Fin.ext e.symm)
  simp [State.core, State.setCore, Vector.getElem_set_ne, this]

theorem State.core_setCore (s : State) (c d : CoreId) (k : Core) :
    (s.setCore c k).core d = if d = c then k else s.core d := by
  split
  · subst d; simp
  · rw [State.core_setCore_ne]; assumption

@[simp] theorem State.setCore_setCore (s : State) (c : CoreId) (k l : Core) :
    (s.setCore c k).setCore c l = s.setCore c l := by
  simp [State.setCore]

@[simp] theorem State.setCore_core (s : State) (c : CoreId) : s.setCore c (s.core c) = s := by
  simp [State.setCore, State.core]

@[simp] theorem State.core_mapCore_self (s : State) (c : CoreId) (f : Core → Core) :
    (s.mapCore c f).core c = f (s.core c) := by simp [State.mapCore]

theorem State.core_mapCore_ne (s : State) {c d : CoreId} (f : Core → Core) (h : d ≠ c) :
    (s.mapCore c f).core d = s.core d := by simp [State.mapCore, State.core_setCore_ne s _ h]

@[simp] theorem State.here_setHere (s : State) (k : Core) : (s.setHere k).here = k := by
  simp [State.here, State.setHere]

@[simp] theorem State.setHere_here (s : State) : s.setHere s.here = s := by simp [State.here, State.setHere]

@[simp] theorem State.setHere_setHere (s : State) (k l : Core) : (s.setHere k).setHere l = s.setHere l := by
  simp [State.setHere]

theorem State.core_setHere_ne (s : State) {c : CoreId} (k : Core) (h : c ≠ s.cur.core) : (s.setHere k).core c = s.core c :=
  State.core_setCore_ne s k h

@[simp] theorem Core.strand_setStrand (k : Core) (e : Bool) (x : Strand) : (k.setStrand e x).strand e = x := by
  cases e <;> rfl

@[simp] theorem Core.strand_setStrand_not (k : Core) (e : Bool) (x : Strand) :
    (k.setStrand e x).strand (!e) = k.strand (!e) := by
  cases e <;> rfl

@[simp] theorem Core.setStrand_setStrand (k : Core) (e : Bool) (x y : Strand) :
    (k.setStrand e x).setStrand e y = k.setStrand e y := by
  cases e <;> rfl

theorem State.me_eq (s : State) : s.me = s.here.strand s.cur.errand := rfl

theorem State.setMe_eq (s : State) (x : Strand) : s.setMe x = s.setHere (s.here.setStrand s.cur.errand x) := rfl

@[simp] theorem State.me_setMe (s : State) (x : Strand) : (s.setMe x).me = x := by
  simp [State.me_eq, State.setMe_eq]

@[simp] theorem State.me_setHere (s : State) (k : Core) : (s.setHere k).me = k.strand s.cur.errand := by
  simp [State.me_eq]

/-! Scalar registers (R67, R287). -/

@[simp] theorem Strand.readG_zero (x : Strand) : x.readG 0 = 0 := rfl

@[simp] theorem Strand.writeG_zero (x : Strand) (v : Word) : x.writeG 0 v = x := rfl

theorem Strand.readG_writeG (x : Strand) (r : GReg) (v : Word) :
    (x.writeG r v).readG r = if r.val = 0 then 0 else v := by
  unfold Strand.writeG Strand.readG
  split
  · rfl
  · split
    · simp
    · simp

theorem Strand.readG_writeG_ne (x : Strand) {r q : GReg} (v : Word) (h : q ≠ r) : (x.writeG r v).readG q = x.readG q := by
  have hv : r.val ≠ q.val := fun e => h (Fin.ext e.symm)
  have hs : r.val < 16 → q.val < 16 → r.val % 16 ≠ q.val % 16 := by omega
  by_cases h0 : r.val = 0
  · simp [Strand.writeG, h0]
  · by_cases h1 : x.mode = .supervisor ∧ r.val < 16
    · by_cases h2 : q.val < 16
      · simp [Strand.writeG, Strand.readG, h0, h1, h2, Vector.getElem_set_ne, hs h1.2 h2]
      · simp [Strand.writeG, Strand.readG, h0, h1, h2]
    · by_cases h2 : x.mode = .supervisor ∧ q.val < 16
      · have h3 : ¬ r.val < 16 := fun h => h1 ⟨h2.1, h⟩
        simp [Strand.writeG, Strand.readG, h0, h2, h3]
      · simp [Strand.writeG, Strand.readG, h0, h1, h2, Vector.getElem_set_ne, hv]

theorem State.g_setG (s : State) (r : GReg) (v : Word) : (s.setG r v).g r = if r.val = 0 then 0 else v := by
  simp [State.g, State.setG, Strand.readG_writeG]

theorem State.g_setG_ne (s : State) {r q : GReg} (v : Word) (h : q ≠ r) : (s.setG r v).g q = s.g q := by
  simp [State.g, State.setG, Strand.readG_writeG_ne _ v h]

@[simp] theorem State.f_setF (s : State) (r : FReg) (v : Word) : (s.setF r v).f r = v := by
  simp [State.f, State.setF]

/-! Masks (R67). -/

@[simp] theorem Core.mask_zero (k : Core) : k.mask 0 = BitVec.allOnes 64 := rfl

theorem Core.mask_setMask (k : Core) (r : MReg) (v : Word) :
    (k.setMask r v).mask r = if r.val = 0 then BitVec.allOnes 64 else v := by
  unfold Core.setMask Core.mask
  split <;> simp

theorem Core.mask_setMask_ne (k : Core) {r q : MReg} (v : Word) (h : q ≠ r) : (k.setMask r v).mask q = k.mask q := by
  have hv : r.val ≠ q.val := fun e => h (Fin.ext e.symm)
  unfold Core.setMask
  split
  · rfl
  · unfold Core.mask
    split
    · rfl
    · simp [Vector.getElem_set_ne, hv]

/-! Retirement (R36, R48, R168, R294). -/

/-- A core whose strand has retired an instruction and goes on at an address. -/
def Core.retired (k : Core) (e : Bool) (a : Word) : Core :=
  (k.count e).setStrand e { (k.count e).strand e with pc := a }

theorem State.retireTo_eq (s : State) (a : Word) : s.retireTo a = s.setHere (s.here.retired s.cur.errand a) := by
  simp only [State.retireTo, State.at_, State.count, State.setMe_eq, State.here_setHere, State.setHere_cur,
    State.setHere_setHere, State.me_setHere, Core.retired]

theorem State.retire_eq (s : State) : s.retire = s.setHere (s.here.retired s.cur.errand s.me.npc) := State.retireTo_eq s _

/-- The strand that a retirement leaves. -/
theorem Core.strand_retired (k : Core) (e : Bool) (a : Word) :
    (k.retired e a).strand e = { (k.strand e).cleared with pc := a } := by
  cases e <;> rfl

theorem Core.other_retired (k : Core) (e : Bool) (a : Word) : (k.retired e a).strand (!e) = k.strand (!e) := by
  cases e <;> rfl

end Sys2Proof.Machine
end

