-- ==== Sys2Proof/Laws/Frame.lean ====
section
/-! SUPPORT. What a retired instruction leaves as it was: one lemma per kind of register that an instruction writes. -/

namespace Sys2Proof.Machine

/-- What a core keeps, apart from registers, when an instruction that writes registers only has done its work. -/
structure Core.Same (e : Bool) (k l : Core) : Prop where
  core : { l with main := k.main, err := k.err, counters := k.counters, m := k.m, t := k.t, a := k.a } = k
  other : l.strand (!e) = k.strand (!e)
  strand : { l.strand e with g := (k.strand e).g, sg := (k.strand e).sg, f := (k.strand e).f } = k.strand e

theorem Core.Same.refl (e : Bool) (k : Core) : Core.Same e k k := ⟨rfl, rfl, rfl⟩

theorem Core.Same.npc {e : Bool} {k l : Core} (h : Core.Same e k l) : (l.strand e).npc = (k.strand e).npc :=
  by have := congrArg Strand.npc h.strand; exact this

theorem Core.Same.mode {e : Bool} {k l : Core} (h : Core.Same e k l) : (l.strand e).mode = (k.strand e).mode :=
  by have := congrArg Strand.mode h.strand; exact this

theorem Core.Same.run {e : Bool} {k l : Core} (h : Core.Same e k l) : l.run = k.run := by
  have := congrArg Core.run h.core; exact this

/-- Where retirement counts. -/
theorem Core.counters_retired (k : Core) (e : Bool) (a : Word) :
    (k.retired e a).counters = k.counters.set (if e then 2 else 1 : Fin 7) (k.counters[(if e then 2 else 1 : Fin 7)] + 1) := by
  cases e <;> rfl

theorem State.retire_setHere (s : State) (k : Core) :
    (s.setHere k).retire = s.setHere (k.retired s.cur.errand (k.strand s.cur.errand).npc) := by
  rw [State.retire_eq]; simp

theorem Strand.cleared_readG (x : Strand) (r : GReg) (a : Word) :
    ({ x.cleared with pc := a } : Strand).readG r = x.readG r := by
  simp [Strand.readG]

/-- What retirement does. -/
theorem retiresAt_setHere {s : State} {k : Core} (h : Core.Same s.cur.errand s.here k)
    (hc : k.counters[s.retiredCounter] = s.here.counters[s.retiredCounter]) :
    RetiresAt s.me.npc s ((s.setHere k).retire) := by
  rw [State.retire_setHere]
  refine ⟨?_, ?_, ?_, ?_⟩
  · rw [State.me_eq, State.here_setHere, State.setHere_cur, Core.strand_retired]; exact h.npc
  · rw [State.me_eq, State.here_setHere, State.setHere_cur, Core.strand_retired]
    unfold Strand.cleared; split <;> rfl
  · intro hm
    rw [State.me_eq, State.here_setHere, State.setHere_cur, Core.strand_retired]
    have : (k.strand s.cur.errand).mode = .user := h.mode.trans hm
    simp [Strand.cleared, this]
  · rw [State.here_setHere]
    have hr : (k.retired s.cur.errand (k.strand s.cur.errand).npc).counters =
        k.counters.set s.retiredCounter (k.counters[s.retiredCounter] + 1) := Core.counters_retired k _ _
    simp [hr, hc]

/-- What it leaves. -/
theorem keeps_setHere {s : State} {k : Core} {w : Written} (h : Core.Same s.cur.errand s.here k)
    (hg : ∀ r, r ∉ w.g → (k.strand s.cur.errand).readG r = s.g r)
    (hu : s.me.mode = .supervisor → ∀ r : GReg, r.val < 16 → (k.strand s.cur.errand).g[r] = s.me.g[r])
    (hs : s.me.mode = .user → (k.strand s.cur.errand).sg = s.me.sg)
    (hf : ∀ r : FReg, r ∉ w.f → (k.strand s.cur.errand).f[r] = s.f r)
    (hm : ∀ r, r ∉ w.m → k.mask r = s.mask r)
    (ht : ∀ r : Fin 16, r ∉ w.t → k.t[r] = s.here.t[r])
    (ha : ∀ r : AReg, r ∉ w.a → k.a[r] = s.acc r)
    (hc : ∀ n : Fin 7, n ∉ w.ev → k.counters[n] = s.here.counters[n]) :
    Keeps w s ((s.setHere k).retire) := by
  rw [State.retire_setHere]
  generalize hx : (k.strand s.cur.errand).npc = x
  refine ⟨rfl, fun c h => State.core_setHere_ne s _ h, ?_, ?_, ?_, ?_, ?_, ?_, ?_, ?_, ?_, ?_, ?_, ?_⟩
  · rw [State.here_setHere]
    have h1 := congrArg (fun z : Core =>
      ({ z with err := s.here.err, run := s.here.run } : Core)) h.core
    unfold Core.retired Core.count
    cases s.cur.errand
    · exact h1
    · exact h1
  · show ((s.setHere _).core s.cur.core).strand _ = (s.core s.cur.core).strand _
    have : (s.setHere (k.retired s.cur.errand x)).core s.cur.core = k.retired s.cur.errand x := State.here_setHere s _
    rw [this, Core.other_retired]; exact h.other
  · simp only [State.me_setHere, Core.strand_retired]
    have h1 := h.strand
    rw [State.me_eq, ← h1]
    unfold Strand.cleared
    split <;> rfl
  · rw [State.here_setHere, ← h.run]
    unfold Core.retired Core.count
    cases s.cur.errand
    · rfl
    · simp only [if_true]
      split
      · show Option.map _ (Option.map _ k.run) = _
        cases k.run <;> rfl
      · rfl
  · intro r hr
    simp only [State.g, State.me_setHere, Core.strand_retired, Strand.cleared_readG]
    exact hg r hr
  · intro hm' r hr
    simp only [State.me_setHere, Core.strand_retired, Strand.cleared_g]
    exact hu hm' r hr
  · intro hm'
    simp only [State.me_setHere, Core.strand_retired, Strand.cleared_sg]
    exact hs hm'
  · intro r hr
    simp only [State.f, State.me_setHere, Core.strand_retired, Strand.cleared_f]
    exact hf r hr
  · intro r hr
    have : (s.setHere (k.retired s.cur.errand x)).mask r = k.mask r := by
      simp only [State.mask, State.here_setHere, Core.mask]
      unfold Core.retired; simp
    rw [this]; exact hm r hr
  · intro r hr
    simp only [State.here_setHere]
    unfold Core.retired
    simp only [Core.setStrand_t, Core.count_t]
    exact ht r hr
  · intro r hr
    simp only [State.acc, State.here_setHere]
    unfold Core.retired
    simp only [Core.setStrand_a, Core.count_a]
    exact ha r hr
  · intro n hn hw
    simp only [State.here_setHere]
    have hr : (k.retired s.cur.errand x).counters =
        k.counters.set s.retiredCounter (k.counters[s.retiredCounter] + 1) := Core.counters_retired k _ _
    have hv : s.retiredCounter.val ≠ n.val := fun e => hn (Fin.ext e.symm)
    simp only [hr]
    rw [← hc n hw]
    simp [Vector.getElem_set_ne, hv]

/-- The value of a g register. -/
theorem holds_setHere {s : State} {k : Core} {r : GReg} {v : Word}
    (h : (k.strand s.cur.errand).readG r = if r.val = 0 then 0 else v) : ((s.setHere k).retire).holds r v := by
  rw [State.retire_setHere]
  simp only [State.holds, State.g, State.me_setHere, Core.strand_retired, Strand.cleared_readG]
  exact h

/-! Completion, by what an instruction writes. -/

theorem issue_admitted {i : Instr} {s : State} {body : State → Effect} (h : s.issueFault i = none) :
    issue i s body = conclude s (body s) := by
  unfold issue; rw [h]

theorem Core.same_setStrand (k : Core) (e : Bool) (x : Strand)
    (h : { x with g := (k.strand e).g, sg := (k.strand e).sg, f := (k.strand e).f } = k.strand e) :
    Core.Same e k (k.setStrand e x) := by
  refine ⟨?_, ?_, ?_⟩
  · cases e <;> rfl
  · simp
  · simpa using h

/-- Nothing is written. -/
theorem completes_none {i : Instr} {s : State} (h : exec i s = .next s.retire) : Completes i s {} (fun _ => True) := by
  have hs := Core.Same.refl s.cur.errand s.here
  refine ⟨_, h, ?_, ?_, trivial⟩
  · have := retiresAt_setHere hs rfl
    rwa [State.setHere_here] at this
  · have := keeps_setHere (w := {}) hs (fun _ _ => rfl) (fun _ _ _ => rfl) (fun _ => rfl) (fun _ _ => rfl) (fun _ _ => rfl)
      (fun _ _ => rfl) (fun _ _ => rfl) (fun _ _ => rfl)
    rwa [State.setHere_here] at this

/-- A g register is written. -/
theorem completes_setG {i : Instr} {s : State} {r : GReg} {v : Word} (h : exec i s = .next (s.setG r v).retire) :
    Completes i s { g := [r] } (fun t => t.holds r v) := by
  have hs : Core.Same s.cur.errand s.here (s.here.setStrand s.cur.errand (s.me.writeG r v)) := by
    apply Core.same_setStrand
    rw [← State.me_eq]
    unfold Strand.writeG
    split
    · rfl
    · split <;> rfl
  refine ⟨_, h, retiresAt_setHere hs (by simp; rfl), keeps_setHere hs ?_ ?_ ?_ ?_ ?_ ?_ ?_ ?_, holds_setHere ?_⟩
  · intro q hq
    rw [Core.strand_setStrand]
    exact Strand.readG_writeG_ne _ _ (by simpa using hq)
  · intro hm q hq
    rw [Core.strand_setStrand]
    unfold Strand.writeG
    split
    · rfl
    · split
      · rfl
      · rename_i h0 h1
        have : r.val ≠ q.val := by
          intro e
          exact h1 ⟨hm, by omega⟩
        simp [Vector.getElem_set_ne, this]
  · intro hm
    rw [Core.strand_setStrand]
    unfold Strand.writeG
    split
    · rfl
    · simp [hm]
  · intro q _; rw [Core.strand_setStrand, Strand.writeG_f]; rfl
  · intro q _; simp only [Core.mask, Core.setStrand_m]; rfl
  · intro q _; rw [Core.setStrand_t]; rfl
  · intro q _; rw [Core.setStrand_a]; rfl
  · intro q _; rw [Core.setStrand_counters]; rfl
  · rw [Core.strand_setStrand, Strand.readG_writeG]

/-- An f register is written. -/
theorem completes_setF {i : Instr} {s : State} {r : FReg} {v : Word} (h : exec i s = .next (s.setF r v).retire) :
    Completes i s { f := [r] } (fun t => t.f r = v) := by
  have hs : Core.Same s.cur.errand s.here (s.here.setStrand s.cur.errand { s.me with f := s.me.f.set r v }) :=
    Core.same_setStrand _ _ _ rfl
  refine ⟨_, h, retiresAt_setHere hs (by simp; rfl), keeps_setHere hs ?_ ?_ ?_ ?_ ?_ ?_ ?_ ?_, ?_⟩
  · intro q _; rw [Core.strand_setStrand]; rfl
  · intro _ q _; rw [Core.strand_setStrand]
  · intro _; rw [Core.strand_setStrand]
  · intro q hq
    have : r.val ≠ q.val := fun e => hq (by simp [Fin.ext e])
    rw [Core.strand_setStrand]
    simp [Vector.getElem_set_ne, this, State.f]
  · intro q _; simp only [Core.mask, Core.setStrand_m]; rfl
  · intro q _; rw [Core.setStrand_t]; rfl
  · intro q _; rw [Core.setStrand_a]; rfl
  · intro q _; rw [Core.setStrand_counters]; rfl
  · show ((s.setHere _).retire).f r = v
    rw [State.retire_setHere]
    simp only [State.f, State.me_setHere, Core.strand_retired, Strand.cleared_f]
    simp

/-- A mask register is written. -/
theorem completes_setMask {i : Instr} {s : State} {r : MReg} {v : Word} (h : exec i s = .next (s.setMask r v).retire) :
    Completes i s { m := [r] } (fun t => t.mask r = if r.val = 0 then BitVec.allOnes 64 else v) := by
  have hs : Core.Same s.cur.errand s.here (s.here.setMask r v) := by
    refine ⟨?_, ?_, ?_⟩
    · unfold Core.setMask; split <;> rfl
    · simp [Core.strand]
    · simp only [Core.strand, Core.setMask_main, Core.setMask_err]
  refine ⟨_, h, retiresAt_setHere hs (by simp), keeps_setHere hs ?_ ?_ ?_ ?_ ?_ ?_ ?_ ?_, ?_⟩
  · intro q _; simp only [Core.strand, Core.setMask_main, Core.setMask_err]; rfl
  · intro _ q _; simp only [Core.strand, Core.setMask_main, Core.setMask_err]; rfl
  · intro _; simp only [Core.strand, Core.setMask_main, Core.setMask_err]; rfl
  · intro q _; simp only [Core.strand, Core.setMask_main, Core.setMask_err]; rfl
  · intro q hq; exact Core.mask_setMask_ne _ _ (by simpa using hq)
  · intro q _; rw [Core.setMask_t]
  · intro q _; rw [Core.setMask_a]; rfl
  · intro q _; rw [Core.setMask_counters]
  · show ((s.setHere _).retire).mask r = _
    rw [State.retire_setHere]
    simp only [State.mask, State.here_setHere]
    rw [← Core.mask_setMask s.here r v]
    unfold Core.retired
    simp [Core.mask]

/-- A tile is written. -/
theorem completes_setTile {i : Instr} {s : State} {r : TReg} {v : Tile} (h : exec i s = .next (s.setTile r v).retire) :
    Completes i s { t := [tileSlot s.here.rot r] } (fun t => t.tile r = v) := by
  have hs : Core.Same s.cur.errand s.here { s.here with t := s.here.t.set (tileSlot s.here.rot r) v } :=
    ⟨rfl, rfl, rfl⟩
  refine ⟨_, h, retiresAt_setHere hs rfl, keeps_setHere hs ?_ ?_ ?_ ?_ ?_ ?_ ?_ ?_, ?_⟩
  · intro q _; rfl
  · intro _ q _; rfl
  · intro _; rfl
  · intro q _; rfl
  · intro q _; rfl
  · intro q hq
    have : (tileSlot s.here.rot r).val ≠ q.val := fun e => hq (by simp [Fin.ext e])
    simp [Vector.getElem_set_ne, this]
  · intro q _; rfl
  · intro q _; rfl
  · show ((s.setHere _).retire).tile r = v
    rw [State.retire_setHere]
    simp only [State.tile, State.here_setHere]
    unfold Core.retired
    simp

/-- An accumulator is written. -/
theorem completes_setAcc {i : Instr} {s : State} {r : AReg} {v : Acc} (h : exec i s = .next (s.setAcc r v).retire) :
    Completes i s { a := [r] } (fun t => t.acc r = v) := by
  have hs : Core.Same s.cur.errand s.here { s.here with a := s.here.a.set r v } := ⟨rfl, rfl, rfl⟩
  refine ⟨_, h, retiresAt_setHere hs rfl, keeps_setHere hs ?_ ?_ ?_ ?_ ?_ ?_ ?_ ?_, ?_⟩
  · intro q _; rfl
  · intro _ q _; rfl
  · intro _; rfl
  · intro q _; rfl
  · intro q _; rfl
  · intro q _; rfl
  · intro q hq
    have : r.val ≠ q.val := fun e => hq (by simp [Fin.ext e])
    simp [Vector.getElem_set_ne, this, State.acc]
  · intro q _; rfl
  · show ((s.setHere _).retire).acc r = v
    rw [State.retire_setHere]
    simp only [State.acc, State.here_setHere]
    unfold Core.retired
    simp

end Sys2Proof.Machine
end

