-- ==== Sys2Proof/Laws/Memory.lean ====
section
/-! SUPPORT. Memory: every operation keeps the canonical form, and what a byte reads as after a write. -/

namespace Sys2Proof.Machine

/-! The canonical form. -/

theorem Memory.wf_nil : Memory.wf [] := ⟨List.Pairwise.nil, by simp⟩

theorem Memory.wf_filter {m : Memory} (h : Memory.wf m) (p : Host.Cell → Bool) : Memory.wf (m.filter p) :=
  ⟨h.1.filter p, fun c hc => h.2 c (List.mem_filter.mp hc).1⟩

/-- Cells from `a` on lie in the range of their bytes. -/
theorem cellsFrom_range (bs : List Byte) : ∀ (a : Nat), ∀ c ∈ cellsFrom a bs, a ≤ c.1 ∧ c.1 < a + bs.length := by
  induction bs with
  | nil => intro a c hc; simp [cellsFrom] at hc
  | cons b bs ih =>
    intro a c hc
    have hl : (b :: bs).length = bs.length + 1 := rfl
    unfold cellsFrom at hc
    split at hc
    · have := ih (a + 1) c hc
      omega
    · rcases List.mem_cons.mp hc with h | h
      · subst h; constructor <;> simp
      · have := ih (a + 1) c h
        omega

theorem cellsFrom_wf (bs : List Byte) : ∀ a, Memory.wf (cellsFrom a bs) := by
  induction bs with
  | nil => intro a; exact Memory.wf_nil
  | cons b bs ih =>
    intro a
    unfold cellsFrom
    split
    · exact ih (a + 1)
    · rename_i hb
      refine ⟨List.Pairwise.cons (fun c hc => ?_) (ih (a + 1)).1, fun c hc => ?_⟩
      · have := cellsFrom_range bs (a + 1) c hc
        omega
      · rcases List.mem_cons.mp hc with h | h
        · subst h; exact hb
        · exact (ih (a + 1)).2 c h

/-- Three parts in rising ranges are canonical together. -/
theorem Memory.wf_join {l m r : Memory} {a b : Nat} (hl : Memory.wf l) (hm : Memory.wf m) (hr : Memory.wf r)
    (bl : ∀ c ∈ l, c.1 < a) (bm : ∀ c ∈ m, a ≤ c.1 ∧ c.1 < b) (br : ∀ c ∈ r, b ≤ c.1) (hab : a ≤ b) :
    Memory.wf (l ++ m ++ r) := by
  refine ⟨?_, ?_⟩
  · refine List.pairwise_append.mpr ⟨List.pairwise_append.mpr ⟨hl.1, hm.1, ?_⟩, hr.1, ?_⟩
    · intro x hx y hy
      have := bl x hx
      have := bm y hy
      omega
    · intro x hx y hy
      have h2 := br y hy
      rcases List.mem_append.mp hx with h | h
      · have := bl x h
        omega
      · have := bm x h
        omega
  · intro c hc
    rcases List.mem_append.mp hc with h | h
    · rcases List.mem_append.mp h with h | h
      · exact hl.2 c h
      · exact hm.2 c h
    · exact hr.2 c h

theorem Memory.wf_write {m : Memory} (h : Memory.wf m) (a : Nat) (bs : List Byte) : Memory.wf (m.write a bs) := by
  unfold Memory.write
  refine Memory.wf_join (a := a) (b := a + bs.length) (Memory.wf_filter h _) (cellsFrom_wf bs a) (Memory.wf_filter h _)
    ?_ (cellsFrom_range bs a) ?_ (by omega)
  · intro c hc
    simpa using (List.mem_filter.mp hc).2
  · intro c hc
    simpa using (List.mem_filter.mp hc).2

theorem Memory.wf_writeParts (ps : List (Nat × List Byte)) : ∀ {m : Memory}, Memory.wf m → Memory.wf (m.writeParts ps) := by
  induction ps with
  | nil => intro m h; exact h
  | cons p ps ih => intro m h; exact ih (Memory.wf_write h _ _)

/-- Cells moved by the same distance stay canonical. -/
theorem Memory.wf_map {m : Memory} (h : Memory.wf m) (f : Nat → Nat)
    (hf : ∀ x ∈ m, ∀ y ∈ m, x.1 < y.1 → f x.1 < f y.1) : Memory.wf (m.map (fun c => (f c.1, c.2))) := by
  refine ⟨List.pairwise_map.mpr (h.1.imp_of_mem fun hx hy hxy => hf _ hx _ hy hxy), ?_⟩
  intro c hc
  obtain ⟨d, hd, rfl⟩ := List.mem_map.mp hc
  exact h.2 d hd

theorem Memory.wf_slice {m : Memory} (h : Memory.wf m) (a n : Nat) : Memory.wf (m.slice a n) := by
  unfold Memory.slice
  refine Memory.wf_map (Memory.wf_filter h _) (fun x => x - a) ?_
  intro x hx y hy hxy
  have h1 := (List.mem_filter.mp hx).2
  have h2 := (List.mem_filter.mp hy).2
  simp at h1 h2
  omega

theorem Memory.wf_splice {m x : Memory} (h : Memory.wf m) (hx : Memory.wf x) (a n : Nat) : Memory.wf (m.splice a n x) := by
  unfold Memory.splice
  refine Memory.wf_join (a := a) (b := a + n) (Memory.wf_filter h _)
    (Memory.wf_map (Memory.wf_filter hx _) (fun k => k + a) (fun _ _ _ _ hxy => by omega)) (Memory.wf_filter h _)
    ?_ ?_ ?_ (by omega)
  · intro c hc
    simpa using (List.mem_filter.mp hc).2
  · intro c hc
    obtain ⟨d, hd, rfl⟩ := List.mem_map.mp hc
    have := (List.mem_filter.mp hd).2
    simp at this
    constructor
    · exact Nat.le_add_left _ _
    · show d.1 + a < a + n
      omega
  · intro c hc
    simpa using (List.mem_filter.mp hc).2

/-! Reading after writing. -/

theorem Memory.byte_append (l m : Memory) (a : Nat) :
    Memory.byte (l ++ m) a = if (∃ c ∈ l, c.1 = a) then Memory.byte l a else Memory.byte m a := by
  induction l with
  | nil => simp
  | cons c l ih =>
    obtain ⟨k, b⟩ := c
    by_cases hk : k = a
    · simp [Memory.byte, hk]
    · simp [Memory.byte, hk, ih]

theorem Memory.byte_filter (m : Memory) (p : Nat → Bool) (a : Nat) :
    Memory.byte (m.filter (fun c => p c.1)) a = if p a then Memory.byte m a else 0 := by
  induction m with
  | nil => simp [Memory.byte]
  | cons c m ih =>
    obtain ⟨k, b⟩ := c
    by_cases hp : p k
    · by_cases hk : k = a
      · subst hk; simp [Memory.byte, hp]
      · simp [Memory.byte, hp, hk, ih]
    · by_cases hk : k = a
      · subst hk; simp [hp, ih]
      · simp [Memory.byte, hp, hk, ih]

theorem cellsFrom_byte (bs : List Byte) : ∀ a x, Memory.byte (cellsFrom a bs) x =
    if a ≤ x ∧ x < a + bs.length then bs.getD (x - a) 0 else 0 := by
  induction bs with
  | nil => intro a x; simp [cellsFrom, Memory.byte]
  | cons b bs ih =>
    intro a x
    have hl : (b :: bs).length = bs.length + 1 := rfl
    have hrec := ih (a + 1) x
    by_cases hx : x = a
    · subst hx
      have hz : Memory.byte (cellsFrom (x + 1) bs) x = 0 := by rw [hrec, if_neg (by omega)]
      unfold cellsFrom
      split
      · rename_i hb; rw [hz]; simp [hb]
      · simp [Memory.byte]
    · have hs : Memory.byte (cellsFrom a (b :: bs)) x = Memory.byte (cellsFrom (a + 1) bs) x := by
        rw [cellsFrom]
        split
        · rfl
        · simp [Memory.byte, Ne.symm hx]
      rw [hs, hrec]
      by_cases hr : a + 1 ≤ x ∧ x < a + 1 + bs.length
      · have : a ≤ x ∧ x < a + (b :: bs).length := by omega
        rw [if_pos hr, if_pos this]
        have : x - a = (x - (a + 1)) + 1 := by omega
        rw [this]; rfl
      · have : ¬(a ≤ x ∧ x < a + (b :: bs).length) := by omega
        rw [if_neg hr, if_neg this]

/-- A byte in the written range holds what was written; every other byte reads as before. -/
theorem Memory.byte_write (m : Memory) (a : Nat) (bs : List Byte) (x : Nat) :
    Memory.byte (m.write a bs) x = if a ≤ x ∧ x < a + bs.length then bs.getD (x - a) 0 else Memory.byte m x := by
  have fl := Memory.byte_filter m (fun k => decide (k < a)) x
  have fr := Memory.byte_filter m (fun k => decide (a + bs.length ≤ k)) x
  have fm := cellsFrom_byte bs a x
  unfold Memory.write
  rw [Memory.byte_append, Memory.byte_append]
  by_cases h1 : x < a
  · have hn : ¬(a ≤ x ∧ x < a + bs.length) := by omega
    have hr : ¬(a + bs.length ≤ x) := by omega
    simp only [h1, decide_true, if_true] at fl
    simp only [hr, decide_false, Bool.false_eq_true, if_false] at fr
    rw [if_neg hn] at fm ⊢
    rw [fl, fr, fm]
    split
    · split
      · rfl
      · rename_i hin hno
        exfalso
        obtain ⟨c, hc, he⟩ := hin
        rcases List.mem_append.mp hc with h | h
        · exact hno ⟨c, h, he⟩
        · have := cellsFrom_range bs a c h
          omega
    · rename_i hno
      have hm : ∀ c ∈ m, c.1 ≠ x := by
        intro c hc he
        refine hno ⟨c, List.mem_append.mpr (.inl (List.mem_filter.mpr ⟨hc, ?_⟩)), he⟩
        simpa [he] using h1
      clear fl fr fm hno
      induction m with
      | nil => rfl
      | cons c m ih =>
        obtain ⟨k, b⟩ := c
        have hk : k ≠ x := hm (k, b) List.mem_cons_self
        simp only [Memory.byte, hk, if_false]
        exact ih (fun c hc => hm c (List.mem_cons_of_mem _ hc))
  · have hl : ∀ c ∈ m.filter (fun c => decide (c.1 < a)), c.1 ≠ x := by
      intro c hc he
      have := (List.mem_filter.mp hc).2
      simp at this
      omega
    have hnl : ¬(∃ c ∈ m.filter (fun c => decide (c.1 < a)), c.1 = x) := fun ⟨c, hc, he⟩ => hl c hc he
    rw [if_neg hnl]
    by_cases h2 : x < a + bs.length
    · have hin : a ≤ x ∧ x < a + bs.length := by omega
      have hr : ¬(a + bs.length ≤ x) := by omega
      simp only [hr, decide_false, Bool.false_eq_true, if_false] at fr
      rw [if_pos hin] at fm ⊢
      rw [fr, fm]
      split
      · rfl
      · rename_i hno
        rw [← fm]
        have : ∀ c ∈ cellsFrom a bs, c.1 ≠ x := fun c hc he => hno ⟨c, List.mem_append.mpr (.inr hc), he⟩
        clear fm hno
        revert this
        generalize cellsFrom a bs = l
        induction l with
        | nil => intro _; rfl
        | cons c l ih =>
          obtain ⟨k, b⟩ := c
          intro h
          have hk : k ≠ x := h (k, b) List.mem_cons_self
          simp only [Memory.byte, hk, if_false]
          exact ih (fun c hc => h c (List.mem_cons_of_mem _ hc))
    · have hno : ¬(a ≤ x ∧ x < a + bs.length) := by omega
      have hr : a + bs.length ≤ x := by omega
      simp only [hr, decide_true, if_true] at fr
      rw [if_neg hno] at fm ⊢
      rw [fr]
      split
      · rename_i hin
        exfalso
        obtain ⟨c, hc, he⟩ := hin
        rcases List.mem_append.mp hc with h | h
        · exact hl c h he
        · have := cellsFrom_range bs a c h
          omega
      · rfl

/-! The operations of the machine that write bytes. -/

theorem State.noteWrite_cells (s : State) (pa n : Nat) (tag : Option ScopeTag) :
    (s.noteWrite pa n tag).mem.cells = s.mem.cells := by
  unfold State.noteWrite
  show (if _ then s else s.dropLines _ _).mem.cells = _
  have hd : ∀ (cs : List CoreId) (ls : List Nat) (s : State), (s.dropLines ls cs).mem = s.mem := by
    intro cs ls
    unfold State.dropLines
    induction cs with
    | nil => intro s; rfl
    | cons c cs ih => intro s; rw [List.foldl_cons, ih]; rfl
  split
  · rfl
  · rw [hd]

@[simp] theorem State.noteMaster_cells (s : State) (pa n : Nat) (m : Option Master) :
    (s.noteMaster pa n m).mem.cells = s.mem.cells := rfl

@[simp] theorem State.writePhys_cells (s : State) (pa : Nat) (bs : List Byte) (m : Option Master) (tag : Option ScopeTag) :
    (s.writePhys pa bs m tag).mem.cells = s.mem.cells.write pa bs := by
  unfold State.writePhys
  split <;> split <;> simp [State.noteWrite_cells]

@[simp] theorem State.pokePhys_cells (s : State) (pa : Nat) (bs : List Byte) :
    (s.pokePhys pa bs).mem.cells = s.mem.cells.write pa bs := rfl

@[simp] theorem Core.writeLocal_ls (k : Core) (off : Nat) (bs : List Byte) (st : Bool) :
    (k.writeLocal off bs st).ls = k.ls.write off bs := rfl

/-- A write at a home changes the bytes of its range alone. -/
theorem State.byteAt_writePhys (s : State) (pa : Nat) (bs : List Byte) (m : Option Master) (tag : Option ScopeTag)
    (x : Nat) : (s.writePhys pa bs m tag).byteAt x =
      if pa ≤ x ∧ x < pa + bs.length then bs.getD (x - pa) 0 else s.byteAt x := by
  simp [State.byteAt, Memory.byte_write]

end Sys2Proof.Machine
end

