-- ==== Sys2Proof/Laws/Operations.lean ====
section
/-! SUPPORT. What every shared operation of the machine keeps: the canonical form of the memories, and what an issued
instruction comes to. A proof about an instruction cites the lemma of the operation and does not unfold it. -/

namespace Sys2Proof.Machine

/-! From fields alone. -/

/-- Equal memories: nothing else matters to the canonical form. -/
theorem Canonical.of_eq {s t : State} (h : Canonical s) (hm : t.mem.cells = s.mem.cells)
    (hc : ∀ c, (t.core c).ls = (s.core c).ls) (hw : t.mgmt.window = s.mgmt.window)
    (hs : t.mgmt.staging = s.mgmt.staging) (hx : t.msix = s.msix) : Canonical t :=
  ⟨hm ▸ h.mem, fun c => hc c ▸ h.stores c, hw ▸ h.window, hs ▸ h.staging, hx ▸ h.msix⟩

/-- An update outside the cores, the memory, the mailbox and the MSI-X table. -/
theorem Canonical.outside {s t : State} (h : Canonical s) (hc : t.cores = s.cores) (hm : t.mem.cells = s.mem.cells)
    (hg : t.mgmt.window = s.mgmt.window) (hs : t.mgmt.staging = s.mgmt.staging) (hx : t.msix = s.msix) : Canonical t :=
  h.of_eq hm (fun c => by simp only [State.core, hc]) hg hs hx

theorem Canonical.setCore {s : State} (h : Canonical s) (c : CoreId) {k : Core} (hk : Memory.wf k.ls) :
    Canonical (s.setCore c k) := by
  refine ⟨h.mem, fun d => ?_, h.window, h.staging, h.msix⟩
  rw [State.core_setCore]
  split
  · exact hk
  · exact h.stores d

theorem Canonical.mapCore {s : State} (h : Canonical s) (c : CoreId) {f : Core → Core}
    (hf : Memory.wf (s.core c).ls → Memory.wf (f (s.core c)).ls) : Canonical (s.mapCore c f) :=
  h.setCore c (hf (h.stores c))

theorem Canonical.setHere {s : State} (h : Canonical s) {k : Core} (hk : k.ls = s.here.ls) : Canonical (s.setHere k) :=
  h.setCore _ (by rw [hk]; exact h.stores _)

theorem Canonical.setStrand {s : State} (h : Canonical s) (w : Who) (t : Strand) : Canonical (s.setStrand w t) :=
  h.mapCore _ (fun x => by simpa using x)

theorem Canonical.mapStrand {s : State} (h : Canonical s) (w : Who) (f : Strand → Strand) : Canonical (s.mapStrand w f) :=
  h.setStrand _ _

theorem Canonical.setMe {s : State} (h : Canonical s) (t : Strand) : Canonical (s.setMe t) := h.setStrand _ _

theorem Canonical.setG {s : State} (h : Canonical s) (r : GReg) (v : Word) : Canonical (s.setG r v) := h.setMe _

theorem Canonical.setF {s : State} (h : Canonical s) (r : FReg) (v : Word) : Canonical (s.setF r v) := h.setMe _

theorem Canonical.setMask {s : State} (h : Canonical s) (r : MReg) (v : Word) : Canonical (s.setMask r v) := by
  refine h.setHere ?_
  unfold Core.setMask
  split <;> rfl

theorem Canonical.setTile {s : State} (h : Canonical s) (r : TReg) (v : Tile) : Canonical (s.setTile r v) := h.setHere rfl

theorem Canonical.setAcc {s : State} (h : Canonical s) (r : AReg) (v : Acc) : Canonical (s.setAcc r v) := h.setHere rfl

/-- A fold of an operation that keeps the form. -/
theorem Canonical.foldl {α : Type} {f : State → α → State} (hf : ∀ s a, Canonical s → Canonical (f s a)) (l : List α) :
    ∀ {s : State}, Canonical s → Canonical (l.foldl f s) := by
  induction l with
  | nil => exact fun h => h
  | cons a l ih => exact fun h => ih (hf _ a h)

/-! Memory. -/

theorem Canonical.writePhys {s : State} (h : Canonical s) (pa : Nat) (bs : List Byte) (m : Option Master)
    (tag : Option ScopeTag) : Canonical (s.writePhys pa bs m tag) := by
  have hd : ∀ (cs : List CoreId) (ls : List Nat) (s : State), Canonical s → Canonical (s.dropLines ls cs) := by
    intro cs ls s h
    exact Canonical.foldl (fun s c h => h.mapCore c (fun x => x)) cs h
  have hn : Canonical (s.noteWrite pa bs.length tag) := by
    unfold State.noteWrite
    refine Canonical.outside (s := if _ then s else s.dropLines _ _) ?_ rfl rfl rfl rfl rfl
    split
    · exact h
    · exact hd _ _ _ h
  have hm : ∀ {t : State}, Canonical t → Canonical (t.noteMaster pa bs.length m) :=
    fun h => h.outside rfl rfl rfl rfl rfl
  have hw : ∀ {t : State}, Canonical t → Canonical { t with mem := { t.mem with cells := t.mem.cells.write pa bs } } :=
    fun h => ⟨Memory.wf_write h.mem _ _, h.stores, h.window, h.staging, h.msix⟩
  unfold State.writePhys
  split <;> split
  · exact hw (hm hn)
  · exact hw hn
  · exact hw (hm h)
  · exact hw h

theorem Canonical.pokePhys {s : State} (h : Canonical s) (pa : Nat) (bs : List Byte) : Canonical (s.pokePhys pa bs) :=
  ⟨Memory.wf_write h.mem _ _, h.stores, h.window, h.staging, h.msix⟩

theorem Canonical.writeLocal {s : State} (h : Canonical s) (c : CoreId) (off : Nat) (bs : List Byte) (st : Bool) :
    Canonical (s.mapCore c (·.writeLocal off bs st)) :=
  h.mapCore c (fun x => Memory.wf_write x _ _)

theorem Canonical.appendLog {s : State} (h : Canonical s) (e : Word × Word × Word × Word) : Canonical (s.appendLog e) :=
  h.outside rfl rfl rfl rfl rfl

theorem Canonical.logDeniedAt {s : State} (h : Canonical s) (m : Master) (t pa : Nat) : Canonical (s.logDeniedAt m t pa) :=
  h.appendLog _

theorem Canonical.logRefusal {s : State} (h : Canonical s) (m : Master) (x : Option (Nat × Nat)) :
    Canonical (s.logRefusal m x) := by
  unfold State.logRefusal
  split
  · exact h.logDeniedAt _ _ _
  · exact h

theorem Canonical.logDenied {s : State} (h : Canonical s) (m : Master) (pa : Nat) (r : Right) :
    Canonical (s.logDenied m pa r) := h.logRefusal _ _

theorem Canonical.logFrozen {s : State} (h : Canonical s) (m : Master) (pa : Nat) : Canonical (s.logFrozen m pa) :=
  h.appendLog _

theorem Canonical.logFault {s : State} (h : Canonical s) (m : Master) (f : FaultInfo) : Canonical (s.logFault m f) :=
  h.logRefusal _ _

theorem Canonical.raiseVector {s : State} (h : Canonical s) (n : Nat) : Canonical (s.raiseVector n) := by
  unfold State.raiseVector
  split
  · exact h.outside rfl rfl rfl rfl rfl
  · exact h.outside rfl rfl rfl rfl rfl

theorem Canonical.notify {s : State} (h : Canonical s) (v : Option Nat) : Canonical (s.notify v) := by
  unfold State.notify
  split
  · exact h.raiseVector _
  · exact h

theorem Canonical.acceptWrite {s : State} (h : Canonical s) (m : Master) (pa : Nat) (bs : List Byte)
    (tag : Option ScopeTag) (v : Option Nat) : Canonical (s.acceptWrite m pa bs tag v) := by
  unfold State.acceptWrite
  split
  · exact h.outside rfl rfl rfl rfl rfl
  · exact (h.writePhys _ _ _ _).notify _

theorem Canonical.sendWrite {s : State} (h : Canonical s) (w : Option Who) (n : Nat) (va : Word) (pa : Nat)
    (bs : List Byte) (v : Option Nat) : Canonical (s.sendWrite w n va pa bs v) := h.outside rfl rfl rfl rfl rfl

theorem Canonical.dispatch {s : State} (h : Canonical s) (w : HomeWrite) : Canonical (s.dispatch w) := by
  unfold State.dispatch
  dsimp only
  split
  · exact (h.logFrozen _ _).notify _
  · split
    · split
      · exact h.notify _
      · exact h.sendWrite _ _ _ _ _ _
    · exact h.acceptWrite _ _ _ _ _

theorem Canonical.dispatchAll (ws : List HomeWrite) : ∀ {s : State}, Canonical s → Canonical (s.dispatchAll ws) := by
  induction ws with
  | nil => exact fun h => h.outside rfl rfl rfl rfl rfl
  | cons w ws ih =>
    intro s h
    unfold State.dispatchAll
    split
    · exact h.outside rfl rfl rfl rfl rfl
    · exact ih (h.dispatch w)

theorem Canonical.flushOutbox {s : State} (h : Canonical s) : Canonical s.flushOutbox := h.dispatchAll _

theorem Canonical.agentWrite {s : State} (h : Canonical s) (m : Master) (pa : Nat) (bs : List Byte)
    (tag : Option ScopeTag) (v : Option Nat) : Canonical (s.agentWrite m pa bs tag v) := h.dispatchAll _

theorem Canonical.setGang {s : State} (h : Canonical s) (g : Gang) : Canonical (s.setGang g) :=
  h.outside rfl rfl rfl rfl rfl

theorem Canonical.setLaunch {s : State} (h : Canonical s) (l : Launch) : Canonical (s.setLaunch l) :=
  h.outside rfl rfl rfl rfl rfl

theorem Canonical.setQueue {s : State} (h : Canonical s) (q : QueueId) (x : Queue) : Canonical (s.setQueue q x) :=
  h.outside rfl rfl rfl rfl rfl

/-! Draining (R58, R59). -/

theorem Canonical.defer {s : State} (h : Canonical s) (c : CoreId) (x : Cause) (a : Word) :
    Canonical (s.mapCore c (·.defer x a)) := h.mapCore c (fun y => y)

theorem Canonical.setUnseen {s : State} (h : Canonical s) (l : List Unseen) : Canonical (s.setUnseen l) :=
  h.outside rfl rfl rfl rfl rfl

theorem Canonical.drainPart {s : State} (h : Canonical s) (c : CoreId) (w : PendingWrite) (pa : Nat) (bs : List Byte) :
    Canonical (s.drainPart c w pa bs) := by
  unfold State.drainPart
  dsimp only
  split
  · exact (h.logDenied _ _ _).defer _ _ _
  · split
    · split
      · exact h.sendWrite _ _ _ _ _ _
      · exact h
    · refine Canonical.setUnseen (Canonical.writePhys ?_ _ _ _ _) _
      split <;> split <;> first | exact h.defer _ _ _ | exact h

theorem Canonical.dropKept {s : State} (h : Canonical s) (key : GangKey) (p off n : Nat) :
    Canonical (s.dropKept key p off n) := by
  unfold State.dropKept State.mapKept
  split
  · exact h.setGang _
  · exact h

theorem Canonical.drainSeg {s : State} (h : Canonical s) (c : CoreId) (w : PendingWrite) (g : Seg) :
    Canonical (s.drainSeg c w g) := by
  unfold State.drainSeg
  split
  · exact Canonical.foldl (fun _ _ h => h.drainPart _ _ _ _) _ h
  · split
    · dsimp only
      split
      · exact (h.defer _ _ _).writeLocal _ _ _ _
      · exact h.writeLocal _ _ _ _
    · exact (h.pokePhys _ _).dropKept _ _ _ _
    · exact h

theorem Canonical.reportLost {s : State} (h : Canonical s) (c : CoreId) (w : PendingWrite) (gs : List Seg) :
    Canonical (s.reportLost c w gs) := by
  unfold State.reportLost
  split
  · exact h.defer _ _ _
  · exact h

theorem Canonical.leaveWrite {s : State} (h : Canonical s) (c : CoreId) (n : Nat) (gs : List Seg) :
    Canonical (s.mapCore c (·.leaveWrite n gs)) := h.mapCore c (fun x => x)

theorem Canonical.performWrite {s : State} (h : Canonical s) (c : CoreId) (w : PendingWrite) :
    Canonical (s.performWrite c w) :=
  (Canonical.foldl (fun _ g h => h.drainSeg c w g) _ (h.leaveWrite c _ _)).reportLost _ _ _

theorem Canonical.performPart {s : State} (h : Canonical s) (c : CoreId) (w : PendingWrite) :
    Canonical (s.performPart c w) := by
  unfold State.performPart
  dsimp only
  split
  · exact h.performWrite _ _
  · split
    · exact h
    · exact ((h.leaveWrite c _ _).drainSeg _ _ _).reportLost _ _ _

theorem Canonical.drainList (c : CoreId) (ws : List PendingWrite) :
    ∀ {s : State}, Canonical s → Canonical (s.drainList c ws) := by
  induction ws with
  | nil => exact fun h => h
  | cons w ws ih =>
    intro s h
    unfold State.drainList
    split
    · exact ih h
    · exact ih (h.performWrite c w)

theorem Canonical.drainStrand {s : State} (h : Canonical s) (w : Who) : Canonical (s.drainStrand w) :=
  Canonical.drainList _ _ h

theorem Canonical.settle {s : State} (h : Canonical s) (w : Who) (rs : List (Space × Nat × Nat)) (n : Nat) :
    Canonical (s.settle w rs n).1 :=
  Canonical.drainList _ _ h

/-! Errands (R33 to R40). -/

theorem Canonical.countDropped {s : State} (h : Canonical s) : Canonical s.countDropped := h.outside rfl rfl rfl rfl rfl

theorem Canonical.send {s : State} (h : Canonical s) (r : Reply) : Canonical (s.send r) := h.outside rfl rfl rfl rfl rfl

theorem Canonical.deliver {s : State} (h : Canonical s) (r : Reply) : Canonical (s.deliver r) := by
  unfold State.deliver
  split
  · exact h.mapCore _ (fun x => x)
  · exact h.pokePhys _ _
  · exact h.pokePhys _ _
  · exact h.countDropped
  · exact h.countDropped

@[simp] theorem Core.startErrand_ls (k : Core) : k.startErrand.ls = k.ls := by
  unfold Core.startErrand
  split
  · split <;> rfl
  · rfl

@[simp] theorem Core.endErrand_ls (k : Core) : k.endErrand.ls = k.ls := by simp [Core.endErrand]

theorem Canonical.dropErrands {s : State} (h : Canonical s) (c : CoreId) : Canonical (s.dropErrands c) :=
  Canonical.outside (h.mapCore c (f := fun k => { k with mbox := [] }) (fun x => x)) rfl rfl rfl rfl rfl

theorem Canonical.abandonErrand {s : State} (h : Canonical s) (c : CoreId) (cause : Nat) :
    Canonical (s.abandonErrand c cause) := by
  have hk : Canonical (s.mapCore c Core.endErrand) := h.mapCore c (fun x => by simpa using x)
  unfold State.abandonErrand
  split
  · exact h
  · dsimp only
    split
    · exact hk
    · exact hk.send _

/-! Completion, retirement and kills (R28, R29, R44, R49, R353). -/

theorem Canonical.reduceCells {s : State} (h : Canonical s) (g : Gang) : Canonical (s.reduceCells g) := by
  refine (Canonical.foldl (fun _ c h => h.mapCore c (f := (·.loseCells _)) fun x => ?_) _ (Canonical.foldl (fun s p h => ?_) _ h)).setGang _
  · unfold Core.loseCells
    split <;> exact x
  · split
    · exact h.mapCore _ (fun x => x)
    · exact Canonical.foldl (fun _ _ h => h.pokePhys _ _) _ h

theorem Canonical.ctxWrite {s : State} (h : Canonical s) (b : Binding) (va : Word) (bs : List Byte) (rel : Bool)
    (v : Option Nat) : Canonical (s.ctxWrite b va bs rel v) := by
  unfold State.ctxWrite
  dsimp only
  split
  · exact (h.logFault _ _).notify _
  · exact Canonical.foldl (fun _ _ h => h.agentWrite _ _ _ _ _) _ h

theorem Canonical.writeCompletion {s : State} (h : Canonical s) (ctx : BitVec 12) (q : QueueId) (a b c d : Word)
    (f : Word × Word × Word × Word) (n : Bool) : Canonical (s.writeCompletion ctx q a b c d f n) := by
  unfold State.writeCompletion
  dsimp only
  split
  · exact (h.ctxWrite _ _ _ _ _).ctxWrite _ _ _ _ _
  · exact h.notify _

theorem Canonical.completeLaunch {s : State} (h : Canonical s) (l : Launch) (a b : Nat) :
    Canonical (s.completeLaunch l a b) :=
  Canonical.outside (h.writeCompletion _ _ _ _ _ _ _ _) rfl rfl rfl rfl rfl

theorem Canonical.launchDone {s : State} (h : Canonical s) (id : Nat) : Canonical (s.launchDone id) := by
  unfold State.launchDone
  split
  · split
    · exact h.completeLaunch _ _ _
    · exact h
  · exact h

theorem Canonical.report {s : State} (h : Canonical s) (l : Option Nat) (r : Word × Word × Word × Word) :
    Canonical (s.report l r) := by
  unfold State.report
  dsimp only
  split
  · exact (h.appendLog _).setLaunch _
  · exact h.appendLog _

theorem Canonical.releaseGang {s : State} (h : Canonical s) (g : Gang) : Canonical (s.releaseGang g) :=
  Canonical.outside (Canonical.foldl (fun _ c h => h.mapCore c (fun x => x)) _ h) rfl rfl rfl rfl rfl

theorem Canonical.retireGang {s : State} (h : Canonical s) (k : GangKey) : Canonical (s.retireGang k) := by
  unfold State.retireGang
  split
  · exact h
  · split
    · split
      · split
        · exact ((h.releaseGang _).setLaunch _).launchDone _
        · exact h.releaseGang _
      · split
        · exact h.setGang _
        · exact h
    · exact h

theorem Canonical.leaveWaits {s : State} (h : Canonical s) (c : CoreId) : Canonical (s.leaveWaits c) :=
  h.outside rfl rfl rfl rfl rfl

theorem Canonical.setImageFull {s : State} (h : Canonical s) (pa off n : Nat) (v : Bool) :
    Canonical (s.setImageFull pa off n v) :=
  Canonical.foldl (fun _ _ h => h.pokePhys _ _) (granules off n) h

theorem Canonical.undoImage {s : State} (h : Canonical s) (pa : Nat) (x : RowUnit) (g : Nat) :
    Canonical (s.undoImage pa x g) := by
  unfold State.undoImage
  split
  · exact h.setImageFull _ _ _ _
  · exact (h.pokePhys _ _).setImageFull _ _ _ _
  · exact h
  · exact h

theorem Canonical.undoGranule {s : State} (h : Canonical s) (key : GangKey) (p : Nat) (x : RowUnit) (g : Nat) :
    Canonical (s.undoGranule key p x g) := by
  unfold State.undoGranule
  split <;> try split
  · refine h.mapCore _ (fun w => ?_)
    unfold Core.undoGranule
    split
    · exact w
    · exact Memory.wf_write w _ _
    · exact w
    · exact w
  all_goals first | exact h | exact (h.undoImage _ _ _).dropKept _ _ _ _

theorem Canonical.undoRows {s : State} (h : Canonical s) (key : GangKey) (p : Nat) (xs : List RowUnit) :
    Canonical (s.undoRows key p xs) := by
  unfold State.undoRows
  induction xs with
  | nil => exact h
  | cons x xs ih => exact Canonical.foldl (fun _ _ h => h.undoGranule _ _ _ _) _ ih

theorem Canonical.undoMove {s : State} (h : Canonical s) (c : CoreId) : Canonical (s.undoMove c) := by
  unfold State.undoMove
  split
  · exact h.undoRows _ _ _
  · exact h

theorem Canonical.killSaved {s : State} (h : Canonical s) (g : Gang) (p pa cause : Nat) :
    Canonical (s.killSaved g p pa cause) := by
  unfold State.killSaved State.undoKept
  split
  · exact (h.undoRows _ _ _).outside rfl rfl rfl rfl rfl
  · exact h.outside rfl rfl rfl rfl rfl

theorem Canonical.haltTask {s : State} (h : Canonical s) (c : CoreId) (cause : Nat) : Canonical (s.haltTask c cause) := by
  have hd := (((h.drainStrand ⟨c, false⟩).drainStrand ⟨c, true⟩).leaveWaits c).undoMove c
  unfold State.haltTask
  refine Canonical.abandonErrand (Canonical.dropErrands (Canonical.mapCore ?_ c (fun x => x)) c) c cause
  exact hd

theorem Canonical.killTask {s : State} (h : Canonical s) (k : GangKey) (p cause : Nat) :
    Canonical (s.killTask k p cause) := by
  unfold State.killTask
  split
  · exact h
  · split
    · exact h
    · dsimp only
      refine ((Canonical.setGang ?_ _).reduceCells _).retireGang _
      split
      · exact h.haltTask _ _
      · exact h.killSaved _ _ _ _
      · exact h

theorem Canonical.removeGang {s : State} (h : Canonical s) (g : Gang) (cause : Nat) : Canonical (s.removeGang g cause) := by
  refine (Canonical.foldl (fun _ c h => h.haltTask c cause) _ (Canonical.foldl (fun s p h => ?_) _ h)).releaseGang g
  split
  · split
    · exact h
    · exact h.killSaved _ _ _ _
  · exact h

theorem Canonical.killGang {s : State} (h : Canonical s) (k : GangKey) (cause : Nat) : Canonical (s.killGang k cause) := by
  unfold State.killGang
  split
  · exact h
  · split
    · exact h.removeGang _ _
    · exact ((h.removeGang _ _).setLaunch _).launchDone _

theorem Canonical.endLaunch {s : State} (h : Canonical s) (id a b : Nat) : Canonical (s.endLaunch id a b) := by
  unfold State.endLaunch
  split
  · exact h
  · exact (Canonical.foldl (fun s g h => h.removeGang g b) _ h).completeLaunch _ _ _

theorem Canonical.failPending {s : State} (h : Canonical s) (q : QueueId) (k : Nat) : Canonical (s.failPending q k) := by
  unfold State.failPending
  dsimp only
  split
  · exact h.logDenied _ _ _
  · exact h.writeCompletion _ _ _ _ _ _ _ _

theorem Canonical.killQueue {s : State} (h : Canonical s) (q : QueueId) (cause : Nat) :
    Canonical (s.killQueue q cause) := by
  unfold State.killQueue
  dsimp only
  refine ((Canonical.foldl (fun s i h => ?_) _ (Canonical.foldl (fun _ _ h => h.endLaunch _ _ _) _ h)).setQueue _ _).raiseVector _
  exact h.failPending _ _

theorem Canonical.killContext {s : State} (h : Canonical s) (c : BitVec 12) (cause : Nat)
    (r : Word × Word × Word × Word) : Canonical (s.killContext c cause r) := by
  unfold State.killContext
  refine Canonical.foldl (fun s q h => ?_) _ h
  split
  · exact h.killQueue _ _
  · exact (h.appendLog _).killQueue _ _

theorem Canonical.killNow {s : State} (h : Canonical s) (t : KillTarget) (cause : Nat)
    (r : Word × Word × Word × Word) : Canonical (s.killNow t cause r) := by
  unfold State.killNow
  split
  · exact h.killTask _ _ _
  · exact h.killGang _ _
  · exact h.endLaunch _ _ _
  · exact h.killQueue _ _
  · exact h.killContext _ _ _

theorem Canonical.killUnit {s : State} (h : Canonical s) (t : KillTarget) (cause : Nat)
    (r : Word × Word × Word × Word) : Canonical (s.killUnit t cause r) := by
  have hf : ∀ (b : State → CoreId → Bool) {u : State}, Canonical u →
      Canonical ((s.killedCores t).foldl (fun s c => s.mapCore c (·.setHalting (b s c))) u) :=
    fun b _ h => Canonical.foldl (fun s c h => h.mapCore c (fun x => x)) _ h
  have hd : Canonical ((s.killedCores t).foldl (fun s c => (s.drainStrand ⟨c, false⟩).drainStrand ⟨c, true⟩) s) :=
    Canonical.foldl (fun _ _ h => (h.drainStrand _).drainStrand _) _ h
  unfold State.killUnit
  dsimp only
  split
  · exact hf (fun s c => s.mustHalt c) (hd.killNow _ _ _)
  · exact (hf (fun _ _ => true) hd).outside rfl rfl rfl rfl rfl

/-! Containment and entry (R48, R60, R285 to R288). -/

theorem Canonical.consult {s : State} (h : Canonical s) (w : Who) (f : FaultInfo) (l : Level) (r : Bool) :
    Canonical (s.consult w f l r) := by
  unfold State.consult
  split
  · exact h
  · dsimp only
    split
    · have hs : ∀ (p : Prop) [Decidable p] (g : GangKey) {t : State}, Canonical t →
          Canonical (if p then (t.abandonErrand w.core f.cause.code).retireGang g
          else t.mapStrand w (·.retryLater f)) := by
        intro p _ g t h; split
        · exact (h.abandonErrand _ _).retireGang _
        · exact h.mapStrand _ _
      refine hs _ _ ?_
      split
      · exact Canonical.report (h.mapCore _ (fun x => x)) _ _
      · exact h.mapCore _ (fun x => x)
    · exact (h.report _ _).killUnit _ _ _
    · exact (h.report _ _).killUnit _ _ _

theorem Canonical.contain {s : State} (h : Canonical s) (w : Who) (f : FaultInfo) : Canonical (s.contain w f) := by
  unfold State.contain
  dsimp only
  split
  · exact h.setStrand _ _
  · exact h.consult _ _ _ _

theorem Canonical.supervisorFault {s : State} (h : Canonical s) (w : Who) (f : FaultInfo) :
    Canonical (s.supervisorFault w f) := by
  unfold State.supervisorFault
  dsimp only
  split
  · exact (h.setStrand _ _).appendLog _
  · exact ((h.setStrand _ _).report _ _).killUnit _ _ _

theorem Canonical.noteFault {s : State} (h : Canonical s) (w : Who) (f : FaultInfo) : Canonical (s.noteFault w f) := by
  unfold State.noteFault
  dsimp only
  split
  · exact (h.logFault _ _).mapCore _ (fun x => x)
  · exact h.logFault _ _

theorem Canonical.onceSettled {s : State} (h : Canonical s) (w : Who) {body : State → State}
    (hb : ∀ u, Canonical u → Canonical (body u)) : Canonical (s.onceSettled w body) := by
  have hd := h.drainStrand w
  unfold State.onceSettled
  dsimp only
  split
  · exact hd.mapStrand _ _
  · split
    · exact hd.mapStrand _ _
    · split
      · exact hd.mapStrand _ _
      · exact hb _ hd

theorem Canonical.enterFault {s : State} (h : Canonical s) (w : Who) (f : FaultInfo) : Canonical (s.enterFault w f) := by
  unfold State.enterFault
  exact h.mapStrand _ _

theorem Canonical.raise {s : State} (h : Canonical s) (w : Who) (f : FaultInfo) : Canonical (s.raise w f) := by
  unfold State.raise
  dsimp only
  split
  · exact (h.noteFault _ _).supervisorFault _ _
  · split
    · exact h.onceSettled _ (fun _ h => (h.noteFault _ _).enterFault _ _)
    · split
      · exact h.onceSettled _ (fun _ h => (h.noteFault _ _).contain _ _)
      · exact (h.noteFault _ _).contain _ _

/-! What an issued instruction comes to (R60, R168, R170). -/

theorem Canonical.retireTo {s : State} (h : Canonical s) (a : Word) : Canonical (s.retireTo a) :=
  Canonical.setMe (h.setHere (by simp [Core.count])) _

theorem Canonical.retire {s : State} (h : Canonical s) : Canonical s.retire := h.retireTo _

theorem Canonical.forget {s : State} (h : Canonical s) : Canonical s.forget := by
  unfold State.forget
  split
  · exact h
  · exact (h.undoMove _).mapCore _ (fun x => x)

/-- The states that an effect may come to are canonical. -/
def Effect.Canonical : Effect → Prop
  | .retire s | .goto s _ | .became s | .wait s _ => Machine.Canonical s
  | .raise _ => True

theorem Canonical.conclude {s : State} (h : Canonical s) {e : Effect} (he : e.Canonical) {t : State}
    (ht : Machine.conclude s e = .next t) : Canonical t := by
  cases e <;> simp only [Machine.conclude, Host.Outcome.next.injEq] at ht <;> subst ht
  · exact Canonical.retire he
  · exact Canonical.retireTo he _
  · exact he
  · exact h.forget.raise _ _
  · exact Canonical.setMe he _

/-- An instruction keeps the canonical form if its own effect does. -/
theorem Canonical.issue {s t : State} (h : Canonical s) {i : Instr} {body : State → Effect}
    (hb : (body s).Canonical) (ht : Machine.issue i s body = .next t) : Canonical t := by
  unfold Machine.issue at ht
  split at ht
  · exact h.conclude (e := .raise _) trivial ht
  · exact h.conclude hb ht

theorem Canonical.afterDrain {s : State} (h : Canonical s) (link : Bool) {body : State → Effect}
    (hb : ∀ u, Canonical u → (body u).Canonical) : (Machine.afterDrain s link body).Canonical := by
  unfold Machine.afterDrain
  dsimp only
  split
  · exact h.drainStrand _
  · split
    · exact h.drainStrand _
    · exact hb _ (h.drainStrand _)

/-- A form that the strand may not run takes its fault, and any other has its own effect. -/
theorem issue_eq (i : Instr) (s : State) (body : State → Effect) :
    issue i s body = conclude s (match s.issueFault i with | some f => .raise f | none => body s) := by
  unfold issue
  cases s.issueFault i <;> rfl

/-- An issued instruction always answers a next state. -/
theorem issue_next (i : Instr) (s : State) (body : State → Effect) : ∃ t, issue i s body = .next t := by
  unfold issue
  split
  · exact ⟨_, rfl⟩
  · cases body s <;> exact ⟨_, rfl⟩

/-! Accesses, fetching and transfers. -/

/-- The states that an access may come to are canonical. -/
def Got.Canonical {α : Type} (P : α → Prop) : Got α → Prop
  | .ok x => P x
  | .wait s _ => Machine.Canonical s
  | .fault _ => True

theorem Got.Canonical.andThen {α β : Type} {P : α → Prop} {Q : β → Prop} {g : Got α} {f : α → Got β}
    (h : g.Canonical P) (hf : ∀ x, P x → (f x).Canonical Q) : (g.andThen f).Canonical Q := by
  cases g
  · exact hf _ h
  · trivial
  · exact h

theorem Got.Canonical.effect {α : Type} {P : α → Prop} {g : Got α} {f : α → Effect}
    (h : g.Canonical P) (hf : ∀ x, P x → (f x).Canonical) : (g.effect f).Canonical := by
  cases g
  · exact hf _ h
  · trivial
  · exact h

theorem Canonical.operand {s : State} (h : Canonical s) (sp : Bool) (k : Kind) (a : Word) (n : Nat) :
    (s.operand sp k a n).Canonical (fun _ => True) := by
  unfold State.operand
  repeat' split
  all_goals trivial

theorem Core.foldl_learn_ls (fs : List Found) (e : Bool) : ∀ k : Core, (fs.foldl (fun k f => k.learn e f) k).ls = k.ls := by
  induction fs with
  | nil => exact fun _ => rfl
  | cons f fs ih => exact fun k => ih _

theorem Canonical.learnFrom {s : State} (h : Canonical s) (o : Operand) : Canonical (s.learnFrom o) := by
  unfold State.learnFrom
  split
  · exact h.setHere (Core.foldl_learn_ls _ _ _)
  · exact h

theorem Canonical.ready {s : State} (h : Canonical s) (rs : List (Space × Nat × Nat)) (n : Nat) :
    (s.ready rs n).Canonical Canonical := by
  have hs := h.settle s.cur rs n
  unfold State.ready
  split
  · exact h
  · revert hs
    rcases s.settle s.cur rs n with ⟨t, b⟩
    cases b <;> exact fun h => h

theorem Canonical.unitRead {s t : State} (h : Canonical s) {c : CoreId} {off n : Nat} {q : Fe}
    (ht : s.unitRead c off n q = some t) : Canonical t := by
  unfold State.unitRead at ht
  split at ht
  · cases ht; exact h
  · split at ht <;> cases ht
    exact h
  · split at ht <;> cases ht
    exact h.mapCore _ (fun x => x)
  · cases ht

theorem Canonical.unitAt {s t : State} (h : Canonical s) {o : Operand} {q : Fe} (ht : s.unitAt o q = some t) :
    Canonical t := by
  unfold State.unitAt at ht
  split at ht
  · cases ht; exact h
  · exact h.unitRead ht

theorem Canonical.touch {s : State} (h : Canonical s) (k : Kind) (os : List Operand) :
    (s.touch k os).Canonical (fun _ => True) := by
  unfold State.touch
  split
  · exact h
  · split
    · exact h
    · split <;> trivial

theorem Canonical.acquire {s : State} (h : Canonical s) (sc : Option Scope) (va : Word) (ps : List Piece) :
    Canonical (s.acquire sc va ps) := by
  unfold State.acquire
  split
  · exact h
  · split
    · exact h.setHere rfl
    · exact h

theorem Canonical.sendLines {s : State} (h : Canonical s) (n : Nat) : Canonical (s.sendLines n) := by
  unfold State.sendLines
  split
  · exact h
  · exact h.outside rfl rfl rfl rfl rfl

theorem Canonical.request {s : State} (h : Canonical s) (os : List Operand) : Canonical (s.request os) := h.sendLines _

theorem Canonical.load {s : State} (h : Canonical s) (sp : Bool) (a : Word) (n : Nat) (q : Fe) (acq : Option Scope) :
    (s.load sp a n q acq).Canonical (fun r => Canonical r.1) := by
  unfold State.load
  refine Got.Canonical.andThen (h.operand _ _ _ _) (fun o _ => ?_)
  dsimp only
  have hl := h.learnFrom o
  split
  · exact hl
  · refine Got.Canonical.andThen (hl.ready _ _) (fun u hu => ?_)
    split
    · exact hu
    · exact Got.Canonical.andThen (hu.touch _ _) (fun _ _ => ((hu.unitAt ‹_›).request [o]).acquire _ _ _)

theorem Canonical.pushWrite {s : State} (h : Canonical s) (r : Space × Nat × Nat) (gs : List Seg) (rel : Option Scope)
    (d : Bool) : Canonical (s.pushWrite r gs rel d) :=
  h.setHere rfl

theorem Canonical.store {s : State} (h : Canonical s) (sp : Bool) (a : Word) (bs : List Byte) (q : Fe)
    (rel : Option Scope) : (s.store sp a bs q rel).Canonical := by
  unfold State.store
  refine Got.Canonical.effect (h.operand _ _ _ _) (fun o _ => ?_)
  dsimp only
  have hl := h.learnFrom o
  split
  · exact hl
  · split
    · refine hl.afterDrain _ (fun u hu => ?_)
      split
      · exact hu
      · split
        · exact hu.mapCore _ (fun x => Memory.wf_write x _ _)
        · exact hu
    · exact hl.pushWrite _ _ _ _

theorem Canonical.transfer {s : State} (h : Canonical s) (l : Option (BitVec 16)) (a : Word) :
    (Machine.transfer s l a).Canonical := by
  unfold Machine.transfer
  split
  · trivial
  · exact h

theorem Canonical.fillLine {s : State} (h : Canonical s) (c : CoreId) (l : CodeLine) : Canonical (s.fillLine c l) :=
  Canonical.outside (s := s.mapCore c (·.fillLine s.ticks l)) (h.mapCore c (fun x => x)) rfl rfl rfl rfl rfl

theorem Canonical.afterFetch {s : State} (h : Canonical s) (c : CoreId) (x : Fetched) : Canonical (s.afterFetch c x) := by
  have hl : ∀ {t : State}, Canonical t → Canonical (match x.found with
      | some f => t.mapCore c (·.learn true f)
      | none => t) := by
    intro t h; split
    · exact h.mapCore _ (fun x => x)
    · exact h
  unfold State.afterFetch
  dsimp only
  split
  · exact (hl h).fillLine c _
  · exact hl h

/-! Transactions of the peer device (R362). -/

/-- A transaction that nothing holds is performed by its own step, and one that is held changes the link alone. -/
theorem State.received_eq (s : State) (x : LinkTransaction) (body : State → State) :
    s.received x body = if s.mustKeep (incoming x) then s.keepBack x else (body s).cameIn (incoming x) := rfl

theorem Canonical.received {s : State} (h : Canonical s) (x : LinkTransaction) {body : State → State}
    (hb : ∀ u, Canonical u → Canonical (body u)) : Canonical (s.received x body) := by
  unfold State.received
  split
  · exact h.outside rfl rfl rfl rfl rfl
  · exact (hb s h).outside rfl rfl rfl rfl rfl

theorem Canonical.tick {s : State} (h : Canonical s) : Canonical s.tick := by
  refine h.of_eq rfl (fun c => ?_) rfl rfl rfl
  simp only [State.core, State.tick, Vector.getElem_map, Fin.getElem_fin]
  split <;> rfl

end Sys2Proof.Machine
end

