-- ==== Sys2Proof/Laws/PerInstr.lean ====
section
/-! SUPPORT. Per instruction: what the encoder writes is a head of 16 bits whose class and TLEN agree, and a tail that fits
in the length they name (R166, R176). -/

namespace Sys2Proof.Laws.EncodingFits

open Sys2Proof

/-- A head and a tail of the lengths that the head's class and TLEN give. -/
def Fits (e : Enc) : Prop :=
  e.head < 2 ^ 16 ∧ ∃ n, classTail (e.head / 1024) = some n ∧ tlenBytes (e.head / 256 % 4) = n ∧ e.tail < 2 ^ (8 * n)

def Statement (i : Instr) : Prop := ∀ e, encode i = some e → Fits e

theorem fits_of (h t c k n : Nat) (h₁ : h < 2 ^ 16) (h₂ : h / 1024 = c) (h₃ : h / 256 % 4 = k)
    (h₄ : classTail c = some n) (h₅ : tlenBytes k = n) (h₆ : t < 2 ^ (8 * n)) : Fits ⟨h, t⟩ := by
  subst h₂ h₃
  exact ⟨h₁, n, h₄, h₅, h₆⟩

theorem statement_of {i : Instr} {e : Enc} (h : encode i = some e) (f : Fits e) : Statement i := by
  intro e' h'
  rw [h] at h'
  cases h'
  exact f

theorem no_words {i : Instr} (h : encode i = none) : Statement i := by
  intro e h'
  rw [h] at h'
  cases h'

theorem width_code (wd : Width) : wd.code ≤ 1 := by cases wd <;> decide
theorem size_code (z : Size) : z.code ≤ 3 := by cases z <;> decide
theorem size3_code (z : Size3) : z.code ≤ 4 := by cases z <;> decide
theorem scope_code (c : Scope) : c.code ≤ 5 := by cases c <;> decide
theorem order_code (o : MemOrd) : o.code ≤ 29 := by
  cases o with
  | none => decide
  | acq c => cases c <;> decide
  | rel c => cases c <;> decide
  | acqrel c => cases c <;> decide
theorem fe_code (q : Fe) : q.code ≤ 3 := by cases q <;> decide
theorem round_code (r : Round) : r.code ≤ 3 := by cases r <;> decide
theorem type_code (y : Ty) : y.code ≤ 11 := by cases y <;> decide
theorem cond_code (c : Cond) : c.code ≤ 5 := by cases c <;> decide
theorem kind_code (k : FenceKind) : k.code ≤ 3 := by cases k <;> decide
theorem bool_code (b : Bool) : b.toNat ≤ 1 := by cases b <;> decide

theorem encInt_fits (minor : Nat) (gd : GReg) (ga : GReg) (gb : GReg) (wd : Width) (hminor : minor < 64) : Fits (encInt minor gd ga gb wd) := by
  have := width_code wd
  exact fits_of _ _ 0x2 1 2 (by omega) (by omega) (by omega) rfl rfl (by omega)

theorem encImm_fits (minor : Nat) (gd : GReg) (ga : GReg) (imm : BitVec 22) (wd : Width) (hminor : minor < 32) : Fits (encImm minor gd ga imm wd) := by
  have := width_code wd
  exact fits_of _ _ 0x3 2 4 (by omega) (by omega) (by omega) rfl rfl (by omega)

theorem encFloat_fits (minor : Nat) (fd : FReg) (fa : FReg) (fb : FReg) (fc : FReg) (rm : Round) (d : Bool) (hminor : minor < 16) : Fits (encFloat minor fd fa fb fc rm d) := by
  have := round_code rm
  have := bool_code d
  exact fits_of _ _ 0x8 1 2 (by omega) (by omega) (by omega) rfl rfl (by omega)

theorem encFloatMove_fits (minor : Nat) (dst : Nat) (src : Nat) (rm : Round) (d : Bool) (hminor : minor < 16) (hdst : dst < 32) (hsrc : src < 32) : Fits (encFloatMove minor dst src rm d) := by
  have := round_code rm
  have := bool_code d
  exact fits_of _ _ 0x9 1 2 (by omega) (by omega) (by omega) rfl rfl (by omega)

theorem encLoadStore_fits (base : Nat) (gb : GReg) (ord : MemOrd) (q : Fe) (off : BitVec 20) (c : Nat) (h₁ : (base) < 2 ^ 16) (h₂ : (base) / 1024 = c) (h₃ : (base) / 256 % 4 = 2) (h₄ : classTail c = some 4) :
    Fits (encLoadStore base gb ord q off) := by
  have := order_code ord
  have := fe_code q
  exact fits_of _ _ c 2 4 h₁ h₂ h₃ h₄ rfl (by omega)

theorem encAtomic_fits (op : Nat) (gd : GReg) (sz : Size3) (gb : GReg) (gs : GReg) (gc : GReg) (ord : MemOrd) (sp : Bool) (off : BitVec 32) (hop : op < 16) : Fits (encAtomic op gd sz gb gs gc ord sp off) := by
  have := size3_code sz
  have := order_code ord
  have := bool_code sp
  exact fits_of _ _ 0x1A 3 8 (by omega) (by omega) (by omega) rfl rfl (by omega)

theorem encTileMove_fits (base : Nat) (lay : Nat) (td : TReg) (ty : Ty) (gb : GReg) (gs : GReg) (gx : GReg) (m : MReg) (q : Fe) (sp : Bool) (off : BitVec 32) (c : Nat) (h₁ : (base + td.val * 16 + ty.code) < 2 ^ 16) (h₂ : (base + td.val * 16 + ty.code) / 1024 = c) (h₃ : (base + td.val * 16 + ty.code) / 256 % 4 = 3) (h₄ : classTail c = some 8) (hlay : lay < 4) :
    Fits (encTileMove base lay td ty gb gs gx m q sp off) := by
  have := type_code ty
  have := fe_code q
  have := bool_code sp
  exact fits_of _ _ c 3 8 h₁ h₂ h₃ h₄ rfl (by omega)

theorem encAcc_fits (minor : Nat) (d : Nat) (s : Nat) (gb : GReg) (rm : Round) (sat : Bool) (ty : Ty) (mr : MReg) (mc : MReg) (sp : Bool) (imm : Nat) (hminor : minor < 16) (hd : d < 16) (hs : s < 16) (himm : imm < 4294967296) : Fits (encAcc minor d s gb rm sat ty mr mc sp imm) := by
  have := round_code rm
  have := bool_code sat
  have := type_code ty
  have := bool_code sp
  exact fits_of _ _ 0x21 3 8 (by omega) (by omega) (by omega) rfl rfl (by omega)

theorem encElementwise_fits (minor : Nat) (td : TReg) (ta : TReg) (tb : TReg) (tc : TReg) (ty : Ty) (m : MReg) (rm : Round) (sat : Bool) (hminor : minor < 64) : Fits (encElementwise minor td ta tb tc ty m rm sat) := by
  have := type_code ty
  have := round_code rm
  have := bool_code sat
  exact fits_of _ _ 0x24 2 4 (by omega) (by omega) (by omega) rfl rfl (by omega)

theorem encScalarOp_fits (minor : Nat) (td : TReg) (ta : TReg) (gs : GReg) (ty : Ty) (m : MReg) (rm : Round) (sat : Bool) (hminor : minor < 64) : Fits (encScalarOp minor td ta gs ty m rm sat) := by
  have := type_code ty
  have := round_code rm
  have := bool_code sat
  exact fits_of _ _ 0x25 2 4 (by omega) (by omega) (by omega) rfl rfl (by omega)

theorem encReduce_fits (minor : Nat) (td : TReg) (ta : TReg) (ty : Ty) (m : MReg) (rm : Round) (hminor : minor < 64) : Fits (encReduce minor td ta ty m rm) := by
  have := type_code ty
  have := round_code rm
  exact fits_of _ _ 0x26 2 4 (by omega) (by omega) (by omega) rfl rfl (by omega)

theorem encShuffle_fits (minor : Nat) (td : TReg) (ta : TReg) (tb : TReg) (ty : Ty) (n : BitVec 8) (m : MReg) (hminor : minor < 64) : Fits (encShuffle minor td ta tb ty n m) := by
  have := type_code ty
  exact fits_of _ _ 0x27 2 4 (by omega) (by omega) (by omega) rfl rfl (by omega)

theorem encConvert_fits (smode : Nat) (td : TReg) (ta : TReg) (ty : Ty) (tys : Ty) (x : Nat) (m : MReg) (rm : Round) (sat : Bool) (hsmode : smode < 4) (hx : x < 16) : Fits (encConvert smode td ta ty tys x m rm sat) := by
  have := type_code ty
  have := type_code tys
  have := round_code rm
  have := bool_code sat
  exact fits_of _ _ 0x28 2 4 (by omega) (by omega) (by omega) rfl rfl (by omega)

theorem encMask_fits (minor : Nat) (md : MReg) (ma : MReg) (mb : MReg) (g : GReg) (hminor : minor < 32) : Fits (encMask minor md ma mb g) := by
  
  exact fits_of _ _ 0x29 1 2 (by omega) (by omega) (by omega) rfl rfl (by omega)

theorem encCopy_fits (base : Nat) (gd : GReg) (gs : GReg) (gq : GReg) (dsp : Bool) (ssp : Bool) (c : Nat) (h₁ : (base) < 2 ^ 16) (h₂ : (base) / 1024 = c) (h₃ : (base) / 256 % 4 = 2) (h₄ : classTail c = some 4) :
    Fits (encCopy base gd gs gq dsp ssp) := by
  have := bool_code dsp
  have := bool_code ssp
  exact fits_of _ _ c 2 4 h₁ h₂ h₃ h₄ rfl (by omega)

theorem encBarrier_fits (minor : Nat) (gd : GReg) (gc : GReg) (gs : GReg) (sc : Nat) (hminor : minor < 8) (hsc : sc < 8) : Fits (encBarrier minor gd gc gs sc) := by
  
  exact fits_of _ _ 0x31 1 2 (by omega) (by omega) (by omega) rfl rfl (by omega)

theorem encFreeze_fits (minor : Nat) (gd : GReg) (ga : GReg) (gl : GReg) (sc : Nat) (hminor : minor < 8) (hsc : sc < 8) : Fits (encFreeze minor gd ga gl sc) := by
  
  exact fits_of _ _ 0x32 2 4 (by omega) (by omega) (by omega) rfl rfl (by omega)

theorem encPrivileged_fits (minor : Nat) (gd : GReg) (ga : GReg) (gb : GReg) (n : BitVec 17) (hminor : minor < 32) : Fits (encPrivileged minor gd ga gb n) := by
  
  exact fits_of _ _ 0x3C 2 4 (by omega) (by omega) (by omega) rfl rfl (by omega)

theorem fend : Statement .fend := by
  exact statement_of rfl (fits_of _ _ 0x0 0 0 (by omega) (by omega) (by omega) rfl rfl (by omega))
theorem nop : Statement .nop := by
  exact statement_of rfl (fits_of _ _ 0x1 0 0 (by omega) (by omega) (by omega) rfl rfl (by omega))
theorem add (gd ga gb : GReg) (wd : Width) : Statement (.add gd ga gb wd) :=
  statement_of rfl (encInt_fits _ _ _ _ _ (by omega))
theorem sub (gd ga gb : GReg) (wd : Width) : Statement (.sub gd ga gb wd) :=
  statement_of rfl (encInt_fits _ _ _ _ _ (by omega))
theorem and (gd ga gb : GReg) (wd : Width) : Statement (.and gd ga gb wd) :=
  statement_of rfl (encInt_fits _ _ _ _ _ (by omega))
theorem or (gd ga gb : GReg) (wd : Width) : Statement (.or gd ga gb wd) :=
  statement_of rfl (encInt_fits _ _ _ _ _ (by omega))
theorem xor (gd ga gb : GReg) (wd : Width) : Statement (.xor gd ga gb wd) :=
  statement_of rfl (encInt_fits _ _ _ _ _ (by omega))
theorem andn (gd ga gb : GReg) (wd : Width) : Statement (.andn gd ga gb wd) :=
  statement_of rfl (encInt_fits _ _ _ _ _ (by omega))
theorem shl (gd ga gb : GReg) (wd : Width) : Statement (.shl gd ga gb wd) :=
  statement_of rfl (encInt_fits _ _ _ _ _ (by omega))
theorem shr (gd ga gb : GReg) (wd : Width) : Statement (.shr gd ga gb wd) :=
  statement_of rfl (encInt_fits _ _ _ _ _ (by omega))
theorem sra (gd ga gb : GReg) (wd : Width) : Statement (.sra gd ga gb wd) :=
  statement_of rfl (encInt_fits _ _ _ _ _ (by omega))
theorem rol (gd ga gb : GReg) (wd : Width) : Statement (.rol gd ga gb wd) :=
  statement_of rfl (encInt_fits _ _ _ _ _ (by omega))
theorem ror (gd ga gb : GReg) (wd : Width) : Statement (.ror gd ga gb wd) :=
  statement_of rfl (encInt_fits _ _ _ _ _ (by omega))
theorem mul (gd ga gb : GReg) (wd : Width) : Statement (.mul gd ga gb wd) :=
  statement_of rfl (encInt_fits _ _ _ _ _ (by omega))
theorem mulhs (gd ga gb : GReg) (wd : Width) : Statement (.mulhs gd ga gb wd) :=
  statement_of rfl (encInt_fits _ _ _ _ _ (by omega))
theorem mulhu (gd ga gb : GReg) (wd : Width) : Statement (.mulhu gd ga gb wd) :=
  statement_of rfl (encInt_fits _ _ _ _ _ (by omega))
theorem divs (gd ga gb : GReg) (wd : Width) : Statement (.divs gd ga gb wd) :=
  statement_of rfl (encInt_fits _ _ _ _ _ (by omega))
theorem divu (gd ga gb : GReg) (wd : Width) : Statement (.divu gd ga gb wd) :=
  statement_of rfl (encInt_fits _ _ _ _ _ (by omega))
theorem rems (gd ga gb : GReg) (wd : Width) : Statement (.rems gd ga gb wd) :=
  statement_of rfl (encInt_fits _ _ _ _ _ (by omega))
theorem remu (gd ga gb : GReg) (wd : Width) : Statement (.remu gd ga gb wd) :=
  statement_of rfl (encInt_fits _ _ _ _ _ (by omega))
theorem min (gd ga gb : GReg) (wd : Width) : Statement (.min gd ga gb wd) :=
  statement_of rfl (encInt_fits _ _ _ _ _ (by omega))
theorem max (gd ga gb : GReg) (wd : Width) : Statement (.max gd ga gb wd) :=
  statement_of rfl (encInt_fits _ _ _ _ _ (by omega))
theorem minu (gd ga gb : GReg) (wd : Width) : Statement (.minu gd ga gb wd) :=
  statement_of rfl (encInt_fits _ _ _ _ _ (by omega))
theorem maxu (gd ga gb : GReg) (wd : Width) : Statement (.maxu gd ga gb wd) :=
  statement_of rfl (encInt_fits _ _ _ _ _ (by omega))
theorem slt (gd ga gb : GReg) (wd : Width) : Statement (.slt gd ga gb wd) :=
  statement_of rfl (encInt_fits _ _ _ _ _ (by omega))
theorem sltu (gd ga gb : GReg) (wd : Width) : Statement (.sltu gd ga gb wd) :=
  statement_of rfl (encInt_fits _ _ _ _ _ (by omega))
theorem seq (gd ga gb : GReg) (wd : Width) : Statement (.seq gd ga gb wd) :=
  statement_of rfl (encInt_fits _ _ _ _ _ (by omega))
theorem sne (gd ga gb : GReg) (wd : Width) : Statement (.sne gd ga gb wd) :=
  statement_of rfl (encInt_fits _ _ _ _ _ (by omega))
theorem clz (gd ga : GReg) (wd : Width) : Statement (.clz gd ga wd) :=
  statement_of rfl (encInt_fits _ _ _ _ _ (by omega))
theorem ctz (gd ga : GReg) (wd : Width) : Statement (.ctz gd ga wd) :=
  statement_of rfl (encInt_fits _ _ _ _ _ (by omega))
theorem popc (gd ga : GReg) (wd : Width) : Statement (.popc gd ga wd) :=
  statement_of rfl (encInt_fits _ _ _ _ _ (by omega))
theorem bswap (gd ga : GReg) (wd : Width) : Statement (.bswap gd ga wd) :=
  statement_of rfl (encInt_fits _ _ _ _ _ (by omega))
theorem addi (gd ga : GReg) (imm : BitVec 22) (wd : Width) : Statement (.addi gd ga imm wd) :=
  statement_of rfl (encImm_fits _ _ _ _ _ (by omega))
theorem andi (gd ga : GReg) (imm : BitVec 22) (wd : Width) : Statement (.andi gd ga imm wd) :=
  statement_of rfl (encImm_fits _ _ _ _ _ (by omega))
theorem ori (gd ga : GReg) (imm : BitVec 22) (wd : Width) : Statement (.ori gd ga imm wd) :=
  statement_of rfl (encImm_fits _ _ _ _ _ (by omega))
theorem xori (gd ga : GReg) (imm : BitVec 22) (wd : Width) : Statement (.xori gd ga imm wd) :=
  statement_of rfl (encImm_fits _ _ _ _ _ (by omega))
theorem shli (gd ga : GReg) (imm : BitVec 22) (wd : Width) : Statement (.shli gd ga imm wd) :=
  statement_of rfl (encImm_fits _ _ _ _ _ (by omega))
theorem shri (gd ga : GReg) (imm : BitVec 22) (wd : Width) : Statement (.shri gd ga imm wd) :=
  statement_of rfl (encImm_fits _ _ _ _ _ (by omega))
theorem srai (gd ga : GReg) (imm : BitVec 22) (wd : Width) : Statement (.srai gd ga imm wd) :=
  statement_of rfl (encImm_fits _ _ _ _ _ (by omega))
theorem rori (gd ga : GReg) (imm : BitVec 22) (wd : Width) : Statement (.rori gd ga imm wd) :=
  statement_of rfl (encImm_fits _ _ _ _ _ (by omega))
theorem muli (gd ga : GReg) (imm : BitVec 22) (wd : Width) : Statement (.muli gd ga imm wd) :=
  statement_of rfl (encImm_fits _ _ _ _ _ (by omega))
theorem slti (gd ga : GReg) (imm : BitVec 22) (wd : Width) : Statement (.slti gd ga imm wd) :=
  statement_of rfl (encImm_fits _ _ _ _ _ (by omega))
theorem sltui (gd ga : GReg) (imm : BitVec 22) (wd : Width) : Statement (.sltui gd ga imm wd) :=
  statement_of rfl (encImm_fits _ _ _ _ _ (by omega))
theorem seqi (gd ga : GReg) (imm : BitVec 22) (wd : Width) : Statement (.seqi gd ga imm wd) :=
  statement_of rfl (encImm_fits _ _ _ _ _ (by omega))
theorem mini (gd ga : GReg) (imm : BitVec 22) (wd : Width) : Statement (.mini gd ga imm wd) :=
  statement_of rfl (encImm_fits _ _ _ _ _ (by omega))
theorem maxi (gd ga : GReg) (imm : BitVec 22) (wd : Width) : Statement (.maxi gd ga imm wd) :=
  statement_of rfl (encImm_fits _ _ _ _ _ (by omega))
theorem li (gd : GReg) (imm : BitVec 64) : Statement (.li gd imm) := by
  exact statement_of rfl (fits_of _ _ 0x4 3 8 (by omega) (by omega) (by omega) rfl rfl (by omega))
theorem adr (gd : GReg) (imm : BitVec 32) : Statement (.adr gd imm) := by
  exact statement_of rfl (fits_of _ _ 0x5 2 4 (by omega) (by omega) (by omega) rfl rfl (by omega))
theorem lea (gd ga gb : GReg) (shift : Fin 8) (imm : BitVec 19) : Statement (.lea gd ga gb shift imm) := by
  exact statement_of rfl (fits_of _ _ 0x5 2 4 (by omega) (by omega) (by omega) rfl rfl (by omega))
theorem fadd (fd fa fb : FReg) (rm : Round) (d : Bool) : Statement (.fadd fd fa fb rm d) :=
  statement_of rfl (encFloat_fits _ _ _ _ _ _ _ (by omega))
theorem fsub (fd fa fb : FReg) (rm : Round) (d : Bool) : Statement (.fsub fd fa fb rm d) :=
  statement_of rfl (encFloat_fits _ _ _ _ _ _ _ (by omega))
theorem fmul (fd fa fb : FReg) (rm : Round) (d : Bool) : Statement (.fmul fd fa fb rm d) :=
  statement_of rfl (encFloat_fits _ _ _ _ _ _ _ (by omega))
theorem fdiv (fd fa fb : FReg) (rm : Round) (d : Bool) : Statement (.fdiv fd fa fb rm d) :=
  statement_of rfl (encFloat_fits _ _ _ _ _ _ _ (by omega))
theorem fsqrt (fd fa : FReg) (rm : Round) (d : Bool) : Statement (.fsqrt fd fa rm d) :=
  statement_of rfl (encFloat_fits _ _ _ _ _ _ _ (by omega))
theorem fma (fd fa fb fc : FReg) (rm : Round) (d : Bool) : Statement (.fma fd fa fb fc rm d) :=
  statement_of rfl (encFloat_fits _ _ _ _ _ _ _ (by omega))
theorem fmin (fd fa fb : FReg) (d : Bool) : Statement (.fmin fd fa fb d) :=
  statement_of rfl (encFloat_fits _ _ _ _ _ _ _ (by omega))
theorem fmax (fd fa fb : FReg) (d : Bool) : Statement (.fmax fd fa fb d) :=
  statement_of rfl (encFloat_fits _ _ _ _ _ _ _ (by omega))
theorem fabs (fd fa : FReg) (d : Bool) : Statement (.fabs fd fa d) :=
  statement_of rfl (encFloat_fits _ _ _ _ _ _ _ (by omega))
theorem fneg (fd fa : FReg) (d : Bool) : Statement (.fneg fd fa d) :=
  statement_of rfl (encFloat_fits _ _ _ _ _ _ _ (by omega))
theorem fmvfg (fd : FReg) (gs : GReg) (d : Bool) : Statement (.fmvfg fd gs d) :=
  statement_of rfl (encFloatMove_fits _ _ _ _ _ (by omega) (by omega) (by omega))
theorem fmvgf (gd : GReg) (fs : FReg) (d : Bool) : Statement (.fmvgf gd fs d) :=
  statement_of rfl (encFloatMove_fits _ _ _ _ _ (by omega) (by omega) (by omega))
theorem fcvtfi (fd : FReg) (gs : GReg) (rm : Round) (d : Bool) : Statement (.fcvtfi fd gs rm d) :=
  statement_of rfl (encFloatMove_fits _ _ _ _ _ (by omega) (by omega) (by omega))
theorem fcvtif (gd : GReg) (fs : FReg) (rm : Round) (d : Bool) : Statement (.fcvtif gd fs rm d) :=
  statement_of rfl (encFloatMove_fits _ _ _ _ _ (by omega) (by omega) (by omega))
theorem fcvtsd (fd fs : FReg) (rm : Round) : Statement (.fcvtsd fd fs rm) :=
  statement_of rfl (encFloatMove_fits _ _ _ _ _ (by omega) (by omega) (by omega))
theorem fcvtds (fd fs : FReg) : Statement (.fcvtds fd fs) :=
  statement_of rfl (encFloatMove_fits _ _ _ _ _ (by omega) (by omega) (by omega))
theorem fcmpeq (gd : GReg) (fs : FReg) (d : Bool) : Statement (.fcmpeq gd fs d) :=
  statement_of rfl (encFloatMove_fits _ _ _ _ _ (by omega) (by omega) (by omega))
theorem fcmplt (gd : GReg) (fs : FReg) (d : Bool) : Statement (.fcmplt gd fs d) :=
  statement_of rfl (encFloatMove_fits _ _ _ _ _ (by omega) (by omega) (by omega))
theorem fcmple (gd : GReg) (fs : FReg) (d : Bool) : Statement (.fcmple gd fs d) :=
  statement_of rfl (encFloatMove_fits _ _ _ _ _ (by omega) (by omega) (by omega))
theorem fclass (gd : GReg) (fs : FReg) (d : Bool) : Statement (.fclass gd fs d) :=
  statement_of rfl (encFloatMove_fits _ _ _ _ _ (by omega) (by omega) (by omega))
theorem b (cond : Cond) (ga gb : GReg) (off : BitVec 27) : Statement (.b cond ga gb off) := by
  have := cond_code cond
  exact statement_of rfl (fits_of _ _ 0xC 2 4 (by omega) (by omega) (by omega) rfl rfl (by omega))
theorem brc (gc : GReg) (off : BitVec 32) : Statement (.brc gc off) := by
  exact statement_of rfl (fits_of _ _ 0xD 2 4 (by omega) (by omega) (by omega) rfl rfl (by omega))
theorem j (off : BitVec 32) : Statement (.j off) := by
  exact statement_of rfl (fits_of _ _ 0xE 2 4 (by omega) (by omega) (by omega) rfl rfl (by omega))
theorem call (off : BitVec 32) : Statement (.call off) := by
  exact statement_of rfl (fits_of _ _ 0xE 2 4 (by omega) (by omega) (by omega) rfl rfl (by omega))
theorem jr (ga : GReg) (label : BitVec 16) : Statement (.jr ga label) := by
  exact statement_of rfl (fits_of _ _ 0xF 1 2 (by omega) (by omega) (by omega) rfl rfl (by omega))
theorem callr (ga : GReg) (label : BitVec 16) : Statement (.callr ga label) := by
  exact statement_of rfl (fits_of _ _ 0xF 1 2 (by omega) (by omega) (by omega) rfl rfl (by omega))
theorem ret : Statement .ret := by
  exact statement_of rfl (fits_of _ _ 0xF 1 2 (by omega) (by omega) (by omega) rfl rfl (by omega))
theorem jt (gi : GReg) (bound label : BitVec 16) (off : BitVec 32) : Statement (.jt gi bound label off) := by
  exact statement_of rfl (fits_of _ _ 0x10 3 8 (by omega) (by omega) (by omega) rfl rfl (by omega))
theorem lpad (label : BitVec 16) : Statement (.lpad label) := by
  exact statement_of rfl (fits_of _ _ 0x11 1 2 (by omega) (by omega) (by omega) rfl rfl (by omega))
theorem exit : Statement .exit := by
  exact statement_of rfl (fits_of _ _ 0x12 0 0 (by omega) (by omega) (by omega) rfl rfl (by omega))
theorem edone : Statement .edone := by
  exact statement_of rfl (fits_of _ _ 0x12 0 0 (by omega) (by omega) (by omega) rfl rfl (by omega))
theorem ld (gd : GReg) (sz : Size) (sx : Bool) (gb : GReg) (ord : MemOrd) (off : BitVec 20) : Statement (.ld gd sz sx gb ord off) := by
  have := size_code sz
  have := bool_code sx
  have := order_code ord
  exact statement_of rfl (encLoadStore_fits _ _ _ _ _ 0x14 (by omega) (by omega) (by omega) rfl)
theorem st (gs : GReg) (sz : Size) (gb : GReg) (ord : MemOrd) (off : BitVec 20) : Statement (.st gs sz gb ord off) := by
  have := size_code sz
  have := order_code ord
  exact statement_of rfl (encLoadStore_fits _ _ _ _ _ 0x15 (by omega) (by omega) (by omega) rfl)
theorem ldl (gd : GReg) (sz : Size) (sx : Bool) (gb : GReg) (ord : MemOrd) (q : Fe) (off : BitVec 20) : Statement (.ldl gd sz sx gb ord q off) := by
  have := size_code sz
  have := bool_code sx
  have := order_code ord
  have := fe_code q
  exact statement_of rfl (encLoadStore_fits _ _ _ _ _ 0x16 (by omega) (by omega) (by omega) rfl)
theorem stl (gs : GReg) (sz : Size) (gb : GReg) (ord : MemOrd) (q : Fe) (off : BitVec 20) : Statement (.stl gs sz gb ord q off) := by
  have := size_code sz
  have := order_code ord
  have := fe_code q
  exact statement_of rfl (encLoadStore_fits _ _ _ _ _ 0x17 (by omega) (by omega) (by omega) rfl)
theorem fld (fd : FReg) (d sp : Bool) (gb : GReg) (ord : MemOrd) (q : Fe) (off : BitVec 20) : Statement (.fld fd d sp gb ord q off) := by
  have := bool_code d
  have := bool_code sp
  have := order_code ord
  have := fe_code q
  exact statement_of rfl (encLoadStore_fits _ _ _ _ _ 0x18 (by omega) (by omega) (by omega) rfl)
theorem fst (fs : FReg) (d sp : Bool) (gb : GReg) (ord : MemOrd) (q : Fe) (off : BitVec 20) : Statement (.fst fs d sp gb ord q off) := by
  have := bool_code d
  have := bool_code sp
  have := order_code ord
  have := fe_code q
  exact statement_of rfl (encLoadStore_fits _ _ _ _ _ 0x19 (by omega) (by omega) (by omega) rfl)
theorem aswap (gd : GReg) (sz : Size3) (gb gs : GReg) (ord : MemOrd) (sp : Bool) (off : BitVec 32) : Statement (.aswap gd sz gb gs ord sp off) :=
  statement_of rfl (encAtomic_fits _ _ _ _ _ _ _ _ _ (by omega))
theorem acas (gd : GReg) (sz : Size3) (gb gs gc : GReg) (ord : MemOrd) (sp : Bool) (off : BitVec 32) : Statement (.acas gd sz gb gs gc ord sp off) :=
  statement_of rfl (encAtomic_fits _ _ _ _ _ _ _ _ _ (by omega))
theorem aadd (gd : GReg) (sz : Size3) (gb gs : GReg) (ord : MemOrd) (sp : Bool) (off : BitVec 32) : Statement (.aadd gd sz gb gs ord sp off) :=
  statement_of rfl (encAtomic_fits _ _ _ _ _ _ _ _ _ (by omega))
theorem aand (gd : GReg) (sz : Size3) (gb gs : GReg) (ord : MemOrd) (sp : Bool) (off : BitVec 32) : Statement (.aand gd sz gb gs ord sp off) :=
  statement_of rfl (encAtomic_fits _ _ _ _ _ _ _ _ _ (by omega))
theorem aor (gd : GReg) (sz : Size3) (gb gs : GReg) (ord : MemOrd) (sp : Bool) (off : BitVec 32) : Statement (.aor gd sz gb gs ord sp off) :=
  statement_of rfl (encAtomic_fits _ _ _ _ _ _ _ _ _ (by omega))
theorem axor (gd : GReg) (sz : Size3) (gb gs : GReg) (ord : MemOrd) (sp : Bool) (off : BitVec 32) : Statement (.axor gd sz gb gs ord sp off) :=
  statement_of rfl (encAtomic_fits _ _ _ _ _ _ _ _ _ (by omega))
theorem amin (gd : GReg) (sz : Size3) (gb gs : GReg) (ord : MemOrd) (sp : Bool) (off : BitVec 32) : Statement (.amin gd sz gb gs ord sp off) :=
  statement_of rfl (encAtomic_fits _ _ _ _ _ _ _ _ _ (by omega))
theorem amax (gd : GReg) (sz : Size3) (gb gs : GReg) (ord : MemOrd) (sp : Bool) (off : BitVec 32) : Statement (.amax gd sz gb gs ord sp off) :=
  statement_of rfl (encAtomic_fits _ _ _ _ _ _ _ _ _ (by omega))
theorem aminu (gd : GReg) (sz : Size3) (gb gs : GReg) (ord : MemOrd) (sp : Bool) (off : BitVec 32) : Statement (.aminu gd sz gb gs ord sp off) :=
  statement_of rfl (encAtomic_fits _ _ _ _ _ _ _ _ _ (by omega))
theorem amaxu (gd : GReg) (sz : Size3) (gb gs : GReg) (ord : MemOrd) (sp : Bool) (off : BitVec 32) : Statement (.amaxu gd sz gb gs ord sp off) :=
  statement_of rfl (encAtomic_fits _ _ _ _ _ _ _ _ _ (by omega))
theorem afadd (gd : GReg) (sz : Size3) (gb gs : GReg) (ord : MemOrd) (sp : Bool) (off : BitVec 32) : Statement (.afadd gd sz gb gs ord sp off) :=
  statement_of rfl (encAtomic_fits _ _ _ _ _ _ _ _ _ (by omega))
theorem tld (td : TReg) (ty : Ty) (gb gs gx : GReg) (m : MReg) (q : Fe) (sp : Bool) (off : BitVec 32) : Statement (.tld td ty gb gs gx m q sp off) := by
  have := type_code ty
  have := fe_code q
  have := bool_code sp
  exact statement_of rfl (encTileMove_fits _ _ _ _ _ _ _ _ _ _ _ 0x1C (by omega) (by omega) (by omega) rfl (by omega))
theorem tldt (td : TReg) (ty : Ty) (gb gs : GReg) (m : MReg) (sp : Bool) (off : BitVec 32) : Statement (.tldt td ty gb gs m sp off) := by
  have := type_code ty
  have := bool_code sp
  exact statement_of rfl (encTileMove_fits _ _ _ _ _ _ _ _ _ _ _ 0x1C (by omega) (by omega) (by omega) rfl (by omega))
theorem tldx (td : TReg) (ty : Ty) (gb gs : GReg) (m : MReg) (q : Fe) (sp : Bool) (off : BitVec 32) : Statement (.tldx td ty gb gs m q sp off) := by
  have := type_code ty
  have := fe_code q
  have := bool_code sp
  exact statement_of rfl (encTileMove_fits _ _ _ _ _ _ _ _ _ _ _ 0x1C (by omega) (by omega) (by omega) rfl (by omega))
theorem tst (ts : TReg) (ty : Ty) (gb gs gx : GReg) (m : MReg) (q : Fe) (sp : Bool) (off : BitVec 32) : Statement (.tst ts ty gb gs gx m q sp off) := by
  have := type_code ty
  have := fe_code q
  have := bool_code sp
  exact statement_of rfl (encTileMove_fits _ _ _ _ _ _ _ _ _ _ _ 0x1D (by omega) (by omega) (by omega) rfl (by omega))
theorem tstt (ts : TReg) (ty : Ty) (gb gs : GReg) (m : MReg) (sp : Bool) (off : BitVec 32) : Statement (.tstt ts ty gb gs m sp off) := by
  have := type_code ty
  have := bool_code sp
  exact statement_of rfl (encTileMove_fits _ _ _ _ _ _ _ _ _ _ _ 0x1D (by omega) (by omega) (by omega) rfl (by omega))
theorem tstx (ts : TReg) (ty : Ty) (gb gs : GReg) (m : MReg) (q : Fe) (sp : Bool) (off : BitVec 32) : Statement (.tstx ts ty gb gs m q sp off) := by
  have := type_code ty
  have := fe_code q
  have := bool_code sp
  exact statement_of rfl (encTileMove_fits _ _ _ _ _ _ _ _ _ _ _ 0x1D (by omega) (by omega) (by omega) rfl (by omega))
theorem tgather (td : TReg) (ty : Ty) (ti : TReg) (row : Fin 64) (gb : GReg) (m : MReg) (sp : Bool) (off : BitVec 32) : Statement (.tgather td ty ti row gb m sp off) := by
  have := type_code ty
  have := bool_code sp
  exact statement_of rfl (fits_of _ _ 0x1E 3 8 (by omega) (by omega) (by omega) rfl rfl (by omega))
theorem tzmask (gd : GReg) (ts : TReg) : Statement (.tzmask gd ts) := by
  exact statement_of rfl (fits_of _ _ 0x1F 1 2 (by omega) (by omega) (by omega) rfl rfl (by omega))
theorem tmov (td ts : TReg) : Statement (.tmov td ts) := by
  exact statement_of rfl (fits_of _ _ 0x1F 1 2 (by omega) (by omega) (by omega) rfl rfl (by omega))
theorem tzero (td : TReg) : Statement (.tzero td) := by
  exact statement_of rfl (fits_of _ _ 0x1F 1 2 (by omega) (by omega) (by omega) rfl rfl (by omega))
theorem tmma (ad : AReg) (ta tb : TReg) (tya tyb : Ty) (mr mc : MReg) : Statement (.tmma ad ta tb tya tyb mr mc) := by
  have := type_code tya
  have := type_code tyb
  exact statement_of rfl (fits_of _ _ 0x20 2 4 (by omega) (by omega) (by omega) rfl rfl (by omega))
theorem azero (ad : AReg) (mr mc : MReg) : Statement (.azero ad mr mc) :=
  statement_of rfl (encAcc_fits _ _ _ _ _ _ _ _ _ _ _ (by omega) (by omega) (by omega) (by omega))
theorem amov (ad as : AReg) (mr mc : MReg) : Statement (.amov ad as mr mc) :=
  statement_of rfl (encAcc_fits _ _ _ _ _ _ _ _ _ _ _ (by omega) (by omega) (by omega) (by omega))
theorem ald (ad : AReg) (gb : GReg) (mr mc : MReg) (sp : Bool) (off : BitVec 32) : Statement (.ald ad gb mr mc sp off) :=
  statement_of rfl (encAcc_fits _ _ _ _ _ _ _ _ _ _ _ (by omega) (by omega) (by omega) (by omega))
theorem ast (as : AReg) (gb : GReg) (mr mc : MReg) (sp : Bool) (off : BitVec 32) : Statement (.ast as gb mr mc sp off) :=
  statement_of rfl (encAcc_fits _ _ _ _ _ _ _ _ _ _ _ (by omega) (by omega) (by omega) (by omega))
theorem acvt (td : TReg) (as : AReg) (ty : Ty) (rm : Round) (sat : Bool) (h : Fin 8) (mr mc : MReg) : Statement (.acvt td as ty rm sat h mr mc) :=
  statement_of rfl (encAcc_fits _ _ _ _ _ _ _ _ _ _ _ (by omega) (by omega) (by omega) (by omega))
theorem afrom (ad : AReg) (ts : TReg) (ty : Ty) (h : Fin 8) (mr mc : MReg) : Statement (.afrom ad ts ty h mr mc) :=
  statement_of rfl (encAcc_fits _ _ _ _ _ _ _ _ _ _ _ (by omega) (by omega) (by omega) (by omega))
theorem aaddAccumulator (ad as : AReg) (ty : Ty) (mr mc : MReg) : Statement (.aaddAccumulator ad as ty mr mc) :=
  statement_of rfl (encAcc_fits _ _ _ _ _ _ _ _ _ _ _ (by omega) (by omega) (by omega) (by omega))
theorem tadd (td ta tb : TReg) (ty : Ty) (m : MReg) (rm : Round) (sat : Bool) : Statement (.tadd td ta tb ty m rm sat) :=
  statement_of rfl (encElementwise_fits _ _ _ _ _ _ _ _ _ (by omega))
theorem tsub (td ta tb : TReg) (ty : Ty) (m : MReg) (rm : Round) (sat : Bool) : Statement (.tsub td ta tb ty m rm sat) :=
  statement_of rfl (encElementwise_fits _ _ _ _ _ _ _ _ _ (by omega))
theorem tmul (td ta tb : TReg) (ty : Ty) (m : MReg) (rm : Round) (sat : Bool) : Statement (.tmul td ta tb ty m rm sat) :=
  statement_of rfl (encElementwise_fits _ _ _ _ _ _ _ _ _ (by omega))
theorem tfma (td ta tb tc : TReg) (ty : Ty) (m : MReg) (rm : Round) (sat : Bool) : Statement (.tfma td ta tb tc ty m rm sat) :=
  statement_of rfl (encElementwise_fits _ _ _ _ _ _ _ _ _ (by omega))
theorem tmin (td ta tb : TReg) (ty : Ty) (m : MReg) : Statement (.tmin td ta tb ty m) :=
  statement_of rfl (encElementwise_fits _ _ _ _ _ _ _ _ _ (by omega))
theorem tmax (td ta tb : TReg) (ty : Ty) (m : MReg) : Statement (.tmax td ta tb ty m) :=
  statement_of rfl (encElementwise_fits _ _ _ _ _ _ _ _ _ (by omega))
theorem tabs (td ta : TReg) (ty : Ty) (m : MReg) (sat : Bool) : Statement (.tabs td ta ty m sat) :=
  statement_of rfl (encElementwise_fits _ _ _ _ _ _ _ _ _ (by omega))
theorem tneg (td ta : TReg) (ty : Ty) (m : MReg) (sat : Bool) : Statement (.tneg td ta ty m sat) :=
  statement_of rfl (encElementwise_fits _ _ _ _ _ _ _ _ _ (by omega))
theorem tand (td ta tb : TReg) (ty : Ty) (m : MReg) : Statement (.tand td ta tb ty m) :=
  statement_of rfl (encElementwise_fits _ _ _ _ _ _ _ _ _ (by omega))
theorem tor (td ta tb : TReg) (ty : Ty) (m : MReg) : Statement (.tor td ta tb ty m) :=
  statement_of rfl (encElementwise_fits _ _ _ _ _ _ _ _ _ (by omega))
theorem txor (td ta tb : TReg) (ty : Ty) (m : MReg) : Statement (.txor td ta tb ty m) :=
  statement_of rfl (encElementwise_fits _ _ _ _ _ _ _ _ _ (by omega))
theorem tshl (td ta tb : TReg) (ty : Ty) (m : MReg) : Statement (.tshl td ta tb ty m) :=
  statement_of rfl (encElementwise_fits _ _ _ _ _ _ _ _ _ (by omega))
theorem tshr (td ta tb : TReg) (ty : Ty) (m : MReg) : Statement (.tshr td ta tb ty m) :=
  statement_of rfl (encElementwise_fits _ _ _ _ _ _ _ _ _ (by omega))
theorem tsra (td ta tb : TReg) (ty : Ty) (m : MReg) : Statement (.tsra td ta tb ty m) :=
  statement_of rfl (encElementwise_fits _ _ _ _ _ _ _ _ _ (by omega))
theorem tcmpeq (td ta tb : TReg) (ty : Ty) (m : MReg) : Statement (.tcmpeq td ta tb ty m) :=
  statement_of rfl (encElementwise_fits _ _ _ _ _ _ _ _ _ (by omega))
theorem tcmplt (td ta tb : TReg) (ty : Ty) (m : MReg) : Statement (.tcmplt td ta tb ty m) :=
  statement_of rfl (encElementwise_fits _ _ _ _ _ _ _ _ _ (by omega))
theorem tcmple (td ta tb : TReg) (ty : Ty) (m : MReg) : Statement (.tcmple td ta tb ty m) :=
  statement_of rfl (encElementwise_fits _ _ _ _ _ _ _ _ _ (by omega))
theorem tcmpun (td ta tb : TReg) (ty : Ty) (m : MReg) : Statement (.tcmpun td ta tb ty m) :=
  statement_of rfl (encElementwise_fits _ _ _ _ _ _ _ _ _ (by omega))
theorem tsel (td ta tb tc : TReg) (ty : Ty) (m : MReg) : Statement (.tsel td ta tb tc ty m) :=
  statement_of rfl (encElementwise_fits _ _ _ _ _ _ _ _ _ (by omega))
theorem texp2 (td ta : TReg) (ty : Ty) (m : MReg) : Statement (.texp2 td ta ty m) :=
  statement_of rfl (encElementwise_fits _ _ _ _ _ _ _ _ _ (by omega))
theorem trcp (td ta : TReg) (ty : Ty) (m : MReg) : Statement (.trcp td ta ty m) :=
  statement_of rfl (encElementwise_fits _ _ _ _ _ _ _ _ _ (by omega))
theorem trsq (td ta : TReg) (ty : Ty) (m : MReg) : Statement (.trsq td ta ty m) :=
  statement_of rfl (encElementwise_fits _ _ _ _ _ _ _ _ _ (by omega))
theorem tadds (td ta : TReg) (gs : GReg) (ty : Ty) (m : MReg) (rm : Round) (sat : Bool) : Statement (.tadds td ta gs ty m rm sat) :=
  statement_of rfl (encScalarOp_fits _ _ _ _ _ _ _ _ (by omega))
theorem tsubs (td ta : TReg) (gs : GReg) (ty : Ty) (m : MReg) (rm : Round) (sat : Bool) : Statement (.tsubs td ta gs ty m rm sat) :=
  statement_of rfl (encScalarOp_fits _ _ _ _ _ _ _ _ (by omega))
theorem tmuls (td ta : TReg) (gs : GReg) (ty : Ty) (m : MReg) (rm : Round) (sat : Bool) : Statement (.tmuls td ta gs ty m rm sat) :=
  statement_of rfl (encScalarOp_fits _ _ _ _ _ _ _ _ (by omega))
theorem tmins (td ta : TReg) (gs : GReg) (ty : Ty) (m : MReg) : Statement (.tmins td ta gs ty m) :=
  statement_of rfl (encScalarOp_fits _ _ _ _ _ _ _ _ (by omega))
theorem tmaxs (td ta : TReg) (gs : GReg) (ty : Ty) (m : MReg) : Statement (.tmaxs td ta gs ty m) :=
  statement_of rfl (encScalarOp_fits _ _ _ _ _ _ _ _ (by omega))
theorem tfill (td : TReg) (gs : GReg) (ty : Ty) (m : MReg) : Statement (.tfill td gs ty m) :=
  statement_of rfl (encScalarOp_fits _ _ _ _ _ _ _ _ (by omega))
theorem tscale (td ta : TReg) (gs : GReg) (ty : Ty) (m : MReg) (rm : Round) (sat : Bool) : Statement (.tscale td ta gs ty m rm sat) :=
  statement_of rfl (encScalarOp_fits _ _ _ _ _ _ _ _ (by omega))
theorem trsum (td ta : TReg) (ty : Ty) (m : MReg) (rm : Round) : Statement (.trsum td ta ty m rm) :=
  statement_of rfl (encReduce_fits _ _ _ _ _ _ (by omega))
theorem tcsum (td ta : TReg) (ty : Ty) (m : MReg) (rm : Round) : Statement (.tcsum td ta ty m rm) :=
  statement_of rfl (encReduce_fits _ _ _ _ _ _ (by omega))
theorem trmax (td ta : TReg) (ty : Ty) (m : MReg) : Statement (.trmax td ta ty m) :=
  statement_of rfl (encReduce_fits _ _ _ _ _ _ (by omega))
theorem tcmax (td ta : TReg) (ty : Ty) (m : MReg) : Statement (.tcmax td ta ty m) :=
  statement_of rfl (encReduce_fits _ _ _ _ _ _ (by omega))
theorem trmin (td ta : TReg) (ty : Ty) (m : MReg) : Statement (.trmin td ta ty m) :=
  statement_of rfl (encReduce_fits _ _ _ _ _ _ (by omega))
theorem tcmin (td ta : TReg) (ty : Ty) (m : MReg) : Statement (.tcmin td ta ty m) :=
  statement_of rfl (encReduce_fits _ _ _ _ _ _ (by omega))
theorem ttr (td ta : TReg) (ty : Ty) (m : MReg) : Statement (.ttr td ta ty m) :=
  statement_of rfl (encShuffle_fits _ _ _ _ _ _ _ (by omega))
theorem trowb (td ta : TReg) (ty : Ty) (r : BitVec 8) (m : MReg) : Statement (.trowb td ta ty r m) :=
  statement_of rfl (encShuffle_fits _ _ _ _ _ _ _ (by omega))
theorem tcolb (td ta : TReg) (ty : Ty) (c : BitVec 8) (m : MReg) : Statement (.tcolb td ta ty c m) :=
  statement_of rfl (encShuffle_fits _ _ _ _ _ _ _ (by omega))
theorem trot (td ta : TReg) (ty : Ty) (c : BitVec 8) (m : MReg) : Statement (.trot td ta ty c m) :=
  statement_of rfl (encShuffle_fits _ _ _ _ _ _ _ (by omega))
theorem tshuf (td ta tb : TReg) (ty : Ty) (r : BitVec 8) (m : MReg) : Statement (.tshuf td ta tb ty r m) :=
  statement_of rfl (encShuffle_fits _ _ _ _ _ _ _ (by omega))
theorem tcvt (td ta : TReg) (ty tys : Ty) (h : Fin 16) (m : MReg) (rm : Round) (sat : Bool) : Statement (.tcvt td ta ty tys h m rm sat) :=
  statement_of rfl (encConvert_fits _ _ _ _ _ _ _ _ _ (by omega) (by omega))
theorem tcvtChoose (td ta : TReg) (ty tys : Ty) (h : Fin 16) (m : MReg) (rm : Round) (sat : Bool) : Statement (.tcvtChoose td ta ty tys h m rm sat) :=
  statement_of rfl (encConvert_fits _ _ _ _ _ _ _ _ _ (by omega) (by omega))
theorem tcvtGiven (td ta : TReg) (ty tys : Ty) (tx : TReg) (m : MReg) (rm : Round) (sat : Bool) : Statement (.tcvtGiven td ta ty tys tx m rm sat) :=
  statement_of rfl (encConvert_fits _ _ _ _ _ _ _ _ _ (by omega) (by omega))
theorem mand (md ma mb : MReg) : Statement (.mand md ma mb) :=
  statement_of rfl (encMask_fits _ _ _ _ _ (by omega))
theorem mor (md ma mb : MReg) : Statement (.mor md ma mb) :=
  statement_of rfl (encMask_fits _ _ _ _ _ (by omega))
theorem mxor (md ma mb : MReg) : Statement (.mxor md ma mb) :=
  statement_of rfl (encMask_fits _ _ _ _ _ (by omega))
theorem mnot (md ma : MReg) : Statement (.mnot md ma) :=
  statement_of rfl (encMask_fits _ _ _ _ _ (by omega))
theorem mset (md : MReg) (gs : GReg) : Statement (.mset md gs) :=
  statement_of rfl (encMask_fits _ _ _ _ _ (by omega))
theorem mget (gd : GReg) (ma : MReg) : Statement (.mget gd ma) :=
  statement_of rfl (encMask_fits _ _ _ _ _ (by omega))
theorem mpopc (gd : GReg) (ma : MReg) : Statement (.mpopc gd ma) :=
  statement_of rfl (encMask_fits _ _ _ _ _ (by omega))
theorem copy (gd gs gq : GReg) (dsp ssp : Bool) : Statement (.copy gd gs gq dsp ssp) := by
  have := bool_code dsp
  have := bool_code ssp
  exact statement_of rfl (encCopy_fits _ _ _ _ _ _ 0x2C (by omega) (by omega) (by omega) rfl)
theorem copyr (gd gs gq : GReg) (bf16 lossy dsp ssp : Bool) : Statement (.copyr gd gs gq bf16 lossy dsp ssp) := by
  have := bool_code bf16
  have := bool_code lossy
  have := bool_code dsp
  have := bool_code ssp
  exact statement_of rfl (encCopy_fits _ _ _ _ _ _ 0x2C (by omega) (by omega) (by omega) rfl)
theorem discard (gd gs : GReg) : Statement (.discard gd gs) := by
  exact statement_of rfl (encCopy_fits _ _ _ _ _ _ 0x2C (by omega) (by omega) (by omega) rfl)
theorem bseal (gd : GReg) : Statement (.bseal gd) := by
  exact statement_of rfl (fits_of _ _ 0x2D 1 2 (by omega) (by omega) (by omega) rfl rfl (by omega))
theorem bwait (gd : GReg) (n : BitVec 16) : Statement (.bwait gd n) := by
  exact statement_of rfl (fits_of _ _ 0x2D 1 2 (by omega) (by omega) (by omega) rfl rfl (by omega))
theorem fence (sc : Scope) (kind : FenceKind) : Statement (.fence sc kind) := by
  have := scope_code sc
  have := kind_code kind
  exact statement_of rfl (fits_of _ _ 0x30 0 0 (by omega) (by omega) (by omega) rfl rfl (by omega))
theorem barinit (gc gs : GReg) : Statement (.barinit gc gs) :=
  statement_of rfl (encBarrier_fits _ _ _ _ _ (by omega) (by omega))
theorem bararr (gd gc : GReg) (sc : Scope) : Statement (.bararr gd gc sc) :=
  statement_of rfl (encBarrier_fits _ _ _ _ _ (by omega) (by have := scope_code sc; omega))
theorem barwait (gd gc gs : GReg) (sc : Scope) : Statement (.barwait gd gc gs sc) :=
  statement_of rfl (encBarrier_fits _ _ _ _ _ (by omega) (by have := scope_code sc; omega))
theorem barsync (gd gc : GReg) (sc : Scope) : Statement (.barsync gd gc sc) :=
  statement_of rfl (encBarrier_fits _ _ _ _ _ (by omega) (by have := scope_code sc; omega))
theorem freeze (gd ga gl : GReg) (sc : Scope) : Statement (.freeze gd ga gl sc) :=
  statement_of rfl (encFreeze_fits _ _ _ _ _ (by omega) (by have := scope_code sc; omega))
theorem thaw (gd ga gl : GReg) : Statement (.thaw gd ga gl) :=
  statement_of rfl (encFreeze_fits _ _ _ _ _ (by omega) (by omega))
theorem thawwait (ga : GReg) : Statement (.thawwait ga) :=
  statement_of rfl (encFreeze_fits _ _ _ _ _ (by omega) (by omega))
theorem publish (ga gl : GReg) (sc : Scope) : Statement (.publish ga gl sc) :=
  statement_of rfl (encFreeze_fits _ _ _ _ _ (by omega) (by have := scope_code sc; omega))
theorem callat (ga gp : GReg) (slot : Fin 16) : Statement (.callat ga gp slot) := by
  exact statement_of rfl (fits_of _ _ 0x34 1 2 (by omega) (by omega) (by omega) rfl rfl (by omega))
theorem reply (gs : GReg) : Statement (.reply gs) := by
  exact statement_of rfl (fits_of _ _ 0x34 1 2 (by omega) (by omega) (by omega) rfl rfl (by omega))
theorem waitrp (gd ga : GReg) (slot : Fin 16) : Statement (.waitrp gd ga slot) := by
  exact statement_of rfl (fits_of _ _ 0x34 1 2 (by omega) (by omega) (by omega) rfl rfl (by omega))
theorem trap (g : GReg) (imm : BitVec 16) : Statement (.trap g imm) := by
  exact statement_of rfl (fits_of _ _ 0x38 1 2 (by omega) (by omega) (by omega) rfl rfl (by omega))
theorem mfcr (gd : GReg) (crn : BitVec 12) : Statement (.mfcr gd crn) := by
  exact statement_of rfl (fits_of _ _ 0x38 1 2 (by omega) (by omega) (by omega) rfl rfl (by omega))
theorem mtcr (crn : BitVec 12) (gs : GReg) : Statement (.mtcr crn gs) := by
  exact statement_of rfl (fits_of _ _ 0x38 1 2 (by omega) (by omega) (by omega) rfl rfl (by omega))
theorem pause : Statement .pause := by
  exact statement_of rfl (fits_of _ _ 0x38 1 2 (by omega) (by omega) (by omega) rfl rfl (by omega))
theorem csave (gd ga : GReg) : Statement (.csave gd ga) :=
  statement_of rfl (encPrivileged_fits _ _ _ _ _ (by omega))
theorem cload (gd ga : GReg) : Statement (.cload gd ga) :=
  statement_of rfl (encPrivileged_fits _ _ _ _ _ (by omega))
theorem tlbinv (ga gb : GReg) (n : BitVec 17) : Statement (.tlbinv ga gb n) :=
  statement_of rfl (encPrivileged_fits _ _ _ _ _ (by omega))
theorem tlbinvc (gb : GReg) : Statement (.tlbinvc gb) :=
  statement_of rfl (encPrivileged_fits _ _ _ _ _ (by omega))
theorem wcinv (ga gb : GReg) (n : BitVec 17) : Statement (.wcinv ga gb n) :=
  statement_of rfl (encPrivileged_fits _ _ _ _ _ (by omega))
theorem frameset (ga gb : GReg) (n : BitVec 17) : Statement (.frameset ga gb n) :=
  statement_of rfl (encPrivileged_fits _ _ _ _ _ (by omega))
theorem mboxset (gd ga : GReg) : Statement (.mboxset gd ga) :=
  statement_of rfl (encPrivileged_fits _ _ _ _ _ (by omega))
theorem polset (gd ga gb : GReg) : Statement (.polset gd ga gb) :=
  statement_of rfl (encPrivileged_fits _ _ _ _ _ (by omega))
theorem sret (k : BitVec 17) : Statement (.sret k) :=
  statement_of rfl (encPrivileged_fits _ _ _ _ _ (by omega))
theorem halt (gd ga : GReg) : Statement (.halt gd ga) :=
  statement_of rfl (encPrivileged_fits _ _ _ _ _ (by omega))
theorem resume (gd ga : GReg) : Statement (.resume gd ga) :=
  statement_of rfl (encPrivileged_fits _ _ _ _ _ (by omega))
theorem fetch (c : CoreId) (errand : Bool) : Statement (.fetch c errand) := no_words rfl
theorem drain (c : CoreId) (n : Nat) : Statement (.drain c n) := no_words rfl
theorem copyPiece (c : CoreId) (n : Nat) : Statement (.copyPiece c n) := no_words rfl
theorem waitSatisfied (c : CoreId) (errand : Bool) : Statement (.waitSatisfied c errand) := no_words rfl
theorem fullEmptyUnit (c : CoreId) (off len : Nat) (q : Fe) (data : List Byte) : Statement (.fullEmptyUnit c off len q data) := no_words rfl
theorem localStoreAccess (c : CoreId) (off : Nat) (data : List Byte) : Statement (.localStoreAccess c off data) := no_words rfl
theorem tgatherRequest (c : CoreId) (owner : Nat) : Statement (.tgatherRequest c owner) := no_words rfl
theorem callatArrival (n : Nat) : Statement (.callatArrival n) := no_words rfl
theorem replyDelivery (n : Nat) : Statement (.replyDelivery n) := no_words rfl
theorem errandBudget (c : CoreId) : Statement (.errandBudget c) := no_words rfl
theorem barrierArrival (k : PairedGang) (cell : Fin 96) : Statement (.barrierArrival k cell) := no_words rfl
theorem freezeEvent (m : FreezeMsg) : Statement (.freezeEvent m) := no_words rfl
theorem freezeAcknowledgement (c : FreezeAck) (n : Nat) : Statement (.freezeAcknowledgement c n) := no_words rfl
theorem thawSweep (cache : SweepMsg) (frames : List Nat) : Statement (.thawSweep cache frames) := no_words rfl
theorem sweepAcknowledgement (cache : SweepMsg) (frames : List Nat) : Statement (.sweepAcknowledgement cache frames) := no_words rfl
theorem preemptionRequest (k : GangKey) (save : Nat) : Statement (.preemptionRequest k save) := no_words rfl
theorem haltDeclared (c : CoreId) : Statement (.haltDeclared c) := no_words rfl
theorem gangResume (k : GangKey) : Statement (.gangResume k) := no_words rfl
theorem migration (k : GangKey) (peer : Nat) (target : CoreId) (save : Nat) : Statement (.migration k peer target save) := no_words rfl
theorem kill (t : KillTarget) : Statement (.kill t) := no_words rfl
theorem backOff (c : CoreId) (errand : Bool) : Statement (.backOff c errand) := no_words rfl
theorem retryExhausted (c : CoreId) (errand : Bool) : Statement (.retryExhausted c errand) := no_words rfl
theorem deferredFault (c : CoreId) : Statement (.deferredFault c) := no_words rfl
theorem tailRead (q : QueueId) : Statement (.tailRead q) := no_words rfl
theorem acceptance (q : QueueId) : Statement (.acceptance q) := no_words rfl
theorem arbitrate (part : Fin 8) : Statement (.arbitrate part) := no_words rfl
theorem minresElapsed (k : GangKey) : Statement (.minresElapsed k) := no_words rfl
theorem taskStart (k : GangKey) : Statement (.taskStart k) := no_words rfl
theorem queueEnable (q : QueueId) (dw0 : Word) : Statement (.queueEnable q dw0) := no_words rfl
theorem queueDisable (q : QueueId) (dw0 : Word) : Statement (.queueDisable q dw0) := no_words rfl
theorem registerWrite (off : BitVec 24) (wide : Bool) (val : Word) : Statement (.registerWrite off wide val) := no_words rfl
theorem crCgdev (val : Word) : Statement (.crCgdev val) := no_words rfl
theorem crScopemiss (c : CoreId) (val : Word) : Statement (.crScopemiss c val) := no_words rfl
theorem crFcause (c : CoreId) (val : Word) : Statement (.crFcause c val) := no_words rfl
theorem crRspill (c : CoreId) (val : Word) : Statement (.crRspill c val) := no_words rfl
theorem bar2Read (addr len : Nat) : Statement (.bar2Read addr len) := no_words rfl
theorem bar2Write (addr : Nat) (data : List Byte) : Statement (.bar2Write addr data) := no_words rfl
theorem retentionSleep (c : CoreId) : Statement (.retentionSleep c) := no_words rfl
theorem wake (c : CoreId) : Statement (.wake c) := no_words rfl
theorem thermalTableUpdate (temps : List (BitVec 16)) : Statement (.thermalTableUpdate temps) := no_words rfl
theorem scrubbing (line : Nat) (e : LineError) : Statement (.scrubbing line e) := no_words rfl
theorem generationHold (k : GangKey) : Statement (.generationHold k) := no_words rfl
theorem linkDown : Statement .linkDown := no_words rfl
theorem linkUp : Statement .linkUp := no_words rfl
theorem data (h : BitVec 96) (payload : List Byte) (crcOk : Bool) : Statement (.data h payload crcOk) := no_words rfl
theorem void (h : VoidFlit) (crcOk : Bool) : Statement (.void h crcOk) := no_words rfl
theorem nak (h : BitVec 96) (crcOk : Bool) : Statement (.nak h crcOk) := no_words rfl
theorem idle (h : BitVec 96) (crcOk : Bool) : Statement (.idle h crcOk) := no_words rfl
theorem read (m : Origin) (pa len tag : Nat) : Statement (.read m pa len tag) := no_words rfl
theorem write (m : Origin) (pa : Nat) (bytes : List (Option Byte)) (rel : Option Scope) (tag : Nat) : Statement (.write m pa bytes rel tag) := no_words rfl
theorem atomic (m : Origin) (op : AOp) (n : Size3) (pa : Nat) (s c : BitVec 128) (rel : Option Scope) (tag : Nat) : Statement (.atomic m op n pa s c rel tag) := no_words rfl
theorem copyWrite (m : Origin) (t : LinkTarget) (bytes : List Byte) (tag : Nat) : Statement (.copyWrite m t bytes tag) := no_words rfl
theorem reduceWrite (m : Origin) (t : LinkTarget) (bf16 lossy : Bool) (elems : List (BitVec 32)) (tag : Nat) : Statement (.reduceWrite m t bf16 lossy elems tag) := no_words rfl
theorem readResponse (r : ResponseFor) (bytes : List Byte) : Statement (.readResponse r bytes) := no_words rfl
theorem atomicResponse (r : ResponseFor) (n : Size3) (old : BitVec 128) : Statement (.atomicResponse r n old) := no_words rfl
theorem phaseResponse (id : LinkId) (answer : PhaseAnswer) : Statement (.phaseResponse id answer) := no_words rfl
theorem reset : Statement .reset := no_words rfl
theorem loadChunk : Statement .loadChunk := no_words rfl
theorem boot : Statement .boot := no_words rfl
theorem getNonce : Statement .getNonce := no_words rfl
theorem debugUnlock : Statement .debugUnlock := no_words rfl
theorem readLog : Statement .readLog := no_words rfl
theorem readThermal : Statement .readThermal := no_words rfl
theorem setPowercap : Statement .setPowercap := no_words rfl
theorem config : Statement .config := no_words rfl
theorem getVersion : Statement .getVersion := no_words rfl
theorem getCapabilities : Statement .getCapabilities := no_words rfl
theorem negotiateAlgorithms : Statement .negotiateAlgorithms := no_words rfl
theorem getDigests : Statement .getDigests := no_words rfl
theorem getCertificate : Statement .getCertificate := no_words rfl
theorem challenge (nonce : BitVec 256) : Statement (.challenge nonce) := no_words rfl
theorem getMeasurements : Statement .getMeasurements := no_words rfl
theorem writeAcknowledgement (id : LinkId) : Statement (.writeAcknowledgement id) := no_words rfl
theorem transitionFuseBlown (f : Fuse) : Statement (.transitionFuseBlown f) := no_words rfl

end Sys2Proof.Laws.EncodingFits
end

