-- ==== Sys2Proof/Tests/Slice0.lean ====
section
/-! SUPPORT. Tests of the model: ill-formed terms, decoding of words written out from the encodings of the manual, worked
examples of the manual (each names its rule), and for every statement of Certificates/Slice0 whose clauses have hypotheses a
witness that meets them, clause by clause. -/

namespace Sys2Proof.Tests

open Sys2Proof.Machine

-- One theorem after another: the checks share the memory that the machine has.
set_option Elab.async false

/-! States to test on. -/

/-- Frames 0 to 0xFFFF of device memory granted to partition 0, context 1, at every home slice and memory controller. -/
def grants : List ((Nat × Nat) × Word × Word) := (List.range 72).map (fun t => ((t, 0), 0x8800_7000_0000_0000, 0xFFFF))

def gang : Gang :=
  { key := placedTask.key, queue := 0, state := .running, prio := 0, quires := [0], reserved := [], root := 0x1000,
    spanned := false, peers := (List.range 8).map (fun p => Place.core (peerCore [0] p)), dead := [], save := 0,
    placedAt := 0, minresOver := false, moving := none, moved := [], kept := [] }

/-- A task on core 0 with a NOP at address 0, its gang running in quire 0; virtual page 1 is a page of data at 0x1_0000,
pages 2 and 3 are pages of code at 0x2_0000 and 0x2_8000. -/
def bench : State :=
  let s := State.reset.withFolio (folioOf ⟨0x0400, 0⟩ 0)
  { s with
    mem := { s.mem with
      cells := s.mem.cells.writeParts [(0x5008, le8 0x1_000F), (0x5010, le8 0x2_000F), (0x5018, le8 0x2_800F)]
      frames := (4, { FrameAttr.zero with code := true }) :: s.mem.frames }
    conf := { s.conf with access := grants, quires := s.conf.quires.set 0 1 }
    sched := { s.sched with gangs := [gang] } }

/-- Its strand in supervisor mode. -/
def sup (s : State) : State := s.setMe { s.me with mode := .supervisor }

/-- An errand in progress, whose strand is the current one. -/
def err (s : State) : State :=
  { s.mapCore 0 (fun k => { k with run := some ⟨⟨⟨0, 0⟩, 1, 0⟩, false, 3, false⟩, err := { k.main with ret := [] } }) with
    cur := ⟨0, true⟩ }

/-- The state that an instruction leaves, or the state before where it stops. -/
def next (i : Instr) (s : State) : State :=
  match exec i s with
  | .next t => t
  | _ => s

/-- Caches with no translation. Which translations a TLB keeps is a free value. -/
def cold (s : State) : State := s.setHere { s.here with tlb := [], itlb := [], walks := [] }

/-- One 8-byte store of g3 to virtual page 1, still to be performed. -/
def stored (s : State) : State := cold (next (.st 3 .d 7 .none 0) ((s.setG 7 0x8000).setG 3 0x1122_3344_5566_7788))

/-- What holds after one instruction. -/
def after (i : Instr) (s : State) (p : State → Bool) : Bool :=
  match exec i s with
  | .next t => p t
  | _ => false

/-- bench with values in g4 and g5. -/
def two (x y : Word) : State := (bench.setG 4 x).setG 5 y

/-- bench with values in f2 and f3. -/
def flt (x y : Word) : State := (bench.setF 2 x).setF 3 y

/-! Terms that are no instruction (R170 step 3). -/

theorem test_ill_formed :
    (Instr.shli 1 2 32 .w).violation = some .shiftRange ∧ (Instr.shli 1 2 32 .x).violation = none ∧
    (Instr.fcmpeq 1 3 true).violation = some .oddRegister ∧
    (Instr.acas 3 .q 4 6 8 .none false 0).violation = some .oddRegister ∧
    (Instr.lpad 0).violation = some .zeroLabel ∧
    (Instr.ld 1 .d true 2 .none 0).violation = some .signExtend ∧
    (Instr.ld 1 .w true 2 (.rel .core) 0).violation = some .ordering ∧
    (Instr.st 1 .w 2 (.acq .core) 0).violation = some .ordering ∧
    (Instr.ldl 1 .w false 2 .none .ef 0).violation = some .fullEmpty ∧
    (Instr.stl 1 .w 2 .none .fe 0).violation = some .fullEmpty ∧
    (Instr.fld 1 true false 2 .none .fe 0).violation = some .fullEmpty ∧
    (Instr.aadd 2 .q 4 6 .none false 0).violation = some .atomicSize ∧
    (Instr.afadd 2 .d 4 6 .none false 0).violation = some .atomicSize ∧
    (Instr.tld 1 .i32 4 5 0 0 .nf false 0).violation = some .tileType ∧
    (Instr.tld 1 .e2m1 4 5 0 0 .nf false 0).violation = some .sidecarBase ∧
    (Instr.tld 1 .bf16 4 5 6 0 .nf false 0).violation = some .sidecarBase ∧
    (Instr.tmma 0 1 2 .bf16 .fp16 0 0).violation = some .matrixPair ∧
    (Instr.acvt 1 2 .bf16 .rne false 2 0 0).violation = some .segment ∧
    (Instr.acvt 1 2 .i8 .rup false 0 0 0).violation = some .rounding ∧
    (Instr.acvt 1 2 .i8 .rne true 0 0 0).violation = some .saturation ∧
    (Instr.acvt 1 2 .mxe4m3 .rne false 0 0 1).violation = some .columnMask ∧
    (Instr.tcolb 1 2 .bf16 128 0).violation = some .immediate ∧
    (Instr.tcvt 1 2 .mxe4m3 .e2m1 0 0 .rne false).violation = some .scaleMode ∧
    (Instr.copy 1 2 30 false false).violation = some .descriptor ∧
    (Instr.copyr 1 2 3 true true false false).violation = some .lossy ∧
    (Instr.freeze 1 2 3 .core).violation = some .domain ∧
    (Instr.waitrp 5 5 0).violation = some .sameRegister ∧ (Instr.waitrp 0 0 0).violation = none ∧
    (Instr.tlbinv 1 2 0).violation = some .zeroCount ∧
    (Instr.sret 2).violation = some .resumeKind := by decide +kernel

/-! Decoding (words from the encodings and the worked folio of the manual). -/

theorem test_sample_words : ∀ x ∈ sampleWords, decodeTableWord x.1 x.2.1 = some x.2.2 := by decide +kernel

theorem test_other_words : ∀ x ∈ otherWords, decodeTableWord x.1 x.2.1 = some x.2.2 := by decide +kernel

/-- The folio `sum4`, worked to the byte: its heads from the front, its tails from the back. -/
def sum4 : List Byte :=
  [0x38, 0x0E, 0x2E, 0x52, 0x30, 0x09, 0x08, 0x0E, 0x38, 0x36, 0x00, 0x48, 0x00, 0x00] ++ List.replicate 32 0 ++
  [0x01, 0x00, 0x00, 0x00, 0x08, 0x00, 0x00, 0x08, 0x40, 0x31, 0x40, 0x00, 0x00, 0x08, 0x04, 0x00, 0x00, 0x00]

theorem test_folio_decodes :
    [0, 1, 2, 3, 4, 5, 6].map (fun k => (decodeAt sum4 k).toOption) =
      [some (.addi 7 0 4 .x), some (.ld 5 .d false 1 .none 64), some (.add 6 6 5 .x), some (.addi 1 1 8 .x), some (.brc 7 1),
       some .exit, some .fend] := by decide +kernel

/-- What stands at halfword k of a folio: 0 no head, 1 a head, 2 an overlap. -/
def standing (f : List Byte) (k : Nat) : Nat :=
  match headAt f k with
  | .notAHead => 0
  | .head _ => 1
  | .overlap => 2

/-- Offset 14 is no head, offset 12 is one; a folio of 16 heads with a tail of 2 bytes each has no head at 32; one whose
head 15 has a tail of 8 bytes overlaps (R167, R168). -/
theorem test_folio_heads :
    standing sum4 7 = 0 ∧ standing sum4 6 = 1 ∧
    standing ((List.replicate 16 [(0x00 : Byte), 0x09]).flatten ++ List.replicate 32 0) 15 = 1 ∧
    standing ((List.replicate 16 [(0x00 : Byte), 0x09]).flatten ++ List.replicate 32 0) 16 = 0 ∧
    standing ((List.replicate 15 [(0x00 : Byte), 0x09]).flatten ++ [0x00, 0x13] ++ List.replicate 32 0) 15 = 2 := by
  decide +kernel

/-- Reserved encodings: a w field of 2 and a minor code of 0x1E in class 0x02 (R182), class 0x0A (R171), FEND's class with a
nonzero field, MFCR with a nonzero tail bit (R203), COPYR with rty 2. -/
theorem test_reserved_encodings :
    decodeTableWord 32 0x0922_298E = none ∧ decodeTableWord 32 0x0921_299E = none ∧
    decodeTableWord 80 (0x2B00 * 2 ^ 64) = none ∧ decodeTableWord 32 0xE149_0201 = none := by decide +kernel

/-! Worked examples of the manual, one step each. -/

/-- R183: division by zero and overflow. -/
theorem test_divs : after (.divs 3 4 5 .x) (two 7 0) (·.g 3 == 0xFFFF_FFFF_FFFF_FFFF) = true := by decide +kernel
theorem test_divs_w : after (.divs 3 4 5 .w) (two 0x8000_0000 (-1)) (·.g 3 == 0xFFFF_FFFF_8000_0000) = true := by
  decide +kernel
theorem test_divu_w : after (.divu 3 4 5 .w) (two 7 0) (·.g 3 == 0xFFFF_FFFF_FFFF_FFFF) = true := by decide +kernel
theorem test_rems : after (.rems 3 4 5 .x) (two (-7) 2) (·.g 3 == -1) = true := by decide +kernel
theorem test_rems_zero : after (.rems 3 4 5 .x) (two (-5) 0) (·.g 3 == -5) = true := by decide +kernel
theorem test_shl : after (.shl 3 4 5 .x) (two 1 65) (·.g 3 == 2) = true := by decide +kernel
theorem test_add_w : after (.add 3 4 5 .w) (two 0x7FFF_FFFF 1) (·.g 3 == 0xFFFF_FFFF_8000_0000) = true := by decide +kernel
theorem test_mulhu : after (.mulhu 3 4 5 .x) (two (-1) (-1)) (·.g 3 == 0xFFFF_FFFF_FFFF_FFFE) = true := by decide +kernel
theorem test_clz_w : after (.clz 3 4 .w) (two 0xFFFF_FFFF_0000_0000 0) (·.g 3 == 32) = true := by decide +kernel
/-- R184: the immediate is sign-extended, and compared as unsigned. -/
theorem test_sltui : after (.sltui 3 4 (-1) .x) (two 5 0) (·.g 3 == 1) = true := by decide +kernel
theorem test_sltui_ones : after (.sltui 3 4 (-1) .x) (two (-1) 0) (·.g 3 == 0) = true := by decide +kernel
/-- R67: a write of g0 is discarded. -/
theorem test_add_g0 : after (.add 0 4 5 .x) (two 3 4) (·.g 0 == 0) = true := by decide +kernel
/-- A source that is the destination. -/
theorem test_sub_in_place : after (.sub 4 5 4 .x) (two 3 10) (·.g 4 == 7) = true := by decide +kernel

/-- R187 and R86: a tie to even, and upward. -/
theorem test_fadd : after (.fadd 1 2 3 .rne false) (flt 0x3F80_0000 0x3380_0000) (·.f 1 == 0x3F80_0000) = true := by
  decide +kernel
theorem test_fadd_rup : after (.fadd 1 2 3 .rup false) (flt 0x3F80_0000 0x3380_0000) (·.f 1 == 0x3F80_0001) = true := by
  decide +kernel
theorem test_fdiv : after (.fdiv 1 2 3 .rne false) (flt 0x3F80_0000 0x8000_0000) (·.f 1 == 0xFF80_0000) = true := by
  decide +kernel
theorem test_fmin : after (.fmin 1 2 3 false) (flt 0x8000_0000 0) (·.f 1 == 0x8000_0000) = true := by decide +kernel
theorem test_fmax : after (.fmax 1 2 3 false) (flt 0x7FC0_0000 0x4000_0000) (·.f 1 == 0x4000_0000) = true := by
  decide +kernel
theorem test_fmul : after (.fmul 1 2 3 .rtz false) (flt 0x7F00_0000 0x4000_0000) (·.f 1 == 0x7F7F_FFFF) = true := by
  decide +kernel
/-- R188: −2.5 truncated, 1.0e30 saturated, a signalling NaN made quiet (R89). -/
theorem test_fcvtif : after (.fcvtif 3 2 .rtz false) (flt 0xC020_0000 0) (·.g 3 == -2) = true := by decide +kernel
theorem test_fcvtif_large : after (.fcvtif 3 2 .rtz false) (flt 0x7149_F2CA 0) (·.g 3 == 0x7FFF_FFFF_FFFF_FFFF) = true := by
  decide +kernel
theorem test_fcvtds : after (.fcvtds 1 2) (flt 0x7F80_0001 0) (·.f 1 == 0x7FF8_0000_2000_0000) = true := by decide +kernel

/-- R86, R87, R89: the worked conversions. -/
theorem test_conversions :
    convert .fp32 .bf16 0x3F80_8000 .rne false = 0x3F80 ∧ convert .fp32 .e4m3 0x3A83_126F .rne false = 0x01 ∧
    convert .fp32 .e4m3 0x3A83_126F .rtz false = 0x00 ∧ convert .fp32 .e4m3 0x43FA_0000 .rne false = 0x7F ∧
    convert .fp32 .e4m3 0x43FA_0000 .rne true = 0x7E ∧ convert .fp32 .e4m3 0x43FA_0000 .rtz false = 0x7E ∧
    convert .fp32 .e4m3 0x43E8_0000 .rne false = 0x7E ∧ convert .bf16 .fp32 0x7F81 .rne false = 0x7FC1_0000 ∧
    convert .fp32 .bf16 0x7FC1_0000 .rne false = 0x7FC1 ∧ convert .e5m2 .fp32 0x7D .rne false = 0x7FA0_0000 ∧
    convert .fp32 .e5m2 0x7FA0_0000 .rne false = 0x7D := by decide +kernel

/-- A tile of zeros but for the bytes of row 0, and for its sidecar. -/
def rowTile (bs side : List Byte) : Tile :=
  ⟨Vector.ofFn (fun i => if i = 0 then BitVec.ofNat 2048 (leNat bs) else 0),
   Vector.ofFn (fun i => if i = 0 then BitVec.ofNat 128 (leNat side) else 0)⟩

def ones7F : List Byte := List.replicate 14 0x7F

/-- The worked case MXFP4 (R84, R102, R103): one rounding of the exact sum; its products that are not 0 lie at these five k.
-/
theorem test_tmma_mxfp4 :
    tmmaFp32 0x4B80_0000
      ([0, 1, 2, 3, 32].map (tileValue (rowTile ([0x12, 0xF7] ++ List.replicate 14 0 ++ [0x02]) ([0x7F, 0x7E] ++ ones7F))
        .e2m1 0))
      ([0, 1, 2, 3, 32].map (tileValue (rowTile ([0x21, 0x77] ++ List.replicate 14 0 ++ [0x02]) ([0x7F, 0x7F] ++ ones7F))
        .e2m1 0)) = 0x4B80_0001 := by decide +kernel

/-- The worked case MXFP6: a subnormal sum above a tie. -/
theorem test_tmma_mxfp6 :
    after (.tmma 0 1 2 .e3m2 .e2m3 1 1)
      (((bench.setMask 1 1).setTile 1 (rowTile ([0x0D] ++ List.replicate 23 0 ++ [0x48, 0x00]) ([0x40, 0x38] ++ ones7F))).setTile 2
        (rowTile ([0x09] ++ List.replicate 23 0 ++ [0x44, 0x00]) ([0x32, 0x32] ++ ones7F)))
      (fun t => accCode (t.acc 0) 0 0 == 0x2D1) = true := by decide +kernel

/-- The worked TCVT of R263: 0.75, 3.0 and −10.0 to E2M1 under a chosen scale. -/
theorem test_tcvt_choose :
    after (.tcvtChoose 6 5 .e2m1 .fp32 0 1 .rne false)
      ((bench.setMask 1 1).setTile 5 (rowTile (natLe 4 0x3F40_0000 ++ natLe 4 0x4040_0000 ++ natLe 4 0xC120_0000) []))
      (fun t => (t.tile 6).rows[(0 : Fin 64)].toNat % 2 ^ 16 == 0x0E31 && (t.tile 6).side[(0 : Fin 64)].toNat % 256 == 0x80) =
        true := by decide +kernel

/-- 500.0 to E4M3 with .SAT, into positions 128 to 191. -/
theorem test_tcvt_sat :
    after (.tcvt 6 5 .e4m3 .fp32 2 1 .rne true) ((bench.setMask 1 1).setTile 5 (rowTile (natLe 4 0x43FA_0000) []))
      (fun t => (t.tile 6).code .e4m3 0 128 == 0x7E && (t.tile 6).code .e4m3 0 0 == 0) = true := by decide +kernel

/-- A TCVT between one type and itself returns an infinity unchanged, .sat or not (R263). -/
theorem test_tcvt_same_type :
    after (.tcvt 6 5 .bf16 .bf16 0 1 .rne true) ((bench.setMask 1 1).setTile 5 (rowTile (natLe 2 0x7F80) []))
      (fun t => (t.tile 6).code .bf16 0 0 == 0x7F80) = true := by decide +kernel

/-- Element 200 of row 5 of an MXFP4 tile lies in bits 3:0 of its data byte 100, under the scale of block 6 (R71, R73). -/
theorem test_element_place :
    (⟨Vector.ofFn (fun i => if i = 5 then BitVec.ofNat 2048 (0x9 * 2 ^ 800) else 0), Vector.replicate 64 0⟩ : Tile).code .e2m1 5
      200 = 9 := by decide +kernel

/-- R108: an own offset, and the last bytes of the store (R109). -/
theorem test_local_addresses :
    after (.stl 4 .w 5 .none .nf 0) (two 1 0x9_FFFC) (fun t => t.here.writes.length == 1) = true ∧
    after (.stl 4 .d 5 .none .nf 0) (two 1 0x9_FFFC) (fun t => t.me.mode == .supervisor &&
      t.me.scause == BitVec.ofNat 64 Cause.translation.code) = true := by decide +kernel

/-- R16, R18: the line at 0x40_000C_0E80 has its home at device slice 61. -/
theorem test_home_slice : homeSlice 0x40_000C_0E80 = 61 := by decide +kernel

/-- A fault takes its strand to CR.SVEC in supervisor mode (R285, R286): a privileged form in user mode. -/
theorem test_fault_entry :
    after (.sret 0) (bench.setMe { bench.me with svec := 0x7F_FA00_1000 }) (fun t => t.me.mode == .supervisor &&
      t.me.pc == 0x7F_FA00_1000 && t.me.scause == BitVec.ofNat 64 Cause.privilegedInstruction.code) = true := by
  decide +kernel

/-- A step from reset runs a placed word: divs.w g4, g5, g6 with zeros (R183). -/
theorem test_step_placed_word :
    (match step (State.reset.withFetchWord 32 0x0921_298E) with
      | .next t => t.g 4 == 0xFFFF_FFFF_FFFF_FFFF
      | _ => false) = true := by decide +kernel

/-! Witnesses of the statements: states and operands that meet the hypotheses of each clause together. -/

/-- An answer is `ok` with something that `p` accepts. -/
def okWith {α : Type} (p : α → Bool) : Got α → Bool
  | .ok a => p a
  | _ => false

theorem got_ok {α : Type} {g : Got α} {p : α → Bool} (h : okWith p g = true) : ∃ a, g = .ok a ∧ p a = true := by
  cases g with
  | ok a => exact ⟨a, rfl, h⟩
  | fault f => cases h
  | wait s w => cases h

def faulted {α : Type} : Got α → Bool
  | .fault _ => true
  | _ => false

theorem got_fault {α : Type} {g : Got α} (h : faulted g = true) : ∃ f, g = .fault f := by
  cases g with
  | fault f => exact ⟨f, rfl⟩
  | ok a => cases h
  | wait s w => cases h

/-- The same of an `Except`. -/
def fine {ε α : Type} (p : α → Bool) : Except ε α → Bool
  | .ok a => p a
  | .error _ => false

theorem fine_ok {ε α : Type} {g : Except ε α} {p : α → Bool} (h : fine p g = true) : ∃ a, g = .ok a ∧ p a = true := by
  cases g with
  | ok a => exact ⟨a, rfl, h⟩
  | error e => cases h

theorem some_of {α : Type} {o : Option α} (h : o.isSome = true) : ∃ a, o = some a := by
  cases o with
  | some a => exact ⟨a, rfl⟩
  | none => cases h

/-- A target is one that a transfer may go to, one that it may not, one where checked landing lets it land or not. -/
def targetIs (ok : Bool) (a : Word) (x : Fetched) : Bool :=
  match headAt x.folio (a.toNat % 64 / 2) with
  | .notAHead => !ok
  | _ => ok == decide (a.toNat % 2 = 0)

theorem valid_of {s : State} {a : Word} (h : fine (targetIs true a) (s.fetch s.cur a) = true) : s.validTarget a := by
  obtain ⟨x, hx, hp⟩ := fine_ok h
  refine .inr ⟨x, hx, ?_⟩
  unfold targetIs at hp
  split at hp
  · cases hp
  · next hn => exact ⟨by simpa using hp, hn⟩

theorem bad_of {s : State} {a : Word} (h : fine (targetIs false a) (s.fetch s.cur a) = true) : s.badTarget a := by
  obtain ⟨x, hx, hp⟩ := fine_ok h
  refine ⟨x, hx, ?_⟩
  unfold targetIs at hp
  split at hp
  · next hn => exact .inr hn
  · exact .inl (by simpa using hp)

def landingIs (l : BitVec 16) (a : Word) (x : Fetched) : Bool := (decodeAt x.folio (a.toNat % 64 / 2)).toOption == some (.lpad l)

theorem toOption_some {ε α : Type} {g : Except ε α} {a : α} : g.toOption = some a ↔ g = .ok a := by
  cases g with
  | ok b => simp [Except.toOption]
  | error e => simp [Except.toOption]

theorem lands_of {s : State} {l : BitVec 16} {a : Word} (hl : l ≠ 0) (h : fine (landingIs l a) (s.fetch s.cur a) = true) :
    s.lands l a := by
  intro _ _ x hx
  rw [hx] at h
  exact ⟨hl, toOption_some.mp (by simpa [fine, landingIs] using h)⟩

theorem lands_free {s : State} {l : BitVec 16} {a : Word} (h : s.resident.lpad = false) : s.lands l a := by
  intro _ h'
  rw [h] at h'
  cases h'

theorem misses_of {s : State} {l : BitVec 16} {a : Word} (hm : s.me.mode = .user) (hr : s.resident.lpad = true)
    (h : fine (fun x => !landingIs l a x) (s.fetch s.cur a) = true) : s.misses l a := by
  obtain ⟨x, hx, hp⟩ := fine_ok h
  refine ⟨hm, hr, x, hx, .inr (fun he => ?_)⟩
  simp [landingIs, he, Except.toOption] at hp

/-! Encoding and the step. -/

theorem meets_DecodeEncode : (WellFormed (.tld 1 .e2m1 4 9 5 0 .nf false 0x100)) ∧
    ∃ e, encode (.tld 1 .e2m1 4 9 5 0 .nf false 0x100) = some e :=
  ⟨show _ = none by decide +kernel, some_of (by decide +kernel)⟩

def stepReady (u : State) : Bool :=
  u.runnable u.cur && (u.boundary u.cur).isNone && u.me.wait.isNone && !u.landingDue u.cur &&
    fine (fun x => standing x.folio (u.me.pc.toNat % 64 / 2) == 1 &&
      (decodeAt x.folio (u.me.pc.toNat % 64 / 2)).toOption == some .nop) (u.fetch u.cur u.me.pc)

/-- The two cases of the first clause: an empty agenda, and one whose first move is a strand's turn; the second clause;
another strand that can run; a strand that cannot. -/
theorem meets_StepRunsDecoded :
    (bench.pass.agenda = [] ∧ stepReady { bench.pass with agenda := bench.pass.round } = true) ∧
    ({ bench with agenda := [.strand ⟨0, false⟩] }.pass.agenda = .strand ⟨0, false⟩ :: [] ∧
      stepReady { { bench with agenda := [.strand ⟨0, false⟩] }.pass with agenda := [], cur := ⟨0, false⟩ } = true) ∧
    ({ bench with agenda := [.event .getVersion] }.pass.agenda = .event .getVersion :: [] ∧
      encode .getVersion = none) ∧
    ((err bench).runnable ⟨0, false⟩ = true ∧ (⟨0, false⟩ : Who) ≠ (err bench).cur) ∧
    (State.reset.pass.agenda = [] ∧ State.reset.pass.runnable State.reset.pass.cur = false) := by decide +kernel

/-- A strand at a free turn. -/
def freeTurn (s : State) : Bool :=
  let u := { s.pass with agenda := s.pass.round }
  s.pass.agenda.isEmpty && u.runnable u.cur && (u.boundary u.cur).isNone

/-- The state in which the strand of core 0 has that turn. -/
def turnOf (s : State) : State := { s.pass with agenda := s.pass.round }

def fetchFaults (s : State) : Bool :=
  match s.fetch s.cur s.me.pc with
  | .error _ => true
  | .ok _ => false

def headed (x : Fetched) (pc : Word) : Bool :=
  match headAt x.folio (pc.toNat % 64 / 2) with
  | .notAHead => false
  | _ => true

def at_ (pc : Word) : State := bench.setMe { bench.me with pc := pc }

/-- The task runs the folio that starts with these head bytes. -/
def runs (bs : List Byte) : State := bench.withFolio (bs ++ List.replicate (64 - bs.length) 0)

def badHead (bs : List Byte) : Bool :=
  freeTurn (runs bs) && (runs bs).me.pc == 0 &&
    fine (fun x => headed x 0 && (decodeAt x.folio 0).toOption.isNone) ((turnOf (runs bs)).fetch ⟨0, false⟩ 0)

/-- An errand whose first head is due to be an LPAD has its turn. -/
def landingErrand : State :=
  let s := err (bench.setHere { bench.here with task := bench.here.task.map (fun r => { r with lpad := true }) })
  { s.setHere { s.here with run := s.here.run.map (fun r => { r with landing := true }) } with agenda := [.strand ⟨0, true⟩] }

def isLpad : Option Instr → Bool
  | some (.lpad _) => true
  | _ => false

def missesLanding (u : State) : Bool :=
  u.landingDue u.cur && u.runnable u.cur && (u.boundary u.cur).isNone &&
    fine (fun x => headed x u.me.pc && !isLpad (decodeAt x.folio (u.me.pc.toNat % 64 / 2)).toOption) (u.fetch u.cur u.me.pc)

def boundaryDue : State := bench.setHere { bench.here with deferred := [plainFault .permWrite 5] }

def noHeadAt (pc : Word) : Bool :=
  freeTurn (at_ pc) && fine (fun x => decide (pc.toNat % 2 = 1) || !headed x pc) ((turnOf (at_ pc)).fetch ⟨0, false⟩ pc)

/-- A page mapped nowhere; an odd pc and an offset that is no head; heads that decode to nothing, one of a privileged class
and one of a reserved class. -/
theorem meets_StepRunsDecoded_faults :
    freeTurn (at_ 0x4000_0000) = true ∧ fetchFaults (turnOf (at_ 0x4000_0000)) = true ∧ noHeadAt 1 = true ∧ noHeadAt 62 = true ∧
      badHead [0xFF, 0xF3] = true ∧ badHead [0x00, 0xFC] = true := by decide +kernel

/-- An errand whose first head is no LPAD; a fault due at the boundary. -/
theorem meets_StepRunsDecoded_boundary :
    (landingErrand.pass.agenda = [.strand ⟨0, true⟩] ∧
      missesLanding { landingErrand.pass with agenda := [], cur := ⟨0, true⟩ } = true) ∧
    (boundaryDue.pass.agenda = [] ∧ (turnOf boundaryDue).runnable ⟨0, false⟩ = true ∧
      ((turnOf boundaryDue).boundary ⟨0, false⟩).isSome = true) := by decide +kernel

theorem meets_StepRunsDecoded_idle : ∃ t, step State.reset = .next t := by
  have h : (match step State.reset with
    | .next t => t.ticks == 1
    | _ => false) = true := by decide +kernel
  cases hs : step State.reset with
  | next t => exact ⟨t, rfl⟩
  | fault f => rw [hs] at h; cases h
  | refused r => rw [hs] at h; cases h

/-- A memory that is not empty, before a step that writes to it. -/
theorem meets_CanonicalKept : Canonical { bench with agenda := [.event (.drain 0 0)] } ∧
    ∃ t, step { stored bench with agenda := [.event (.drain 0 0)] } = .next t :=
  ⟨⟨by decide +kernel, by decide +kernel, by decide +kernel, by decide +kernel, by decide +kernel⟩, by
    have h : (match step { stored bench with agenda := [.event (.drain 0 0)] } with
      | .next t => t.byteAt 0x1_0000 == 0x88
      | _ => false) = true := by decide +kernel
    cases hs : step { stored bench with agenda := [.event (.drain 0 0)] } with
    | next t => exact ⟨t, rfl⟩
    | fault f => rw [hs] at h; cases h
    | refused r => rw [hs] at h; cases h⟩

/-! Forms that are barred, faults, traps and returns. -/

theorem meets_BarredForms :
    (bench.me.mode = .user ∧ privileged (.sret 0) = true) ∧
    ((sup bench).me.mode = .supervisor ∧ supervisorBarred (.exit) = true) ∧
    (bench.me.mode = .user ∧ isCallat (.callat 5 6 2) = true ∧
      (bench.setHere { bench.here with task := bench.here.task.map (fun r => { r with callat := false }) }).resident.callat = false) ∧
    ((err bench).me.mode = .user ∧ privileged (.tzero 3) = false ∧ (err bench).cur.errand = true ∧ namesTile (.tzero 3) = true) ∧
    (namesTile (.add 16 1 2 .x) = false ∧ (gregs (.add 16 1 2 .x)).any (fun r => decide (16 ≤ r)) = true) ∧
    (namesTile .exit = false ∧ errandBarred .exit = true) ∧
    ((sup (err bench)).me.mode = .supervisor ∧ (sup (err bench)).cur.errand = true ∧
      (∀ i ∈ [Instr.csave 3 4, .cload 3 4, .halt 3 4, .resume 3 4, .mboxset 3 4, .polset 3 4 5], errandBarred i = true) ∧
      (gregs (.add 3 31 2 .x)).any (fun r => decide (16 ≤ r)) = true) ∧
    (bench.cur.errand = false ∧ mainBarred .edone = true) := by decide +kernel

/-- A launch of one gang on queue 0, of which the task on core 0 is a part; the task's policies. -/
def launch0 : Launch :=
  { id := placedTask.key.launch, queue := 0, ctx := 1, part := 0, gangs := 1, quires := 1, local_ := false, lpol := 0, gpol := 0
    tpol := 0, mbox := 1, lpad := false, callat := true, entry := 0x40, khdr := 0x8200, hamper := 0, hcount := 0, param := 0
    rspill := 0, rsstride := 0, pair := 9, compl := 0, user := 0, notify := false, overlap := false, placed := 1, retired := 0
    killed := 0, tstart := 0, firstFault := none, status := 0 }

def launched (policy : BitVec 8) (s : State) : State :=
  ({ s with sched := { s.sched with launches := [launch0] } }).mapCore 0 (fun k =>
    { k with task := k.task.map (fun r : Resident => { r with policy := policy }) })

/-- Every fault goes to the containment policies. -/
def deleg (s : State) : State := s.setMe { s.me with sdeleg := -1 }

/-- Faults of four causes, before which a store has to be performed; contained ones: the first level that does not ignore
retries or kills, one that may not retry, levels that all ignore. -/
theorem meets_FaultEntry :
    (((stored bench).drainStrand ⟨0, false⟩).drained ⟨0, false⟩ = true ∧
      ((stored bench).drainStrand ⟨0, false⟩).acknowledged ⟨0, false⟩ = true ∧ ((stored bench).strand ⟨0, false⟩).mode = .user ∧
      ∀ f ∈ [Cause.translation, .illegalInstruction, .errandBudget, .fetchUnpublished],
        ((stored bench).strand ⟨0, false⟩).sdeleg.getLsbD f.code = false) ∧
    (((deleg bench).strand ⟨0, false⟩).mode = .user ∧ (plainFault .translation 0x1234).denied = none ∧
      ((deleg bench).strand ⟨0, false⟩).sdeleg.getLsbD Cause.translation.code = true) ∧
    (∀ x ∈ [((1 : BitVec 8), 0), (0x74, 1)], ∀ s ∈ [launched x.1 bench],
      (s.core 0).task.map (fun r => decidedBy r.policy true) = some (some (x.2, 1)) ∧ (s.strand ⟨0, false⟩).retries < 255) ∧
    (∀ x ∈ [((2 : BitVec 8), 0, 2, true), (0xC0, 3, 3, true), (9, 1, 2, false)], ∀ s ∈ [launched x.1 bench],
      (s.core 0).task.map (fun r => decidedBy r.policy x.2.2.2) = some (some (x.2.1, x.2.2.1)) ∧
        (s.core 0).task.bind (fun r => s.launch r.key.launch) = some launch0) ∧
    (∀ x ∈ [((0 : BitVec 8), true), (0x55, false)], ∀ s ∈ [launched x.1 bench],
      (s.core 0).task.map (fun r => decidedBy r.policy x.2) = some none) ∧
    (∀ w ∈ [(⟨0, false⟩ : Who), ⟨0, true⟩], ∀ s ∈ [(launched 0 (err bench)).setStrand w { bench.me with mode := .supervisor, sepc := 0x1234 }],
      (s.strand w).mode = .supervisor ∧ (s.core 0).task.bind (fun r => s.launch r.key.launch) = some launch0 ∧
        (plainFault .translation 0x1234).denied = none) := by decide +kernel

theorem meets_TrapEntry :
    ((stored bench).issueFault (.trap 3 0xFFFF) = none ∧ ((stored bench).drainStrand (stored bench).cur).drained ⟨0, false⟩ = true ∧
      ((stored bench).drainStrand (stored bench).cur).acknowledged ⟨0, false⟩ = true) ∧
    ((err bench).me.mode = .user ∧ (err bench).cur.errand = true) := by decide +kernel

/-- After a TRAP that named g3, after one that named none, after a fault. -/
def trapped (r : GReg) : State := next (.trap r 7) bench
def faultedState : State := next (.sret 0) bench

/-- The strand's writes are performed. -/
def quiescent (s : State) : State := s.drainStrand s.cur

/-- SRET's conditions, and what SSTATUS says of how the runtime was entered. -/
def mayReturn (s : State) : Bool :=
  s.me.mode == .supervisor && (s.drainStrand s.cur).drained s.cur && (s.drainStrand s.cur).acknowledged s.cur &&
    !(s.drainStrand s.cur).demandReturn && !s.cur.errand

def enteredBy (s : State) : BitVec 2 := (s.drainStrand s.cur).me.sstatus.extractLsb' 8 2

/-- The task has been loaded by CLOAD, or not. -/
def trappedLoading (r : GReg) (b : Bool) : State := (trapped r).mapCore 0 (fun k => { k with loading := b })

theorem meets_SretResumes :
    (∀ r ∈ [(3 : GReg), 0], ∀ b ∈ [false, true], mayReturn (trappedLoading r b) = true ∧
      enteredBy (trappedLoading r b) = 0 ∧
      ((trappedLoading r b).drainStrand (trappedLoading r b).cur).here.loading = b) ∧
    (trapped 3).me.sstatus.extractLsb' 11 5 ≠ 0 ∧ (trapped 0).me.sstatus.extractLsb' 11 5 = 0 ∧
    mayReturn faultedState = true ∧ enteredBy faultedState ≠ 0 := by decide +kernel

/-- The runtime is about to return from a demand fault at an address; the pool holds the frame that now backs it, or not. -/
def demanded (a : Nat) (pool : Bool) : State :=
  let s := sup { bench with conf := { bench.conf with
    demand := [(1, a, 0x8000)], pools := if pool then [(0, (2, 3))] else [] } }
  s.setMe { s.me with sstatus := 0x100, lastFault := some { plainFault .translation (BitVec.ofNat 64 a) with info := 128 } }

/-- The address is mapped; its frame is one of the pool. -/
def demandCase (mapped pool : Bool) (s : State) : Bool :=
  s.me.mode == .supervisor && (quiescent s).drained s.cur && (quiescent s).acknowledged s.cur && (quiescent s).demandReturn &&
    (match (quiescent s).translate (quiescent s).here (quiescent s).resident .user .read (quiescent s).me.recorded.addr.toNat with
      | .ok (pa, _) => mapped && (quiescent s).conf.spare (quiescent s).resident.part (pa / 0x8000) == pool
      | .error _ => !mapped)

theorem meets_SretResumes_demand :
    demandCase true true (demanded 0x8000 true) = true ∧ demandCase true false (demanded 0x8000 false) = true ∧
      demandCase false false (demanded 0x4000_0000 true) = true := by decide +kernel

/-! Integer and floating-point forms: at an ordinary register and at g0, in the main strand, an errand and supervisor mode. -/

theorem meets_IntegerResults :
    ∀ s ∈ [bench, err bench, sup bench], ∀ gd ∈ [(0 : GReg), 15], ∀ wd ∈ [Width.x, .w],
      (∀ p ∈ integerForms, s.issueFault (p.1 gd 4 5 wd) = none) ∧ (∀ p ∈ unaryForms, s.issueFault (p.1 gd 4 wd) = none) ∧
      ∀ p ∈ immediateForms, s.issueFault (p.1 gd 4 31 wd) = none := by decide +kernel

theorem meets_ConstantsAndAddresses : ∀ s ∈ [bench, err bench, sup bench], ∀ gd ∈ [(0 : GReg), 15],
    s.issueFault (.li gd (-1)) = none ∧ s.issueFault (.adr gd (-64)) = none ∧ s.issueFault (.lea gd 4 5 7 (-1)) = none := by decide +kernel

theorem meets_NoEffect : ∀ s ∈ [bench, err bench, sup bench],
    s.issueFault .nop = none ∧ s.issueFault .pause = none ∧ s.issueFault (.lpad 7) = none := by decide +kernel

theorem meets_FloatArithmetic :
    (∀ s ∈ [bench, err bench], ∀ d ∈ [false, true],
      (∀ p ∈ floatForms, s.issueFault (p.1 1 2 3 .rup d) = none) ∧ (∀ p ∈ floatExtremes, s.issueFault (p.1 1 2 3 d) = none) ∧
      (∀ p ∈ floatSigns, s.issueFault (p.1 1 2 d) = none) ∧ s.issueFault (.fsqrt 1 2 .rne d) = none ∧
      s.issueFault (.fma 1 2 3 4 .rne d) = none) ∧
    (floatFmt false).isNan 0x7F80_0001 = true ∧ (floatFmt true).isNan 0x7FF0_0000_0000_0001 = true ∧
    (floatFmt false).isNan 0x7F80_0000 = false := by decide +kernel

theorem meets_FloatMoves : ∀ s ∈ [bench, err bench], ∀ d ∈ [false, true],
    s.issueFault (.fmvfg 1 2 d) = none ∧ s.issueFault (.fmvgf 0 1 d) = none ∧ s.issueFault (.fcvtfi 1 2 .rne d) = none ∧
    s.issueFault (.fcvtif 3 2 .rtz d) = none ∧ s.issueFault (.fcvtsd 1 2 .rdn) = none ∧ s.issueFault (.fcvtds 1 2) = none ∧
    (∀ p ∈ floatCompares, s.issueFault (p.1 3 14 d) = none) ∧ s.issueFault (.fclass 3 2 d) = none := by decide +kernel

/-! Branches, calls and returns. -/

/-- bench with an LPAD 7 as its first instruction, and checked landing. -/
def landing : State :=
  let s := State.reset.withFolio (folioOf ⟨0x4500, 0x0007⟩ 2)
  s.setHere { s.here with task := s.here.task.map (fun r => { r with lpad := true }) }

/-- An errand whose first head is that LPAD has its turn. -/
theorem meets_StepRunsDecoded_landing :
    ∀ s ∈ [err landing], ∀ u ∈ [s.setHere { s.here with run := s.here.run.map (fun r => { r with landing := true }) }],
      u.landingDue u.cur = true ∧ u.runnable u.cur = true ∧ (u.boundary u.cur).isNone = true ∧ u.me.pc.toNat % 2 = 0 ∧
        fine (fun x => headed x u.me.pc && isLpad (decodeAt x.folio (u.me.pc.toNat % 64 / 2)).toOption)
          (u.fetch u.cur u.me.pc) = true := by decide +kernel

theorem meets_Branches :
    bench.issueFault (.b .eq 4 5 0) = none ∧ condition .eq (bench.g 4) (bench.g 5) = true ∧ condition .ne (bench.g 4) (bench.g 5) = false ∧
    bench.validTarget (bench.branchTo (0 : BitVec 27)) ∧ bench.badTarget (bench.branchTo (31 : BitVec 27)) ∧
    bench.issueFault (.j 0) = none ∧ bench.validTarget (bench.branchTo (0 : BitVec 32)) ∧
    bench.badTarget (bench.branchTo (31 : BitVec 32)) ∧
    bench.issueFault (.brc 4 0) = none ∧ (bench.setG 4 1).g 4 = 1 ∧ bench.g 4 ≠ 1 ∧
    (bench.setG 4 1).issueFault (.brc 4 0) = none ∧ (err bench).issueFault (.brc 4 0) = none :=
  ⟨by decide +kernel, by decide +kernel, by decide +kernel, valid_of (by decide +kernel), bad_of (by decide +kernel),
    by decide +kernel, valid_of (by decide +kernel), bad_of (by decide +kernel), by decide +kernel⟩

theorem meets_CallsAndJumps :
    bench.issueFault (.call 0) = none ∧ bench.mustSpill = false ∧ (err bench).mustSpill = false ∧
    bench.validTarget (bench.branchTo (0 : BitVec 32)) ∧ bench.badTarget (bench.branchTo (31 : BitVec 32)) ∧
    bench.issueFault (.callr 4 7) = none ∧ landing.issueFault (.callr 4 7) = none ∧ landing.mustSpill = false ∧
    landing.validTarget (landing.g 4) ∧ landing.lands 7 (landing.g 4) ∧ landing.misses 8 (landing.g 4) ∧
    (bench.setG 4 1).badTarget ((bench.setG 4 1).g 4) ∧ landing.issueFault (.jr 4 7) = none ∧
    (bench.setG 4 3).issueFault (.jt 4 3 7 0x8000) = none ∧ (3 : BitVec 16).toNat ≤ ((bench.setG 4 3).g 4).toNat ∧
    ((bench.setG 4 2).g 4).toNat < (3 : BitVec 16).toNat :=
  ⟨by decide +kernel, by decide +kernel, by decide +kernel, valid_of (by decide +kernel), bad_of (by decide +kernel),
    by decide +kernel, by decide +kernel, by decide +kernel, valid_of (by decide +kernel),
    lands_of (by decide) (by decide +kernel), misses_of (by decide +kernel) (by decide +kernel) (by decide +kernel),
    bad_of (by decide +kernel), by decide +kernel, by decide +kernel, by decide +kernel, by decide +kernel⟩

/-- A handler in the runtime region with PHYS set, whose memory reads 0: a table at its own address, all of whose entries
are 0. -/
def handler : State :=
  let s := sup bench
  (s.setMe { s.me with pc := 0x7F_FA00_0000, sstatus := 0x400 }).setG 4 1

/-- The entry that a load gave leads to an address that has a head, in supervisor mode, where no landing is checked. -/
def entryLeads (x : State × List Byte) : Bool :=
  (0x7F_FA00_0040 : Word) + (BitVec.ofNat 32 (leNat x.2)).signExtend 64 == 0x7F_FA00_0040 && x.1.me.mode == .supervisor &&
    fine (targetIs true 0x7F_FA00_0040) (x.1.fetch x.1.cur 0x7F_FA00_0040)

/-- The entry that a load gave leads to a place that is no head. -/
def entryMisleads (x : State × List Byte) : Bool :=
  (0x7F_FA00_0041 : Word) + (BitVec.ofNat 32 (leNat x.2)).signExtend 64 == 0x7F_FA00_0041 &&
    fine (targetIs false 0x7F_FA00_0041) (x.1.fetch x.1.cur 0x7F_FA00_0041)

/-- Checked landing, at the first address of the other half of the address space, whose tables are those of the first half;
the page below it, under tables of its own, is the page of data, whose first entry leads here. -/
def farCode : State :=
  let s := bench.setHere { bench.here with task := bench.here.task.map (fun r => { r with lpad := true }) }
  let s := s.setMe { s.me with pc := 0x8_0000_0000_0000 }
  { s with mem := { s.mem with cells := s.mem.cells.writeParts [(0x1008, le8 0x2001), (0x2FF8, le8 0x6_0001),
      (0x6_0FF8, le8 0x6_1001), (0x6_1FF8, le8 0x6_2001), (0x6_2FF8, le8 0x1_000F), (0x1_0000, natLe 4 0x8000)] } }

/-- The entry leads to a head that is no LPAD 7, under checked landing. -/
def entryMisses (x : State × List Byte) : Bool :=
  (0x7_FFFF_FFFF_8000 : Word) + (BitVec.ofNat 32 (leNat x.2)).signExtend 64 == 0x8_0000_0000_0000 && x.1.me.mode == .user &&
    x.1.resident.lpad && fine (fun y => targetIs true 0x8_0000_0000_0000 y && !landingIs 7 0x8_0000_0000_0000 y)
      (x.1.fetch x.1.cur 0x8_0000_0000_0000)

theorem meets_CallsAndJumps_table :
    (handler.issueFault (.jt 4 2 7 64) = none ∧ (handler.g 4).toNat < (2 : BitVec 16).toNat ∧
      folioStart handler.me.pc + (64 : BitVec 32).signExtend 64 = 0x7F_FA00_0040) ∧
    (∃ x, handler.load false (0x7F_FA00_0040 + handler.g 4 * 4) 4 .nf none = .ok x ∧ entryLeads x = true) ∧
    folioStart handler.me.pc + (65 : BitVec 32).signExtend 64 = 0x7F_FA00_0041 ∧
    (∃ x, handler.load false (0x7F_FA00_0041 + handler.g 4 * 4) 4 .nf none = .ok x ∧ entryMisleads x = true) ∧
    (farCode.issueFault (.jt 4 1 7 0xFFFF_8000) = none ∧ (farCode.g 4).toNat < (1 : BitVec 16).toNat ∧
      folioStart farCode.me.pc + (0xFFFF_8000 : BitVec 32).signExtend 64 = 0x7_FFFF_FFFF_8000) ∧
    (∃ x, farCode.load false (0x7_FFFF_FFFF_8000 + farCode.g 4 * 4) 4 .nf none = .ok x ∧ entryMisses x = true) ∧
    ∃ f, bench.load false (folioStart bench.me.pc + (0x4000_0000 : BitVec 32).signExtend 64 + bench.g 4 * 4) 4 .nf none = .fault f :=
  ⟨by decide +kernel, got_ok (by decide +kernel), by decide +kernel, got_ok (by decide +kernel), by decide +kernel,
    got_ok (by decide +kernel), got_fault (by decide +kernel)⟩

/-- The main strand's store full, and room for a spill at page 1. -/
def full32 : State := bench.setMe { bench.me with ret := List.replicate 32 0x40, rspill := 0x8000, spilled := 3 }

/-- No sweep is open on an operand. -/
def unswept (s : State) (o : Operand) : Bool := !(s.learnFrom o).sweepIn o

/-- The frame of the page of data is in a thaw sweep. -/
def sweeping (s : State) : State := { s with mem := { s.mem with frames := (2, { FrameAttr.zero with sweep := true }) :: s.mem.frames } }

theorem meets_CallSpills :
    full32.issueFault (.call 0) = none ∧ full32.mustSpill = true ∧ full32.me.ret = 0x40 :: List.replicate 31 0x40 ∧
    full32.validTarget (full32.branchTo (0 : BitVec 32)) ∧ full32.lands 7 (full32.g 4) ∧
    (∃ o, full32.operand false .write (full32.me.rspill + BitVec.ofNat 64 (8 * full32.me.spilled.toNat)) 8 = .ok o ∧
      unswept full32 o = true) ∧
    ((sweeping full32).issueFault (.call 0) = none ∧ (sweeping full32).mustSpill = true ∧ (sweeping full32).me.ret = full32.me.ret) ∧
    (sweeping full32).validTarget ((sweeping full32).branchTo (0 : BitVec 32)) ∧
    (∃ o, (sweeping full32).operand false .write (full32.me.rspill + BitVec.ofNat 64 (8 * full32.me.spilled.toNat)) 8 = .ok o ∧
      (!unswept (sweeping full32) o) = true) ∧
    ∃ f, (full32.setMe { full32.me with rspill := 0x4000_0000 }).operand false .write
      (0x4000_0000 + BitVec.ofNat 64 (8 * full32.me.spilled.toNat)) 8 = .fault f :=
  ⟨by decide +kernel, by decide +kernel, by decide +kernel, valid_of (by decide +kernel),
    lands_free (by decide +kernel), got_ok (by decide +kernel), by decide +kernel, valid_of (by decide +kernel),
    got_ok (by decide +kernel), got_fault (by decide +kernel)⟩

/-- One address held; none held and one spilled; none of either. -/
def held1 (a : Word) : State := bench.setMe { bench.me with ret := [0, a] }

/-- The spill area is in another half of the address space, under tables of its own, so that no cached translation of it
bears on a fetch. -/
def spilled1 : State :=
  { bench.setMe { bench.me with rspill := 0x8_0000_0000_8000, spilled := 1 } with
    mem := { bench.mem with cells := bench.mem.cells.write 0x1008 (le8 0x2001) } }

/-- An address that was read back is one to go to. -/
def spillLeads (x : State × List Byte) : Bool :=
  fine (targetIs true (BitVec.ofNat 64 (leNat x.2) &&& 0x01FF_FFFF_FFFF_FFFF))
    (x.1.fetch x.1.cur (BitVec.ofNat 64 (leNat x.2) &&& 0x01FF_FFFF_FFFF_FFFF))

/-- An address that was read back is no head. -/
def spillMisleads (x : State × List Byte) : Bool :=
  fine (targetIs false (BitVec.ofNat 64 (leNat x.2) &&& 0x01FF_FFFF_FFFF_FFFF))
    (x.1.fetch x.1.cur (BitVec.ofNat 64 (leNat x.2) &&& 0x01FF_FFFF_FFFF_FFFF))

def spilledOdd : State := { spilled1 with mem := { spilled1.mem with cells := spilled1.mem.cells.write 0x1_0000 (le8 1) } }

theorem meets_Returns :
    (held1 0).issueFault .ret = none ∧ (held1 0).returns.getLast? = some 0 ∧ (held1 0).validTarget 0 ∧
    (held1 62).returns.getLast? = some 62 ∧ (held1 62).badTarget 62 ∧
    (held1 1).returns.getLast? = some 1 ∧ (held1 1).badTarget 1 ∧
    (bench.returns = [] ∧ bench.me.spilled = 0 ∧ bench.issueFault .ret = none) ∧
    (∀ s ∈ [spilled1, spilledOdd], s.returns = [] ∧ s.me.mode = .user ∧ s.cur.errand = false ∧ s.me.spilled = 1 ∧
      s.issueFault .ret = none) ∧
    (∃ x, spilled1.load false (spilled1.me.rspill + BitVec.ofNat 64 (8 * (spilled1.me.spilled.toNat - 1))) 8 .nf none = .ok x ∧
      spillLeads x = true) ∧
    (∃ x, spilledOdd.load false (spilledOdd.me.rspill + BitVec.ofNat 64 (8 * (spilledOdd.me.spilled.toNat - 1))) 8 .nf none =
      .ok x ∧ spillMisleads x = true) ∧
    ∃ f, (spilled1.setMe { spilled1.me with rspill := 0x4000_0000 }).load false (0x4000_0000 + BitVec.ofNat 64 (8 * (1 - 1))) 8
      .nf none = .fault f :=
  ⟨by decide +kernel, by decide +kernel, valid_of (by decide +kernel), by decide +kernel, bad_of (by decide +kernel),
    by decide +kernel, bad_of (by decide +kernel), by decide +kernel, by decide +kernel, got_ok (by decide +kernel),
    got_ok (by decide +kernel), got_fault (by decide +kernel)⟩

/-! Loads, stores and atomics: the last bytes of a page and of the store, and the first. -/

/-- g5 names page 1, g6 the store's offset 0x100. -/
def mem5 (s : State) : State := (s.setG 5 0x8000).setG 6 0x100

theorem idle_of {s : State} (h : s.here.writes = [] ∧ s.here.copies = []) : s.idle := h

/-- The bytes of an operand may be read or written. -/
def touches (s : State) (k : Kind) (o : Operand) : Bool :=
  match (s.learnFrom o).touch k [o] with
  | .ok _ => true
  | _ => false

theorem meets_Loads :
    (∀ s ∈ [mem5 bench, mem5 (err bench)], ∀ z ∈ [Size.b, .d], s.issueFault (.ld 3 z false 5 (.acq .system) 0x7FF8) = none ∧
      s.issueFault (.ldl 3 z false 6 .none .nf 0x7F) = none ∧ s.issueFault (.fld 3 true false 5 .none .nf 0) = none ∧
      s.here.writes = [] ∧ s.here.copies = [] ∧
      okWith (touches s .read) (s.operand false .read (s.address 5 (0x7FF8 : BitVec 20)) (sizeBytes z)) = true ∧
      okWith (touches s .read) (s.operand true .read (s.address 6 (0x7F : BitVec 20)) (sizeBytes z)) = true ∧
      okWith (touches s .read) (s.operand false .read (s.address 5 (0 : BitVec 20)) 8) = true) ∧
    (stored bench).issueFault (.ld 9 .w true 7 .none 4) = none ∧ (stored bench).here.copies = [] ∧
    (stored bench).here.writes.map (fun w => (w.errand, w.discard, decide (w.hi - w.lo ≤ 8),
        decide ((w.segs.flatMap (·.bytes)).length = w.hi - w.lo))) = [((stored bench).cur.errand, false, true, true)] ∧
    okWith (fun o => (stored bench).here.writes.all (fun w =>
      decide (w.space = o.space ∧ w.lo ≤ o.lo ∧ o.lo + 4 ≤ w.hi)))
        ((stored bench).operand false .read ((stored bench).address 7 (4 : BitVec 20)) 4) = true := by decide +kernel

def waits {α : Type} : Got α → Bool
  | .wait _ _ => true
  | _ => false

theorem got_wait {α : Type} {g : Got α} (h : waits g = true) : ∃ u w, g = .wait u w := by
  cases g with
  | wait u w => exact ⟨u, w, rfl⟩
  | ok a => cases h
  | fault f => cases h

/-- Peer 1 of the gang is in mid-migration, or halted by pre-emption. -/
def awayPeer (moving : Bool) : State :=
  { bench with sched := { bench.sched with gangs := [{ gang with
      peers := gang.peers.set 1 (.saved 0x10_0000), moving := if moving then some (1, 40, 0x10_0000) else none }] } }

/-- An address that is mapped nowhere; a window that names no store, and the last 8 bytes of the own store; the store of a
peer that migrates, of one that is halted, of a gang that is not there. -/
theorem meets_AddressFaults :
    (∀ i ∈ [Instr.ld 3 .d false 5 .none 0, .st 3 .d 5 .none 0, .ldl 3 .d false 5 .none .fec 0, .stl 3 .d 5 .none .ef 0,
        .fld 3 true false 5 .none .nf 0, .fst 3 true false 5 .none .nf 0], (bench.setG 5 0x4000_0000).issueFault i = none) ∧
    (∃ f, (bench.setG 5 0x4000_0000).operand false .read ((bench.setG 5 0x4000_0000).address 5 (0 : BitVec 20)) 8 = .fault f) ∧
    (∃ f, (bench.setG 5 0x4000_0000).operand false .write ((bench.setG 5 0x4000_0000).address 5 (0 : BitVec 20)) 8 = .fault f) ∧
    (∃ u w, (awayPeer true).operand true .write (2 ^ 62 + 2 ^ 30) 8 = .wait u w) ∧
    ((0xC000_0000_0000_0000 : Word).toNat / 2 ^ 62 = 3 ∧ (0x10_0000 : Word).toNat / 2 ^ 20 % 2 ^ 10 ≠ 0) ∧
    ((0x9_FFF8 : Word).toNat / 2 ^ 62 = 0 ∧ (0x9_FFF8 : Word).toNat / 2 ^ 20 % 2 ^ 10 = 0 ∧
      (0x9_FFF8 : Word).toNat % 2 ^ 20 + 8 ≤ 0xA_0000 ∧ bench.here.bad = []) ∧
    ((2 ^ 62 + 2 ^ 30 : Word).toNat / 2 ^ 62 = 1 ∧ (2 ^ 62 + 2 ^ 30 : Word).toNat / 2 ^ 30 % 256 = 1 ∧ 1 < bench.resident.peers ∧
      1 ≠ bench.resident.peer ∧ (awayPeer true).peerAt (awayPeer true).resident.key 1 = .moving 0x10_0000 ∧
      (awayPeer false).peerAt (awayPeer false).resident.key 1 = .saved 0x10_0000 ∧
      { bench with sched := State.reset.sched }.peerAt bench.resident.key 1 = .absent) :=
  ⟨by decide +kernel, got_fault (by decide +kernel), got_fault (by decide +kernel), got_wait (by decide +kernel),
    by decide +kernel⟩

/-- Peer 1 of the gang has been killed. -/
def deadPeer : State := { bench with sched := { bench.sched with gangs := [{ gang with dead := [1] }] } }

/-- A second gang of the launch, on quire 5, whose tasks have ended or not. -/
def gang1 : Gang :=
  { gang with key := ⟨placedTask.key.launch, placedTask.key.gang + 1⟩, quires := [5]
              peers := (List.range 8).map (fun p => Place.core (peerCore [5] p)) }

def twoGangs (ended : Bool) : State :=
  gang1.cores.foldl (fun (s : State) c => s.mapCore c (fun k => { k with task := some { placedTask with ended := ended } }))
    { bench with sched := { bench.sched with gangs := [gang, gang1], launches := [{ launch0 with gangs := 2 }] } }

/-- Peer 1 of that gang, by the launch window. -/
def launchWindow : Word := BitVec.ofNat 64 (2 ^ 63 + 2 ^ 38 * (placedTask.key.gang + 1) + 2 ^ 30)

/-- The line of the page of data is in error. -/
def badData : State := let s := mem5 bench; { s with mem := { s.mem with ecc := [0x200] } }

theorem meets_AddressFaults_gangs :
    ((2 ^ 62 + 2 ^ 30 : Word).toNat / 2 ^ 20 % 2 ^ 10 = 0 ∧ (2 ^ 62 + 2 ^ 30 : Word).toNat % 2 ^ 20 + 8 ≤ 0xA_0000 ∧
      deadPeer.peerAt deadPeer.resident.key 1 = .dead (some (peerCore [0] 1))) ∧
    (launchWindow.toNat / 2 ^ 62 = 2 ∧ launchWindow.toNat / 2 ^ 20 % 2 ^ 10 = 0 ∧ launchWindow.toNat % 2 ^ 20 + 8 ≤ 0xA_0000 ∧
      launchWindow.toNat / 2 ^ 30 % 256 = 1 ∧ launchWindow.toNat / 2 ^ 38 % 2 ^ 24 = placedTask.key.gang + 1) ∧
    (∀ b ∈ [false, true], ∀ s ∈ [twoGangs b], 1 < s.resident.peers ∧ placedTask.key.gang + 1 ≠ s.resident.key.gang ∧
      placedTask.key.gang + 1 < s.gangCount s.resident ∧ s.retired ⟨s.resident.key.launch, placedTask.key.gang + 1⟩ = b ∧
      s.peerAt ⟨s.resident.key.launch, placedTask.key.gang + 1⟩ 1 = .core (peerCore [5] 1)) ∧
    (badData.issueFault (.ld 3 .d false 5 .none 0) = none ∧ badData.here.writes = [] ∧ badData.here.copies = [] ∧
      okWith (fun o => faulted ((badData.learnFrom o).touch .read [o]))
        (badData.operand false .read (badData.address 5 (0 : BitVec 20)) 8) = true) := by decide +kernel

theorem meets_StoresRetire :
    ∀ s ∈ [mem5 bench, mem5 (err bench), stored (mem5 bench)], ∀ z ∈ [Size.b, .d],
      s.issueFault (.st 3 z 5 (.rel .system) 0x7FF8) = none ∧ s.issueFault (.stl 3 z 6 .none .nf 0x7F) = none ∧
      s.issueFault (.fst 3 true true 6 .none .nf 0) = none ∧
      okWith (unswept s) (s.operand false .write (s.address 5 (0x7FF8 : BitVec 20)) (sizeBytes z)) = true ∧
      okWith (fun _ => true) (s.operand true .write (s.address 6 (0x7F : BitVec 20)) (sizeBytes z)) = true ∧
      okWith (unswept s) (s.operand true .write (s.address 6 (0 : BitVec 20)) 8) = true := by
  decide +kernel

/-- A unit of two granules, both FULL, both EMPTY, and one of each. -/
def granules (a b : Bool) : State := mem5 (bench.mapCore 0 (fun k => (k.setFull 0x100 16 a).setFull 0x110 16 b))

def inStore (p : CoreId → LocalAddr → Bool) (o : Operand) : Bool :=
  match o.loc with
  | .store c l => p c l
  | .mem _ => false

theorem meets_FullEmptyUnits :
    ∀ x ∈ [(true, true), (false, false), (true, false)], ∀ s ∈ [granules x.1 x.2],
      s.issueFault (.ldl 3 .d false 6 .none .fec 12) = none ∧ s.issueFault (.ldl 3 .d false 6 .none .fe 12) = none ∧
      s.issueFault (.fld 3 true true 6 .none .fec 12) = none ∧ s.issueFault (.stl 3 .d 6 .none .ef 12) = none ∧
      s.issueFault (.fst 3 true true 6 .none .ef 12) = none ∧ s.acknowledged s.cur = true ∧
      s.here.writes = [] ∧ s.here.copies = [] ∧
      okWith (fun o => touches s .read o && inStore (fun c l => (s.core c).allFull l.off 8 == (x.1 && x.2)) o)
        (s.operand true .read (s.address 6 (12 : BitVec 20)) 8) = true ∧
      okWith (inStore (fun c l => (s.core c).allEmpty l.off 8 == (!x.1 && !x.2)))
        (s.operand true .write (s.address 6 (12 : BitVec 20)) 8) = true := by decide +kernel

/-- The granules of the operands rise from one operand to the next, none below a first one. -/
def rising : Nat → List Operand → Bool
  | _, [] => true
  | lo, o :: os =>
    match o.store with
    | some (_, a, n) => decide (0 < n ∧ lo ≤ a / 16) && rising ((a + n - 1) / 16 + 1) os
    | none => rising lo os

theorem granule_bounds {a n g : Nat} (h : g ∈ Machine.granules a n) : a / 16 ≤ g ∧ g ≤ (a + n - 1) / 16 := by
  simp only [Machine.granules, blocksOf] at h
  split at h
  · cases h
  · simp only [List.mem_map, List.mem_range] at h
    omega

theorem rising_above {lo : Nat} {os : List Operand} (h : rising lo os = true) :
    ∀ o ∈ os, ∀ c a n, o.store = some (c, a, n) → lo ≤ a / 16 := by
  induction os generalizing lo with
  | nil => simp
  | cons p os ih =>
    intro o ho c a n hs
    rw [rising] at h
    rcases List.mem_cons.1 ho with rfl | ho
    · simp_all
    · split at h
      · simp only [Bool.and_eq_true, decide_eq_true_eq] at h
        have := ih h.2 o ho c a n hs
        omega
      · exact ih h o ho c a n hs

theorem apart_of {lo : Nat} {os : List Operand} (h : rising lo os = true) : Apart os := by
  induction os generalizing lo with
  | nil => exact .nil
  | cons p os ih =>
    rw [rising] at h
    refine .cons ?_ ?_
    · intro o ho c a n d b m hp hs _ g hg hm
      simp only [hp, Bool.and_eq_true, decide_eq_true_eq] at h
      have h1 := rising_above h.2 o ho d b m hs
      have h2 := granule_bounds hg
      have h3 := granule_bounds hm
      omega
    · split at h
      · exact ih (Bool.and_eq_true _ _ ▸ h).2
      · exact ih h

def moves : State :=
  (((((mem5 bench).setMask 1 0x8000_0000_0000_0001).setMask 2 0).setG 8 256).setG 10 0xC000).setG 11 0x4000_0000_0000_0100

/-- The rows of an E2M1 tile in the store from 0x100 on, FULL or not; g12 names the place of their scales. -/
def rows64 (full : Bool) : State := (moves.setG 12 0x8000).mapCore 0 (fun k => { k with full := if full then BitVec.allOnes 40960 else 0 })

/-- One granule in one of the last rows is EMPTY among FULL ones, or FULL among EMPTY ones. -/
def rows63 (full : Bool) : State := (rows64 full).mapCore 0 (fun k => k.setFull 0x40F0 16 (!full))

/-- The bytes of some operands may be read or written, beside others. -/
def touchAll (s : State) (k : Kind) (beside os : List Operand) : Bool :=
  match (s.learnAll beside).touch k os with
  | .ok _ => true
  | _ => false

/-- The rows of a qualified load, and the scales that go with them: all FULL, or with one granule EMPTY. -/
def mayTake (full : Bool) (ty : Ty) (b : Nat) (xs : Got (List Operand)) : Bool :=
  let s := (if full then rows64 true else rows63 true).setG 8 (if b = 0 then 256 else 272)
  okWith (fun xs => okWith (fun os => (picked (s.mask 1) os).all (fun p => (s.dataFault .read p.2).isNone) &&
      touchAll s .read (os ++ xs) xs && os.all s.rowFull == full && rising 0 os)
    (s.units true .read (everyRow ty b (s.address 6 (0 : BitVec 32)) (s.g 8)))) xs

/-- The rows of a qualified store: all EMPTY, or with one granule FULL. -/
def mayPut (empty : Bool) (ty : Ty) (b : Nat) : Bool :=
  let s := (if empty then rows64 false else rows63 false).setG 8 (if b = 0 then 256 else 272)
  okWith (fun os => os.all s.rowEmpty == empty && rising 0 os)
    (s.storeUnits true (withMask (s.mask 1) (everyRow ty b (s.address 6 (0 : BitVec 32)) (s.g 8))))

theorem meets_FullEmptyUnits_tld :
    (∀ b ∈ [true, false], ∀ s ∈ [if b then rows64 true else rows63 true],
      s.issueFault (.tld 9 .e2m1 6 8 12 1 .fec true 0) = none ∧ s.issueFault (.tldx 9 .e2m1 6 8 1 .fe true 0) = none ∧
      s.here.writes = [] ∧ s.here.copies = [] ∧ s.here.rowUnits = [] ∧
      mayTake b .e2m1 0 (s.units true .read (scaleUnits .e2m1 (s.g 12) (s.mask 1))) = true ∧
      mayTake b .e2m1 16 (.ok []) = true) ∧ Ty.e2m1.scaled = true ∧ scaleBytes .e2m1 = 16 := by decide +kernel

/-- A waiting TLD.fec whose row 0 took two granules, of which another agent has acted on the second since, is given up: the
first granule is FULL again, the second stays as it is (R60, R230; log entry 73). -/
theorem test_given_up_move :
    (let s := bench.setHere { bench.here with
        full := 0, claims := [⟨16, placedTask.key, 0⟩]
        rowUnits := [⟨0, placedTask.key, 0, 0x100, .fec, List.replicate 32 0, List.replicate 32 0⟩] }
     s.forget.here.allFull 0x100 16 && s.forget.here.allEmpty 0x110 16 && s.forget.here.rowUnits.isEmpty) = true := by
  decide +kernel

theorem meets_FullEmptyUnits_tst :
    (∀ b ∈ [true, false], ∀ s ∈ [if b then rows64 false else rows63 false],
      s.issueFault (.tst 9 .e2m1 6 8 12 1 .ef true 0) = none ∧ s.issueFault (.tstx 9 .e2m1 6 8 1 .ef true 0) = none ∧
      s.here.writes = [] ∧ s.here.copies = [] ∧ s.here.rowUnits = [] ∧
      okWith (fun _ => true) (s.storeUnits true (withMask (s.mask 1) (everyScale .e2m1 (s.g 12)))) = true ∧
      mayPut b .e2m1 0 = true ∧ mayPut b .e2m1 16 = true) := by decide +kernel

def readyFor (s : State) (z : Size3) (addr : Word) (sp : Bool) : Bool :=
  s.acknowledged s.cur && decide (addr.toNat % size3Bytes z = 0) &&
    okWith (fun o => decide (size3Bytes z ≤ o.atomicSize) && !(s.learnFrom o).sweepIn o && !s.sentOver o.physical && touches s .both o)
      (s.operand sp .both addr (size3Bytes z))

/-- Page 1 lies in host memory. -/
def onHost : State := let s := mem5 bench; { s with mem := { s.mem with cells := s.mem.cells.write 0x5008 (le8 0x8_0000_0000_000F) } }

/-- At memory and at the store, of one byte and of a pair; a compare that holds (0 with 0) and one that fails; a pair in host
memory, whose atomics have at most 8 bytes. -/
theorem meets_Atomics :
    (∀ s ∈ [mem5 bench, mem5 (err bench)], ∀ z ∈ [Size3.b, .q],
      (∀ p ∈ atomicForms, s.issueFault (p.1 8 z 5 10 (.acqrel .device) false 16) = none) ∧
      s.issueFault (.acas 8 z 5 10 12 .none false 16) = none ∧ s.issueFault (.afadd 8 .w 5 10 .none false 16) = none ∧
      s.here.writes = [] ∧ s.here.copies = [] ∧ readyFor s z (s.address 5 (16 : BitVec 32)) false = true ∧
      readyFor s z (s.address 6 (16 : BitVec 32)) true = true ∧ readyFor s .w (s.address 5 (16 : BitVec 32)) false = true) ∧
    leNat [(0 : Byte)] = ((mem5 bench).source 12 1).toNat ∧ leNat [(0 : Byte)] ≠ (((mem5 bench).setG 12 5).source 12 1).toNat ∧
    ((mem5 bench).address 5 (17 : BitVec 32)).toNat % size3Bytes .h ≠ 0 ∧
    ((∀ p ∈ atomicForms, onHost.issueFault (p.1 8 .q 5 10 .none false 16) = none) ∧
      onHost.issueFault (.acas 8 .q 5 10 12 .none false 16) = none ∧
      (onHost.address 5 (16 : BitVec 32)).toNat % size3Bytes .q = 0 ∧
      okWith (fun o => decide (o.atomicSize < size3Bytes .q)) (onHost.operand false .both (onHost.address 5 (16 : BitVec 32)) 16) =
        true) := by decide +kernel

theorem meets_DrainPerforms :
    ∃ w, ((stored bench).core 0).writes.find? (fun v => v.seq == w.seq) = some w ∧ (stored bench).writeBlocked 0 w = false ∧
      w.segs = [⟨.phys 0x1_0000, natLe 8 0x1122_3344_5566_7788⟩] ∧
      (stored bench).partsOf ⟨.phys 0x1_0000, natLe 8 0x1122_3344_5566_7788⟩ = [⟨.phys 0x1_0000, natLe 8 0x1122_3344_5566_7788⟩] ∧
      w.discard = false ∧ w.space = .virt ∧ memType 0x1_0000 = .device ∧
      (stored bench).granted w.master 0x1_0000 .write = true :=
  ⟨(stored bench).here.writes.head (by decide +kernel), by decide +kernel⟩

theorem meets_DrainPerforms_store :
    let s := cold (next (.stl 3 .d 6 .none .nf 0) (mem5 bench))
    ∃ w, (s.core 0).writes.find? (fun v => v.seq == w.seq) = some w ∧ s.writeBlocked 0 w = false ∧
      w.segs = [⟨.store placedTask.key 0 0x100, natLe 8 0⟩] ∧
      s.partsOf ⟨.store placedTask.key 0 0x100, natLe 8 0⟩ = [⟨.store placedTask.key 0 0x100, natLe 8 0⟩] ∧
      s.peerAt placedTask.key 0 = .core 0 :=
  ⟨(cold (next (.stl 3 .d 6 .none .nf 0) (mem5 bench))).here.writes.head (by decide +kernel), by decide +kernel⟩

/-! Tiles: rows 0 and 63, with a stride and none. -/

theorem meets_TileLoads :
    (∀ m ∈ [(1 : MReg), 2], ∀ x ∈ [(false, (5 : GReg)), (true, 6)],
      moves.issueFault (.tld 9 .fp32 x.2 8 0 m .nf x.1 4) = none ∧ moves.here.writes = [] ∧ moves.here.copies = [] ∧
      okWith (fun xs => okWith (fun os => touchAll moves .read (os ++ xs) os && touchAll moves .read (os ++ xs) xs)
          (moves.units x.1 .read (rowUnits .fp32 0 (moves.address x.2 (4 : BitVec 32)) (moves.g 8) (moves.mask m))))
        (moves.units x.1 .read (scaleUnits .fp32 (moves.g 0) (moves.mask m))) = true ∧
      moves.issueFault (.tldx 9 .mxe4m3 x.2 8 m .nf x.1 4) = none ∧ Ty.mxe4m3.scaled = true ∧
      okWith (fun os => touchAll moves .read os os) (moves.units x.1 .read
        (rowUnits .mxe4m3 (scaleBytes .mxe4m3) (moves.address x.2 (4 : BitVec 32)) (moves.g 8) (moves.mask m))) = true) ∧
    moves.issueFault (.tld 9 .e2m1 5 8 10 1 .nf false 0) = none ∧
    okWith (fun xs => xs.length == 2 &&
        okWith (fun os => touchAll moves .read (os ++ xs) os && touchAll moves .read (os ++ xs) xs)
          (moves.units false .read (rowUnits .e2m1 0 (moves.address 5 (0 : BitVec 32)) (moves.g 8) (moves.mask 1))))
      (moves.units false .read (scaleUnits .e2m1 (moves.g 10) (moves.mask 1))) = true := by
  decide +kernel

theorem meets_TransposedAndGathered :
    (moves.issueFault (.tldt 9 .fp32 6 8 1 true 0) = none ∧ Ty.fp32.plain = true ∧ moves.here.writes = [] ∧ moves.here.copies = [] ∧
      okWith (fun os => touchAll moves .read os os) (moves.units true .read
        ((columnUnits (moves.address 6 (0 : BitVec 32)) (moves.g 8) .fp32 (moves.mask 1)).map (·.2.2))) = true) ∧
    (∀ x ∈ [(false, (5 : GReg)), (true, 11)], moves.issueFault (.tgather 9 .fp32 2 63 x.2 1 x.1 0) = none ∧ moves.here.gather = none ∧
      okWith (fun os => os.all (inStore (fun c _ => c == 0)) == x.1 && touchAll moves .read os os)
        (moves.gatherUnits (moves.address x.2 (0 : BitVec 32)) x.1 (moves.tile 2).rows[(63 : Fin 64)] (rowsOfMask (moves.mask 1))) =
          true) ∧
    (moves.issueFault (.ald 3 6 1 1 true 0) = none ∧ accRange (moves.address 6 (0 : BitVec 32)) = none ∧
      okWith (fun os => touchAll moves .read os os) (moves.units true .read
        ((accUnits (moves.address 6 (0 : BitVec 32)) (moves.mask 1) (moves.mask 1)).map (·.2.2))) = true) := by decide +kernel

/-- Row 0 of the index tile names a row of peer 1's store, row 63 one of the own store; the rows have come. -/
def gathers (rows : Option (List GatherRow)) : State :=
  let s := moves.setG 11 (2 ^ 62)
  s.setHere { s.here with gather := rows, t := s.here.t.set (tileSlot s.here.rot 2) { s.tile 2 with
    rows := (s.tile 2).rows.set 63 (BitVec.ofNat 2048 (2 ^ 24 + 2)) } }

def answered (bad : Option Nat) : List GatherRow :=
  [⟨0, placedTask.key, 1, 0x200, some 7, none⟩, ⟨63, placedTask.key, 0, 0, some 9, bad⟩]

theorem meets_TransposedAndGathered_asks :
    ((gathers none).issueFault (.tgather 9 .fp32 2 63 11 1 true 0) = none ∧ (gathers none).here.gather = none ∧
      okWith (fun os => os.any (inStore (fun c _ => c != 0)) && os.any (inStore (fun c _ => c == 0)))
        ((gathers none).gatherUnits ((gathers none).address 11 (0 : BitVec 32)) true ((gathers none).tile 2).rows[(63 : Fin 64)]
          (rowsOfMask ((gathers none).mask 1))) = true) ∧
    (∀ b ∈ [none, some 64], ∀ rows ∈ [answered b], ∀ s ∈ [gathers (some rows)],
      s.issueFault (.tgather 9 .fp32 2 63 11 1 true 0) = none ∧ s.here.gather = some rows ∧
      rows.map (fun r => r.row) = rowsOfMask (s.mask 1) ∧ (∀ r ∈ rows, r.data.isSome = true) ∧
      okWith (fun os => os.length == 2) (s.gatherUnits (s.address 11 (0 : BitVec 32)) true
        (s.tile 2).rows[(63 : Fin 64)] (rowsOfMask (s.mask 1))) = true ∧
      (rows.take 1).all (fun r => r.bad.isNone) = true ∧ rows[1]?.map (·.bad) = some b) := by
  decide +kernel

def mayStore (p : List Operand → Bool) (g : Got (List Operand)) : Bool :=
  okWith (fun os => !(os.any (moves.learnAll os).sweepIn) && p os) g

/-- A store may write its selected rows and scales: each side is checked whole, and no sweep is open on a selected part. -/
def mayStoreRows (m : MReg) (os xs : Got (List Operand)) (n : Nat) : Bool :=
  okWith (fun os => okWith (fun xs =>
    (picked (moves.mask m) os ++ picked (moves.mask m) xs).all (fun p => !(moves.learnAll (os ++ xs)).sweepIn p.2) &&
      (picked (moves.mask m) os).length == n) xs) os

theorem meets_TileStores :
    (∀ x ∈ [((1 : MReg), false, (5 : GReg)), (2, true, 6)],
      moves.issueFault (.tst 9 .fp32 x.2.2 8 0 x.1 .nf x.2.1 4) = none ∧
      mayStoreRows x.1
        (moves.storeUnits x.2.1 (withMask (moves.mask x.1) (everyRow .fp32 0 (moves.address x.2.2 (4 : BitVec 32)) (moves.g 8))))
        (moves.storeUnits x.2.1 (withMask (moves.mask x.1) (everyScale .fp32 (moves.g 0)))) (if x.1 = 1 then 2 else 0) = true) ∧
    (∀ m ∈ [(1 : MReg), 2], moves.issueFault (.tstx 9 .mxe4m3 6 8 m .nf true 4) = none ∧
      mayStoreRows m (moves.storeUnits true (withMask (moves.mask m)
        (everyRow .mxe4m3 (scaleBytes .mxe4m3) (moves.address 6 (4 : BitVec 32)) (moves.g 8)))) (.ok []) (if m = 1 then 2 else 0) = true) ∧
    moves.issueFault (.tst 9 .e2m1 6 8 10 1 .nf true 0) = none ∧
    mayStoreRows 1 (moves.storeUnits true (withMask (moves.mask 1) (everyRow .e2m1 0 (moves.address 6 (0 : BitVec 32)) (moves.g 8))))
      (moves.storeUnits true (withMask (moves.mask 1) (everyScale .e2m1 (moves.g 10)))) 2 = true := by
  decide +kernel

/-- The checks of a TSTT at every row of memory, and the parts that it writes. -/
def mayStoreColumns (m : MReg) : Bool :=
  let a := moves.address 6 (0 : BitVec 32)
  let checks := tsttChecks a (moves.g 8) .fp32 (columnUnits a (moves.g 8) .fp32 (moves.mask m))
  okWith (fun xs => !(((checks.zip xs).filter (fun p => p.1.1)).map (fun p => p.2)).any (moves.learnAll xs).sweepIn &&
    xs.length == checks.length) (moves.storeUnits true checks)

theorem meets_TileStores_elements :
    ∀ m ∈ [(1 : MReg), 2], moves.issueFault (.tstt 9 .fp32 6 8 m true 0) = none ∧ mayStoreColumns m = true ∧
      moves.issueFault (.ast 3 6 m 1 true 0) = none ∧ accRange (moves.address 6 (0 : BitVec 32)) = none ∧
      mayStore (fun _ => true) (moves.units true .write
        ((accUnits (moves.address 6 (0 : BitVec 32)) (moves.mask m) (moves.mask 1)).map (·.2.2))) = true := by
  decide +kernel

/-! Vector, conversion and matrix forms: each form of a list at one type that it takes, and the shared forms at .fp32, .bf16
and .i8. -/

/-- A term is an instruction, and may issue. -/
def issues (i : Instr) : Bool := i.violation.isNone && (bench.issueFault i).isNone

theorem issues_iff {i : Instr} (h : issues i = true) : WellFormed i ∧ bench.issueFault i = none := by
  simpa [issues, WellFormed] using h

theorem meets_RoundedVectors :
    (∀ p ∈ roundedForms, ∀ ty ∈ [Ty.fp32, .bf16, .fp16],
      issues (p.1 0 1 2 ty 7 .rdn true) = true ∧ issues (p.2.1 0 1 31 ty 0 .rup false) = true) ∧
    (∀ p ∈ roundedForms, issues (p.1 0 1 2 .i8 7 .rne true) = true ∧ issues (p.2.1 0 1 31 .i8 0 .rne false) = true) ∧
    issues (.tfma 0 1 2 3 .fp32 0 .rtz true) = true ∧ issues (.tfma 0 1 2 3 .i8 0 .rne true) = true := by decide +kernel

theorem meets_PlainVectors :
    (∀ p ∈ plainForms, issues (p.1 0 1 2 .fp32 1) = true ∧ issues (p.1 0 1 2 .e4m3 7) = true) ∧
    (∀ p ∈ [(Instr.tmins, false), (Instr.tmaxs, true)], issues (p.1 0 1 31 .i8 0) = true ∧ issues (p.1 0 1 31 .bf16 0) = true) ∧
    issues (.tsel 0 1 2 3 .i8 7) = true := by decide +kernel

theorem meets_UnaryVectors :
    issues (.tabs 0 1 .i8 7 true) = true ∧ issues (.tabs 0 1 .fp32 7 false) = true ∧ issues (.tneg 0 1 .i8 7 false) = true ∧
    issues (.tneg 0 1 .e5m2 7 false) = true ∧ (∀ p ∈ approximations, issues (p.1 0 1 .fp32 0) = true) ∧
    issues (.tfill 0 31 .fp16 7) = true ∧ issues (.tscale 0 1 31 .bf16 7 .rup true) = true := by decide +kernel

theorem meets_Reductions :
    (∀ p ∈ extremeReductions, ∀ ty ∈ [Ty.fp32, .i8], issues (p.1 0 1 ty 7) = true ∧ issues (p.2.1 0 1 ty 0) = true) ∧
    issues (.trsum 0 1 .fp32 7 .rne) = true ∧ issues (.trsum 0 1 .bf16 7 .rdn) = true ∧
    issues (.tcsum 0 1 .fp32 7 .rne) = true ∧ issues (.tcsum 0 1 .fp16 7 .rdn) = true := by decide +kernel

/-- The last column of a row, the last row. -/
theorem meets_Shuffles :
    issues (.ttr 0 1 .bf16 7) = true ∧ issues (.tcolb 0 1 .fp32 63 7) = true ∧ issues (.trot 0 1 .i8 255 7) = true ∧
    issues (.tshuf 0 1 2 .fp32 63 7) = true ∧ issues (.trowb 0 1 .e2m1 63 7) = true := by decide +kernel

theorem meets_Conversions :
    issues (.tcvt 0 1 .e4m3 .fp32 3 7 .rne true) = true ∧ issues (.tcvt 0 1 .fp32 .e2m1 7 7 .rup false) = true ∧
    issues (.tcvt 0 1 .mxe4m3 .bf16 1 7 .rne false) = true ∧ issues (.tcvtChoose 0 1 .e2m1 .fp32 7 7 .rne false) = true ∧
    issues (.tcvtGiven 0 1 .e2m3 .fp16 2 7 .rtz true) = true := by decide +kernel

theorem meets_MatrixMultiply :
    issues (.tmma 0 1 2 .i8 .i8 1 7) = true ∧ issues (.tmma 7 15 15 .e3m2 .mxe4m3 0 0) = true ∧
    Fmt.fp32.value 0x3F80_0000 = .num false 1 ∧
    (1 : Rat) + ([((2 : Rat), (3 : Rat))].map (fun p => p.1 * p.2)).sum ≠ 0 := by decide +kernel

theorem meets_Accumulators :
    bench.issueFault (.azero 7 1 2) = none ∧ bench.issueFault (.amov 0 7 1 2) = none ∧ issues (.aaddAccumulator 0 7 .i32 1 2) = true ∧
    issues (.aaddAccumulator 0 7 .fp32 1 2) = true ∧ issues (.afrom 0 15 .bf16 1 1 2) = true ∧
    issues (.afrom 0 15 .i32 0 1 2) = true ∧ issues (.acvt 15 0 .e2m1 .rne true 7 1 0) = true ∧
    issues (.acvt 15 0 .i8 .rne false 3 1 2) = true := by decide +kernel

theorem meets_TileRegisters :
    bench.issueFault (.tzmask 0 15) = none ∧ bench.issueFault (.tmov 0 15) = none ∧ bench.issueFault (.tzero 15) = none := by decide +kernel

theorem meets_MaskRegisters :
    (∀ p ∈ [Instr.mand, .mor, .mxor], ∀ md ∈ [(0 : MReg), 7], bench.issueFault (p md 1 2) = none) ∧
    ∀ md ∈ [(0 : MReg), 7], bench.issueFault (.mnot md 1) = none ∧ bench.issueFault (.mset md 4) = none ∧ bench.issueFault (.mget 0 md) = none ∧
      bench.issueFault (.mpopc 31 md) = none := by decide +kernel

/-! Copies and batches. -/

/-- A descriptor of 4 rows of 64 bytes in g4 to g6, memory in g7, the store in g8. -/
def copier : State := ((((bench.setG 4 0x0001_0004_0000_0040).setG 5 0x400).setG 6 0x40).setG 7 0x8000).setG 8 0x100

/-- Both sides of a copy are found and may be read or written. -/
def mayCopy (s : State) (dsp ssp : Bool) (dst src : GReg) : Bool :=
  okWith (fun os => okWith (fun xs => os.all (fun o => ((s.learnAll (os ++ xs)).dataFault .early o).isNone))
      (s.units dsp .write (blockUnits (s.descriptor 4) (s.g dst) (s.descriptor 4)[(2 : Fin 3)])))
    (s.units ssp .early (blockUnits (s.descriptor 4) (s.g src) (s.descriptor 4)[(1 : Fin 3)]))

theorem meets_Copies :
    (∀ x ∈ [(false, (7 : GReg)), (true, 8)], ∀ y ∈ [(false, (7 : GReg)), (true, 8)],
      copier.issueFault (.copy x.2 y.2 4 x.1 y.1) = none ∧ copier.issueFault (.copyr x.2 y.2 4 true false x.1 y.1) = none ∧
      copier.issueFault (.copyr x.2 y.2 4 false true x.1 y.1) = none ∧
      copyMisaligned .bf16 (copier.g x.2) (copier.g y.2) (copier.descriptor 4) = none ∧
      copyMisaligned .fp32Lossy (copier.g x.2) (copier.g y.2) (copier.descriptor 4) = none ∧
      emptyBlock (copier.descriptor 4) = false ∧
      copier.here.copies.length + (copier.here.batches.map (·.failed.length)).sum < 64 ∧ mayCopy copier x.1 y.1 x.2 y.2 = true) ∧
    ((copier.setG 4 0).issueFault (.copy 7 8 4 false true) = none ∧ emptyBlock ((copier.setG 4 0).descriptor 4) = true ∧
      (copier.setG 4 0).issueFault (.copyr 7 8 4 true false false true) = none ∧
      copyMisaligned .bf16 ((copier.setG 4 0).g 7) ((copier.setG 4 0).g 8) ((copier.setG 4 0).descriptor 4) = none) ∧
    ((copier.setG 8 0x101).issueFault (.copyr 7 8 4 true false false true) = none ∧ ((copier.setG 8 0x101).g 8).toNat % 2 ≠ 0) ∧
    ∀ len ∈ [0, 64], ∀ s ∈ [two 0x8020 (BitVec.ofNat 64 len)], s.issueFault (.discard 4 5) = none ∧ (s.g 4).toNat % 32 = 0 ∧
      (s.g 5).toNat % 32 = 0 ∧
      fine (fun a => a.pieces.all (fun p => (s.attrAt p.pa).fcount == 0 && !(s.attrAt p.pa).sweep))
        (s.discardPages (pageParts (s.g 4).toNat (s.g 5).toNat ((s.g 5).toNat / 0x8000 + 2))) = true := by decide +kernel

/-- One copy in a sealed batch; failed batches that are sealed: one, and two of which the one with the higher number was
sealed later. -/
def sealed1 : State := next (.bseal 3) (next (.copy 7 8 4 false true) copier)
def failed1 : State := bench.setHere { bench.here with batches := [⟨some 0, plainFault .permRead 0x8020, []⟩], batchCtr := 1 }
def failed2 : State := bench.setHere { bench.here with batches := [⟨some 7, plainFault .peerAbsent 0x8020, []⟩, ⟨some 3, walkFault 0x8020 2 1, []⟩], batchCtr := 9 }

def drains (s : State) (wide : Bool) : Bool :=
  (s.drainStrand s.cur).drained s.cur && (!wide || (s.drainStrand s.cur).acknowledged s.cur)

theorem meets_Batches :
    bench.issueFault (.bseal 0) = none ∧ (sealed1.issueFault (.bwait 3 0) = none ∧ (0 : BitVec 16).toNat < sealed1.here.unfinished.length) ∧
    (sealed1.issueFault (.bwait 3 1) = none ∧ sealed1.here.unfinished.length ≤ (1 : BitVec 16).toNat ∧
      sealed1.here.failedBatches = []) ∧
    (∀ s ∈ [failed1, deleg failed1], s.issueFault (.bwait 3 0) = none ∧ s.here.unfinished.length ≤ (0 : BitVec 16).toNat ∧
      s.here.failedBatches = [⟨some 0, plainFault .permRead 0x8020, []⟩]) ∧
    (∀ s ∈ [failed2, deleg failed2], s.issueFault (.bwait 3 0) = none ∧ s.here.unfinished.length ≤ (0 : BitVec 16).toNat ∧
      s.here.failedBatches = [⟨some 7, plainFault .peerAbsent 0x8020, []⟩, ⟨some 3, walkFault 0x8020 2 1, []⟩] ∧
      (s.here.batchCtr - 7).toNat < (s.here.batchCtr - 3).toNat) ∧
    ((deleg failed2).me.sdeleg.getLsbD Cause.translation.code = true ∧ failed2.me.sdeleg.getLsbD Cause.translation.code = false ∧
      failed2.me.mode = .user ∧ drains failed2 true = true) := by decide +kernel

/-- A failed translation reports the address and the walk's LEVEL and REASON with its batch number; an absent peer reports
address 0 (R292, R319). -/
theorem test_batch_fault_address :
    after (.bwait 3 0) (failed2.setHere { failed2.here with batches := [⟨some 3, walkFault 0x8020 2 1, []⟩] })
        (fun t => t.me.sfaddr == 0x8020 && t.me.sfinfo == 0x344) = true ∧
      after (.bwait 3 0) (failed2.setHere { failed2.here with batches := [⟨some 3, plainFault .peerAbsent 0x8020, []⟩] })
        (fun t => t.me.sfaddr == 0 && t.me.sfinfo == 0x3FC) = true := by decide +kernel

/-! Fences and barriers: a cell at its last arrival and before it. -/

theorem drains_to {s : State} {w : Bool} (h : drains s w = true) : ∃ u, s.drainsTo u w := by
  refine ⟨s.drainStrand s.cur, rfl, ?_, ?_⟩
  · simp [drains] at h; exact h.1
  · simp [drains] at h; intro hw; simpa [hw] using h.2

/-- A store to the peer device that no acknowledgement has come for, once it is performed; and before that. -/
theorem meets_Fences :
    (∀ sc ∈ [Scope.core, .system], (stored bench).issueFault (.fence sc .r) = none ∧ (stored bench).issueFault (.fence sc .rw) = none ∧
      drains (stored bench) (wideScope sc) = true ∧ (stored bench).issueFault (.fence sc .w) = none ∧
      (wideScope sc && (stored bench).farWrites) = false) ∧
    (let s := (stored bench).setHere { (stored bench).here with
        writes := (stored bench).here.writes.map (fun w => { w with segs := [⟨.phys 0x80_0000_0000, [1]⟩] }) }
     s.issueFault (.fence .system .w) = none ∧ (wideScope .system && s.farWrites) = true ∧ drains s true = true) := by decide +kernel

/-- Cell 8 of peer 0 with EXPECT and ARRIVED, in phase 7; g4 names the cell, g5 is 3. -/
def celled (e a : BitVec 12) : State := ((bench.setG 4 8).setG 5 3).mapCore 0 (fun k => { k with cells := k.cells.set 8 ⟨e, a, 7⟩ })

def found (s : State) (foreign : Bool) (n : CellName) : Bool :=
  decide (cellName (s.g 4) foreign = some n) && decide (s.cellPlace s.resident.key n.cell = some (.core 0))

def cell8 : CellName := ⟨false, false, 0, 8⟩

/-- BARINIT after a store that its fence has put before it, and after one that a sweep holds back. -/
def fenced (sweep : Bool) : State :=
  let s := next (.fence .device .w) (stored (celled 2 0))
  { s with mem := { s.mem with frames := if sweep then [(2, { FrameAttr.zero with sweep := true })] else s.mem.frames } }

/-- The BARSYNC has arrived in a phase. -/
def arrivedIn (ph : BitVec 8) : State := (celled 2 1).setHere { (celled 2 1).here with barPhase := some ph }

theorem meets_BarrierCells :
    (∀ x ∈ [1, 4095], ∀ s ∈ [(celled 2 0).setG 5 (BitVec.ofNat 64 x)], s.issueFault (.barinit 4 5) = none ∧
      found s false cell8 = true ∧ 1 ≤ (s.g 5).toNat ∧ (s.g 5).toNat ≤ 4095 ∧ (s.cellAt (.core 0) 8).arrived = 0 ∧
      okWith (fun _ => true) (s.ready [] s.me.wfloor) = true) ∧
    ((fenced false).issueFault (.barinit 4 5) = none ∧ found (fenced false) false cell8 = true ∧
      okWith (fun u => u.here.writes.isEmpty) ((fenced false).ready [] (fenced false).me.wfloor) = true ∧
      waits ((fenced true).ready [] (fenced true).me.wfloor) = true) ∧
    (∀ s ∈ [celled 2 0, celled 2 1, celled 4095 4094], s.issueFault (.bararr 3 4 .system) = none ∧ found s true cell8 = true ∧
      cell8.pdev = false ∧ s.arrivalGang cell8 = some s.resident.key ∧ drains s true = true ∧
      ((s.drainStrand s.cur).cellAt (.core 0) 8).expect ≠ 0 ∧ (s.drainStrand s.cur).killPending s.resident.key = false) ∧
    (let s := { bench.setG 4 (2 ^ 32 + 2 ^ 7 + 8) with
        link := { bench.link with arrivals := [⟨5, placedTask.key, 0, false, 9, 0, 8, some (.phase 9)⟩] } }
     s.issueFault (.bararr 3 4 .device) = none ∧ (cellName (s.g 4) true).map (·.pdev) = some true ∧
      s.arrival.map (·.answer) = some (some (.phase 9))) := by decide +kernel

theorem meets_BarrierCells_waits :
    (∀ x ∈ [6, 7], ∀ s ∈ [(celled 2 1).setG 5 (BitVec.ofNat 64 x)], s.issueFault (.barwait 3 4 5 .core) = none ∧
      found s false cell8 = true ∧ s.here.barLost = false ∧
      decide ((s.cellAt (.core 0) 8).phase = (s.g 5).setWidth 8) = (x == 7)) ∧
    ((celled 2 1).issueFault (.barsync 3 4 .core) = none ∧ found (celled 2 1) false cell8 = true ∧
      (celled 2 1).here.barPhase = none ∧ drains (celled 2 1) (wideScope .core) = true ∧
      (quiescent (celled 2 1)).killPending (celled 2 1).resident.key = false ∧ (quiescent (celled 2 1)).here.barLost = false ∧
      ((quiescent (celled 2 1)).cellAt (.core 0) 8).arrived + 1 = ((quiescent (celled 2 1)).cellAt (.core 0) 8).expect) ∧
    ((celled 2 0).issueFault (.barsync 3 4 .core) = none ∧ found (celled 2 0) false cell8 = true ∧
      (celled 2 0).here.barPhase = none ∧ drains (celled 2 0) (wideScope .core) = true ∧
      ((quiescent (celled 2 0)).cellAt (.core 0) 8).expect ≠ 0 ∧
      (quiescent (celled 2 0)).killPending (celled 2 0).resident.key = false ∧ (quiescent (celled 2 0)).here.barLost = false ∧
      ((quiescent (celled 2 0)).cellAt (.core 0) 8).arrived + 1 ≠ ((quiescent (celled 2 0)).cellAt (.core 0) 8).expect) ∧
    (∀ ph ∈ [(6 : BitVec 8), 7], ∀ s ∈ [arrivedIn ph], s.issueFault (.barsync 3 4 .core) = none ∧ found s false cell8 = true ∧ s.here.barPhase = some ph ∧
      (s.cellAt (.core 0) 8).expect ≠ 0 ∧ s.here.barLost = false ∧ decide ((s.cellAt (.core 0) 8).phase = ph) = (ph == 7)) := by
  decide +kernel

theorem meets_BarrierMisuse :
    (∀ i ∈ [Instr.barinit 4 5, .bararr 3 4 .core, .barwait 3 4 5 .core, .barsync 3 4 .core],
      ((celled 2 0).setG 4 96).issueFault i = none ∧ 95 < (((celled 2 0).setG 4 96).g 4).toNat % 128) ∧
    (∀ i ∈ [Instr.bararr 3 4 .core, .barsync 3 4 .core, .barwait 3 4 5 .core], (celled 0 0).issueFault i = none) ∧
    (found (celled 0 0) true cell8 = true ∧ (celled 0 0).arrivalGang cell8 = some (celled 0 0).resident.key ∧
      (celled 0 0).here.barPhase = none ∧ drains (celled 0 0) false = true ∧
      (((celled 0 0).drainStrand (celled 0 0).cur).cellAt (.core 0) 8).expect = 0 ∧
      ((celled 0 0).cellAt (.core 0) 8).expect = 0 ∧ found (celled 0 0) false cell8 = true) ∧
    (∀ ph ∈ [none, some 7], ∀ s ∈ [(celled 2 1).setHere { (celled 2 1).here with barPhase := ph, barLost := true }],
      s.issueFault (.barwait 3 4 5 .core) = none ∧ s.issueFault (.barsync 3 4 .core) = none ∧ found s false cell8 = true ∧
        s.here.barLost = true) ∧
    ((celled 2 0).issueFault (.barinit 4 0) = none ∧ (celled 2 0).g 0 = 0) ∧
    ((celled 2 1).issueFault (.barinit 4 5) = none ∧ found (celled 2 1) false cell8 = true ∧
      ((celled 2 1).cellAt (.core 0) 8).arrived ≠ 0) ∧
    (⟨4095, 4092, 0⟩ : BarCell).arrived.toNat + 2 < (⟨4095, 4092, 0⟩ : BarCell).expect.toNat := by decide +kernel

/-! Freezing. -/

/-- Two pages, and none. -/
def region (len : Nat) : State := two 0x8000 (BitVec.ofNat 64 len)

def regionFine (s : State) (ok : Nat → Bool) : Bool :=
  fine (fun x => x.1.all (fun p => !(s.frame p.frame).sweep) &&
    drains (s.setHere (x.2.foldl (fun k f => k.learn false f) s.here)) true &&
    x.1.all (fun p => ok ((((s.setHere (x.2.foldl (fun k f => k.learn false f) s.here)).drainStrand s.cur).frame p.frame).fcount)))
    (s.regionPages (s.g 4) 0 ((s.g 5).toNat / 0x8000))

/-- A freeze that every core has acknowledged. -/
def acked : State :=
  let op : FreezeOp := ⟨4, some ⟨0, false⟩, 0, none, [2], [], [], false⟩
  { bench with frz := { bench.frz with ops := [op] } }

/-- A freeze that some cores have to acknowledge. -/
def acking (cs : List CoreId) (peer : Bool) : State :=
  let op : FreezeOp := ⟨4, some ⟨0, false⟩, 0, none, [2], [], cs, peer⟩
  { bench with frz := { bench.frz with ops := [op] } }

/-- Frames 2 and 4 with a count and die 0 in FDOM. -/
def counted (n : Nat) (s : State) : State :=
  { s with mem := { s.mem with frames :=
      [(2, { FrameAttr.zero with fcount := n, die0 := true }), (4, { FrameAttr.zero with fcount := n, die0 := true })] } }

/-- Frame 2 with a count, and a share of the peer device. -/
def spannedFrames (n : Nat) (s : State) : State :=
  { s with mem := { s.mem with frames := [(2, { FrameAttr.zero with fcount := n, peer := true })] } }

/-- A task of a spanned context; the link is up, and the peer device has to acknowledge frames that stayed frozen, or not. -/
def spanned (owing : Bool) (s : State) : State :=
  let s := s.setHere { s.here with task := s.here.task.map (fun r => { r with spanned := true }) }
  { s with
    link := { s.link with state := .up, refreeze := if owing then [9] else [] }
    frz := { s.frz with ops := if owing then [⟨9, none, 0, none, [3], [], [], true⟩] else [] } }

theorem meets_FreezeCounts :
    (∀ len ∈ [0, 0x10000], ∀ s ∈ [region len, counted 14 (region len), spanned false (region len)],
      s.issueFault (.freeze 3 4 5 .device) = none ∧ s.freezeOp = none ∧ (s.g 4).toNat % 0x8000 = 0 ∧ (s.g 5).toNat % 0x8000 = 0 ∧
      (s.resident.spanned = true → s.link.state = .up → s.linkCarries = true) ∧ regionFine s (fun n => decide (n < 15)) = true) ∧
    ((spanned true (region 0x10000)).issueFault (.freeze 3 4 5 .device) = none ∧ (spanned true (region 0x10000)).freezeOp = none ∧
      regionFine (spanned true (region 0x10000)) (fun _ => true) = true ∧ (spanned true (region 0x10000)).resident.spanned = true ∧
      (spanned true (region 0x10000)).link.state = .up ∧ (spanned true (region 0x10000)).linkCarries = false) ∧
    (∀ x ∈ [(([] : List CoreId), false), ([3], false), ([], true)], (acking x.1 x.2).issueFault (.freeze 3 4 5 .device) = none ∧
      ((acking x.1 x.2).freezeOp.map (fun o => (o.toAck, o.peerWait))) = some x) := by
  decide +kernel

/-- A sweep with SEQ 3, a THAWWAIT that was first performed when the next SEQ was 3 or 5, or is performed now. -/
def swept3 (bound : Option (BitVec 48)) : State :=
  { (bench.setG 4 3).setHere { bench.here with thawBound := bound, main := (bench.setG 4 3).here.main } with
    frz := { bench.frz with sweeps := [⟨3, 2, [], [.slice 1]⟩], seq := 5 } }

theorem meets_ThawAndPublish :
    (∀ n ∈ [1, 15], ∀ s ∈ [counted n (region 0x10000), spannedFrames n (spanned false (region 0x8000))],
      s.issueFault (.thaw 3 4 5) = none ∧ (s.g 4).toNat % 0x8000 = 0 ∧
      (s.g 5).toNat % 0x8000 = 0 ∧ regionFine s (fun n => decide (0 < n)) = true ∧ (quiescent s).linkCarries = true) ∧
    ((counted 1 (region 0x10000)).swept 2 (.slice 31) ∧ (counted 1 (region 0x10000)).swept 2 (.core 127) ∧
      ¬(counted 1 (region 0x10000)).swept 2 (.slice 32)) ∧
    (bench.issueFault (.thawwait 4) = none ∧ bench.frz.sweeps = []) ∧
    ((swept3 (some 3)).issueFault (.thawwait 4) = none ∧ ((swept3 (some 3)).here.thawBound.getD (swept3 (some 3)).frz.seq).toNat ≤ 3) ∧
    (∀ s ∈ [swept3 none, swept3 (some 5)], s.issueFault (.thawwait 4) = none ∧
      ∃ w ∈ s.frz.sweeps, w.seq.toNat ≤ (s.g 4).toNat % 2 ^ 48 ∧ w.seq.toNat < (s.here.thawBound.getD s.frz.seq).toNat) ∧
    (∀ len ∈ [0, 64], ∀ s ∈ [two 0x1_0000 (BitVec.ofNat 64 len)], s.issueFault (.publish 4 5 .device) = none ∧
      (len ≠ 0 → fine (fun a =>
        let u := ((s.drainStrand ⟨s.cur.core, false⟩).drainStrand ⟨s.cur.core, true⟩).learnFrom
          { va := s.g 4, space := .virt, lo := (s.g 4).toNat, len := (s.g 5).toNat, loc := .mem a }
        !u.here.writesTo (a.pieces.flatMap (fun p => blocksOf p.pa p.len 128)) && u.acknowledged s.cur &&
          !u.sentLines s.cur.core (a.pieces.flatMap (fun p => blocksOf p.pa p.len 128)))
          (s.publishRange (s.g 4) (s.g 5)) = true)) := by
  unfold State.swept
  decide +kernel

/-! Errands and ends of tasks. -/

/-- g5 the entry, g6 peer 1 of the own gang. -/
def caller : State := two 0x40 0x40 |>.setG 6 (2 ^ 62 + 2 ^ 30)

theorem meets_ErrandForms :
    (caller.issueFault (.callat 5 6 15) = none ∧ (caller.here.slots[(15 : Fin 16)]).status ≠ .pending ∧
      fine (fun _ => true) (resolveLocal caller.resident (caller.gangCount caller.resident) (caller.g 6) 1 false) = true ∧
      drains caller false = true) ∧
    (∀ b ∈ [false, true],
      (err bench).issueFault (.reply 4) = none ∧ drains (err bench) false = true ∧
      (((err bench).setHere { (err bench).here with run := some ⟨⟨⟨0, 0⟩, 1, 0⟩, b, 3, false⟩ }).drainStrand ⟨0, true⟩).here.run.map
        (·.replied) = some b) ∧
    (∀ st ∈ [SlotStatus.value, .empty, .pending], ∀ s ∈ [bench.setHere { bench.here with slots := bench.here.slots.set 15 ⟨st, 77⟩ }],
      ∀ gd ∈ [(0 : GReg), 3], (Instr.waitrp gd 4 15).violation = none ∧ s.issueFault (.waitrp gd 4 15) = none ∧
        (s.here.slots[(15 : Fin 16)]).status = st) := by decide +kernel

/-- The gang of bench with its peer 1 on a core: that task has ended, or not; the task on core 0 has a store to perform. -/
def pair (ended : Bool) : State :=
  launched 0 ((stored { bench with sched := { bench.sched with gangs := [{ gang with peers := [.core 0, .core 1] }] } }).mapCore 1
    (fun k => { k with task := some { placedTask with peer := 1, ended := ended } }))

/-- EXIT may retire, and what it leaves. -/
def exits (s : State) : Bool :=
  (s.issueFault .exit).isNone && drains s true && (quiescent s).here.copies.isEmpty && (quiescent s).here.batches.isEmpty
    && (quiescent s).here.deferred.isEmpty && (List.finRange 16).all (fun n => (quiescent s).here.slots[n].status != .pending)

def exitGang : Gang := { gang with peers := [.core 0, .core 1] }

/-- The places of exitGang but some have no errand. -/
def noErrand (s : State) (but : Option CoreId) : Bool :=
  exitGang.cores.all (fun c => some c == but || ((s.core c).run.isNone && (s.core c).mbox.isEmpty))

/-- Every task of that gang has ended; the last errand is in progress on core 0. -/
def lastErrand : State := err ((pair true).setHere { (pair true).here with task := some { placedTask with ended := true } })

theorem over_core {s : State} {g : Gang} {p : Nat} {c : CoreId} (h : g.peers[p]? = some (.core c)) :
    s.over g p ↔ p ∈ g.dead ∨ s.taskEnded (.core c) = true := by
  simp [State.over, h]

/-- An errand in progress on core 1, or on core 0 with others queued. -/
def errandOn1 : State := (pair true).mapCore 1 (fun k => { k with run := some ⟨⟨⟨0, 0⟩, 1, 0⟩, false, 3, false⟩ })
def errandOn0 (ms : List ErrandMsg) : State := err (bench.mapCore 0 (fun k => { k with mbox := ms }))

theorem meets_TaskEnds :
    (∀ b ∈ [false, true], exits (pair b) = true ∧ (quiescent (pair b)).gang (quiescent (pair b)).resident.key = some exitGang ∧
      exitGang.state = .running ∧ exitGang.moving = none ∧ (quiescent (pair b)).exited.taskEnded (.core 0) = true ∧
      (quiescent (pair b)).exited.taskEnded (.core 1) = b ∧
      noErrand (quiescent (pair b)).exited none = true ∧
      (quiescent (pair b)).launch exitGang.key.launch = some launch0) ∧
    (exits errandOn1 = true ∧ noErrand (quiescent errandOn1).exited none = false) ∧
    (∀ s ∈ [lastErrand], s.issueFault .edone = none ∧ drains s true = true ∧ (quiescent s).here.run.isSome = true ∧
      (quiescent s).here.mbox = [] ∧ (quiescent s).owesFault 0 = false ∧
      (quiescent s).gang (quiescent s).resident.key = some exitGang ∧ (quiescent s).taskEnded (.core 0) = true ∧
      (quiescent s).taskEnded (.core 1) = true ∧ noErrand (quiescent s) (some 0) = true ∧
      (quiescent s).launch exitGang.key.launch = some launch0) := by decide +kernel

/-- EDONE of the last errand frees the cores of a gang that has retired (R29). -/
theorem test_last_errand_frees : after .edone lastErrand (fun t => t.sched.gangs.isEmpty && (t.core 1).task.isNone) = true := by
  decide +kernel

theorem meets_TaskEnds_errand :
    (∀ ms ∈ [([] : List ErrandMsg), [⟨⟨placedTask.key, 1, 3⟩, 0x40, #v[1, 2, 3, 4]⟩]],
      ∀ s ∈ [errandOn0 ms], s.issueFault .edone = none ∧ drains s true = true ∧ (quiescent s).here.run.isSome = true ∧ (quiescent s).owesFault 0 = false ∧
        (quiescent s).here.mbox = ms ∧ (quiescent s).here.held = false ∧ (quiescent s).here.loading = false ∧
        (quiescent s).gang (quiescent s).resident.key = some gang ∧ gang.peers[0]? = some (.core 0) ∧ 0 ∉ gang.dead ∧
        (quiescent s).taskEnded (.core 0) = false) := by decide +kernel

/-! Control registers: every number that a clause names, in the modes that may use it. -/

theorem meets_ReadControl :
    (∀ s ∈ [bench, err bench, sup bench], ∀ x ∈ s.userRegs s.resident, s.issueFault (.mfcr 3 (BitVec.ofNat 12 x.1)) = none ∧
      (BitVec.ofNat 12 x.1).toNat = x.1) ∧
    (∀ n ∈ [0x100, 0x108, 0x140, 0x146, 0x181, 0x18F] ++ ((sup bench).placeRegs (sup bench).resident).map (·.1),
      (sup bench).issueFault (.mfcr 3 (BitVec.ofNat 12 n)) = none ∧ (BitVec.ofNat 12 n).toNat = n) ∧
    (bench.me.mode = .user ∧ bench.issueFault (.mfcr 3 0x100) = none ∧ 0x100 ≤ (0x100 : BitVec 12).toNat) ∧
    (bench.issueFault (.mfcr 3 0x0FF) = none ∧ (0x0FF : BitVec 12).toNat < 0x100 ∧
      (0x0FF : BitVec 12).toNat ∉ (bench.userRegs bench.resident).map (·.1)) ∧
    (∀ n ∈ [(0x0FF : BitVec 12), 0x109, 0x180, 0xFFF], (sup bench).issueFault (.mfcr 3 n) = none ∧ n.toNat ∉ assignedNumbers) := by
  decide +kernel

/-- A core has not passed the generation before the next one's wrap. -/
def laggard : State := { (sup bench).setG 4 0x8000 with cg := 0x7FFF }

theorem meets_WriteControl_faults :
    (∀ n ∈ [(0x100 : BitVec 12), 0x109, 0xFFF], bench.issueFault (.mtcr n 4) = none ∧ bench.me.mode = .user ∧ 0x100 ≤ n.toNat) ∧
    (bench.issueFault (.mtcr 0x0FF 4) = none ∧ (0x0FF : BitVec 12).toNat < 0x100) ∧
    ∀ n ∈ [(0x0FF : BitVec 12), 0x109, 0x180, 0xFFF], (sup bench).issueFault (.mtcr n 4) = none ∧
      (sup bench).me.mode = .supervisor ∧ n.toNat ∉ assignedNumbers := by decide +kernel

theorem meets_WriteControl :
    (∀ s ∈ [bench, sup bench], ∀ n ∈ [0x001, 0x002, 0x010, 0x011, 0x012, 0x013, 0x020, 0x021, 0x030, 0x031, 0x032, 0x040, 0x041],
      s.issueFault (.mtcr (BitVec.ofNat 12 n) 4) = none ∧ (s.readCr n).isSome = true ∧ n < 0x100) ∧
    (∀ n ∈ [0x100, 0x101, 0x102, 0x103, 0x104, 0x105, 0x106, 0x107, 0x108, 0x110, 0x111, 0x112, 0x113, 0x120, 0x121, 0x140, 0x146,
        0x181, 0x18F],
      (sup bench).issueFault (.mtcr (BitVec.ofNat 12 n) 4) = none ∧ ((sup bench).readCr n).isSome = true ∧
      (sup bench).me.mode = .supervisor) ∧
    ((err bench).issueFault (.mtcr 0x031 4) = none ∧ ((err bench).readCr 0x031).isSome = true ∧ (err bench).cur.errand = true) ∧
    (((sup bench).setG 4 5).issueFault (.mtcr 0x120 4) = none ∧ ((5 : Word)).setWidth 16 ≠ (sup bench).cg + 1) ∧
    ((((sup bench).setG 4 1).g 4).setWidth 16 = ((sup bench).setG 4 1).cg + 1 ∧
      ((sup bench).setG 4 1).lagging (((sup bench).setG 4 1).cg + 1) = false) ∧
    (laggard.issueFault (.mtcr 0x120 4) = none ∧ (laggard.readCr 0x120).isSome = true ∧ (laggard.g 4).setWidth 16 = laggard.cg + 1 ∧
      laggard.lagging (laggard.cg + 1) = true) := by decide +kernel

/-! Privileged forms. -/

/-- Supervisor mode with a store still to be performed; device frames given to partition 0. -/
def priv (x y : Word) : State :=
  let s := ((sup (stored bench)).setG 4 x).setG 5 y
  { s with conf := { s.conf with frames := [(0, 0, 0xFFFFF)] } }

def settles (s : State) (ctx : Word) : Bool :=
  let u := (s.drainStrand s.cur).drainContext ctx.toNat
  drains s true && decide (ctx.toNat ≤ 4095) && allCores.all (fun c => !(u.core c).usesContext ctx.toNat) &&
    u.link.unacked.all (fun x => x.core.all (fun c => (u.core c).task.map (·.ctx.toNat) != some ctx.toNat))

/-- Frames 3 to 5 may be set. -/
def framesFree (v : State) : Bool :=
  [0, 1, 2].all (fun j => v.ownFrame (3 + j) && (v.frame (3 + j)).fcount == 0 && !(v.frame (3 + j)).sweep) &&
    (v.drainFrames [3, 4, 5]).2

theorem meets_TranslationForms :
    (∀ ctx ∈ [4095], ∀ s ∈ [priv 0x8000 (BitVec.ofNat 64 ctx)], s.issueFault (.tlbinv 4 5 1) = none ∧ s.issueFault (.tlbinvc 5) = none ∧
      s.issueFault (.wcinv 4 5 0x1_FFFF) = none ∧ (quiescent s).g 5 = BitVec.ofNat 64 ctx ∧ settles s ((quiescent s).g 5) = true) ∧
    ((priv 0x1_8000 1).issueFault (.frameset 4 5 3) = none ∧ drains (priv 0x1_8000 1) true = true ∧
      (quiescent (priv 0x1_8000 1)).g 4 = 0x1_8000 ∧ framesFree (quiescent (priv 0x1_8000 1)) = true) := by decide +kernel

/-- An area of the version that the machine knows. -/
def areaState : State :=
  let s := priv 0x4_0000 0
  { s with mem := { s.mem with cells := s.mem.cells.write 0x4_0000 (natLe 8 0x0007_0001) } }

/-- Core 1 holds peer 1 of the gang; g4 names a core. -/
def halting (c : Nat) (held : Bool) : State :=
  (priv (BitVec.ofNat 64 c) 3).mapCore (peerCore [0] 1) (fun k => { k with task := some { placedTask with peer := 1 }, held := held })

/-- Queue 0 has a record pending, and g4 names a queue. -/
def policied (q : Nat) : State :=
  let s := priv (BitVec.ofNat 64 q) 3
  s.setQueue 0 { s.queueAt 0 with enable := true, tailSeen := 1, tailRead := true }

/-- Every target grants master ⟨0, 1⟩ its frames below 0x1_0000. -/
theorem grants_at : ∀ n < 72, assocGet grants (n, 0) = some (0x8800_7000_0000_0000, 0xFFFF) := by decide +kernel

theorem entry_matches {m : Master} {f : Nat} (hm : m = ⟨0, 1⟩) (hf : f ≤ 0xFFFF) :
    entryMatches m f 0x8800_7000_0000_0000 0xFFFF = true := by
  subst hm
  have h1 : bitsOf (0x8800_7000_0000_0000 : Word) 36 0 = 0 := by decide
  have h2 : bitsOf (0xFFFF : Word) 36 0 = 0xFFFF := by decide
  unfold entryMatches
  rw [h1, h2]
  exact decide_eq_true ⟨by decide, by decide, by decide, Nat.zero_le f, hf⟩

theorem grantedAt_of {s : State} {m : Master} {n pa : Nat} {r : Right} (hm : m = ⟨0, 1⟩) (hc : s.conf.access = grants)
    (hn : n < 72) (hp : pa < 0x8000_0000) : s.grantedAt n m pa r = true := by
  have hf : frameOf pa ≤ 0xFFFF := by unfold frameOf; omega
  unfold State.grantedAt
  rw [hc, grantedFrom, grants_at n hn]
  simp only [entry_matches hm hf, if_true]
  cases r <;> decide

theorem xor_lt {a b k : Nat} (ha : a < 2 ^ k) (hb : b < 2 ^ k) : Nat.xor a b < 2 ^ k := Nat.xor_lt_two_pow ha hb

theorem granted_of {s : State} {m : Master} {pa : Nat} {r : Right} (hm : m = ⟨0, 1⟩) (hc : s.conf.access = grants)
    (hp : pa < 0x8000_0000) : s.granted m pa r = true := by
  have ht : memType pa = .device := by unfold memType; split <;> first | rfl | omega
  have h1 : homeSlice pa < 72 := by
    have := xor_lt (k := 5) (show pa / 2 ^ 7 % 32 < 2 ^ 5 by omega) (show pa / 2 ^ 20 % 32 < 2 ^ 5 by omega)
    unfold homeSlice
    omega
  have h2 : controllerOf pa < 72 := by
    have := xor_lt (k := 2) (show pa / 2 ^ 10 % 4 < 2 ^ 2 by omega) (show pa / 2 ^ 18 % 4 < 2 ^ 2 by omega)
    unfold controllerOf homeStack
    omega
  simp [State.granted, targetOf, State.passedBehind, ht, grantedAt_of hm hc h1 hp, grantedAt_of hm hc h2 hp]

/-- The access tables let that master save and restore an area. -/
theorem areaDenied_none {s : State} {m : Master} {pa n : Nat} {r : Right} (hm : m = ⟨0, 1⟩) (hc : s.conf.access = grants)
    (hp : pa + n ≤ 0x7FFF_0000) : s.areaDenied m pa n r = none := by
  simp only [State.areaDenied, State.deniedLine, Option.map_eq_none_iff, List.find?_eq_none, List.mem_map]
  rintro a ⟨l, hl, rfl⟩
  have hb : l * 128 < pa + n := by
    simp only [blocksOf] at hl
    split at hl
    · cases hl
    · simp only [List.mem_map, List.mem_range] at hl
      omega
  simp [granted_of hm hc (show max pa (l * 128) < 0x8000_0000 by omega)]

/-- Nothing stands in the way of CSAVE of the area that g4 names but, it may be, an access table. -/
def savable (s : State) : Bool :=
  let v := quiescent s
  let u := v.drainStrand ⟨s.cur.core, true⟩
  (v.areaFault .permWrite (v.g 4)).isNone &&
    (findFrame (fun f => decide (0 < (v.frame f).fcount)) (frameOf (v.g 4).toNat) areaFrames).isNone &&
    v.here.err.mode == .user && u.drained ⟨s.cur.core, true⟩ && u.settled s.cur.core &&
    (findFrame (fun f => (u.frame f).sweep) (frameOf (v.g 4).toNat) areaFrames).isNone && v.here.bad.isEmpty

def loadable (s : State) (id : Word) : Bool :=
  let v := quiescent s
  (v.areaFault .permRead (v.g 4)).isNone && (v.badLine (v.g 4).toNat 8).isNone && (v.badLine (v.g 4).toNat areaSize).isNone &&
    v.mem.cells.dword (v.g 4).toNat == id && v.here.err.mode == .user && (v.drainStrand ⟨s.cur.core, true⟩).settled s.cur.core

/-- A HALT has waited for peer 1, whose task has gone. -/
def haltedFor (held : Bool) : State :=
  let s := (halting (peerCore [0] 1).val held).mapCore (peerCore [0] 1) (fun k => { k with task := none, halting := true })
  s.setMe { s.me with wait := some .otherStrand }

theorem meets_SupervisorForms_halt : ∀ h ∈ [false, true], ∀ s ∈ [haltedFor h], s.issueFault (.halt 3 4) = none ∧
    drains s true = true ∧ (quiescent s).haltTarget ((quiescent s).g 4) = none ∧ s.me.wait = some .otherStrand ∧
      ((quiescent s).g 4).toNat = (peerCore [0] 1).val ∧ ((quiescent s).core (peerCore [0] 1)).held = h := by decide +kernel

/-- A HALT whose target has gone answers 2 and lets the core run on (R303). -/
theorem test_halt_lets_go : after (.halt 3 4) (haltedFor false) (fun t =>
    t.g 3 == 2 && !(t.core (peerCore [0] 1)).halting) = true := by decide +kernel

theorem meets_SupervisorForms :
    ((priv 0x4_0000 0).issueFault (.csave 3 4) = none ∧ drains (priv 0x4_0000 0) true = true ∧ savable (priv 0x4_0000 0) = true) ∧
    ((priv 0x4_0000 0).issueFault (.cload 3 4) = none ∧ loadable (priv 0x4_0000 0) 0 = true) ∧
    (areaState.issueFault (.cload 3 4) = none ∧ drains areaState true = true ∧ loadable areaState 0x0007_0001 = true) ∧
    bench.here.main.ret.length ≤ 32 ∧
    (∀ d ∈ [1, 16], (priv (BitVec.ofNat 64 d) 0).issueFault (.mboxset 3 4) = none ∧
      ((quiescent (priv (BitVec.ofNat 64 d) 0)).g 4).toNat = d) ∧
    (∀ q ∈ [0, 31], ∀ s ∈ [policied q], s.issueFault (.polset 3 4 5) = none ∧ (quiescent s).partitionOf 0 = some 0 ∧
      ((quiescent s).g 4).toNat = (Fin.ofNat 32 q).val ∧
      ((quiescent s).queueAt (Fin.ofNat 32 q)).part.toNat = (0 : Fin 8).val ∧
      (quiescent s).queueBusy (Fin.ofNat 32 q) = (q == 0)) ∧
    (∀ h ∈ [false, true],
      ((halting 0 h).issueFault (.halt 3 4) = none ∧ (halting 0 h).issueFault (.resume 3 4) = none ∧ drains (halting 0 h) true = true ∧
        (quiescent (halting 0 h)).haltTarget ((quiescent (halting 0 h)).g 4) = none) ∧
      (let v := quiescent (halting (peerCore [0] 1).val h)
       v.haltTarget (v.g 4) = some (peerCore [0] 1) ∧ (v.core (peerCore [0] 1)).held = h ∧
        (h = false → ((v.drainStrand ⟨peerCore [0] 1, false⟩).drainStrand ⟨peerCore [0] 1, true⟩).quiet (peerCore [0] 1) = true))) :=
  by decide +kernel

/-- What one side of a part is: found in memory, found in a store, failed, or it must wait. -/
def foundMem : Option (Except FaultInfo Operand) → Bool
  | some (.ok ⟨_, _, _, _, _, .mem _⟩) => true
  | _ => false

def foundStore : Option (Except FaultInfo Operand) → Bool
  | some (.ok ⟨_, _, _, _, _, .store _ _⟩) => true
  | _ => false

def failedSide : Option (Except FaultInfo Operand) → Bool
  | some (.error f) => f.denied.isNone
  | _ => false

/-- A piece of one part, from memory to a store: nothing is shared, and no table is asked. -/
theorem piece_of {s : State} {c : CoreId} {x : CopyOp} {p : Word × Word × Nat} (m : Master) (hp : pieceParts x x.pieces = [p])
    (h1 : foundMem (s.copySide c x.ssp .lateRead p.1 p.2.2) = true)
    (h2 : foundStore (s.copySide c x.dsp (if x.form = .copy then .lateWrite else .lateBoth) p.2.1 p.2.2) = true) :
    ∃ ps, s.pieceSides c x ps ∧ ps ≠ [] ∧ (∀ p ∈ ps, p.2.simple ∧ s.copyGrants m x.form p.2) ∧
      (∀ p ∈ ps, ∀ q ∈ ps, ¬p.2.shares q.1) ∧ ps.Pairwise (fun p q => ¬p.2.shares q.2) := by
  unfold foundMem at h1
  unfold foundStore at h2
  split at h1
  · next a r b n k acc e1 =>
    split at h2
    · next a' r' b' n' k' d l e2 =>
      refine ⟨[(⟨a, r, b, n, k, .mem acc⟩, ⟨a', r', b', n', k', .store d l⟩)], ?_, by simp, ?_, ?_, ?_⟩
      · simp [State.pieceSides, hp, e1, e2]
      · simp [Operand.simple, Operand.pieces, State.copyGrants, Operand.coversByte]
      · simp [Operand.shares, Operand.coversByte, Operand.coversStore]
      · simp
    · cases h2
  · cases h1

/-- One row of 64 bytes from page 1 to the store at 0x100, as a copy and as reduce-writes. -/
def copying (i : Instr) : State := cold (next i (copier.setG 4 0x0001_0001_0000_0040))

def onlyCopy (s : State) : CopyOp := s.here.copies.headD
  { dst := 0, src := 0, dsc := #v[0, 0, 0], form := .copy, dsp := false, ssp := false, batch := none, pieces := 0, failed := false
    srange := (.phys, 0, 0), drange := (.phys, 0, 0), sphys := [], dphys := [], seq := 0, floor := 0, rfloor := 0 }

def onlyPart (s : State) : Word × Word × Nat := (pieceParts (onlyCopy s) 0).headD (0, 0, 0)

def srcSide (s : State) : Option (Except FaultInfo Operand) :=
  s.copySide 0 (onlyCopy s).ssp .lateRead (onlyPart s).1 (onlyPart s).2.2

def dstSide (s : State) : Option (Except FaultInfo Operand) :=
  s.copySide 0 (onlyCopy s).dsp (if (onlyCopy s).form = .copy then .lateWrite else .lateBoth) (onlyPart s).2.1
    (onlyPart s).2.2

def copyPending (s : State) : Bool :=
  s.here.copies == [onlyCopy s] && !s.here.halted && !s.here.copyHeld (onlyCopy s) && !(onlyCopy s).failed &&
    pieceParts (onlyCopy s) (onlyCopy s).pieces == [onlyPart s]

/-- Its source is mapped no more; its destination is at a peer that migrates. -/
def unmapped : State :=
  let s := copying (.copy 8 7 4 true false)
  { s with mem := { s.mem with cells := s.mem.cells.write 0x5008 (natLe 8 0) } }

def copyAway : State :=
  let s := copying (.copy 8 7 4 true false)
  { s.setHere { s.here with copies := s.here.copies.map (fun x => { x with dst := 2 ^ 62 + 2 ^ 30 }) } with
    sched := (awayPeer true).sched }

theorem meets_CoreAgents_copies :
    (∀ i ∈ [Instr.copy 8 7 4 true false, .copyr 8 7 4 false false true false, .copyr 8 7 4 true false true false],
      copyPending (copying i) = true ∧ foundMem (srcSide (copying i)) = true ∧ foundStore (dstSide (copying i)) = true) ∧
    (copyPending unmapped = true ∧ failedSide (srcSide unmapped) = true ∧ foundStore (dstSide unmapped) = true ∧
      unmapped.here.batches = []) ∧
    (copyPending copyAway = true ∧ (dstSide copyAway).isNone = true) := by decide +kernel

/-! Steps of a core's own agents. -/

def badFetch (s : State) (w : Who) : Bool :=
  match s.fetch w (s.strand w).pc with
  | .error _ => true
  | .ok _ => false

def late1 (ended : Bool) : State :=
  bench.setHere { bench.here with
    deferred := [plainFault .permWrite 5], task := bench.here.task.map (fun r => { r with ended := ended }) }

def spent (policy : BitVec 8) : State :=
  let s := launched policy bench
  s.setMe { s.me with lastFault := some (plainFault .permWrite 5), retries := 256 }

theorem meets_CoreAgents :
    (∀ e ∈ [(bench, false), (err bench, true)], e.1.runnable ⟨0, e.2⟩ = true ∧
      fine (fun _ => true) (e.1.fetch ⟨0, e.2⟩ (e.1.strand ⟨0, e.2⟩).pc) = true) ∧
    (let s := bench.setMe { bench.me with pc := 0x4000_0000 }
     s.runnable ⟨0, false⟩ = true ∧ badFetch s ⟨0, false⟩ = true) ∧
    ((bench.setMe { bench.me with wait := some .copies }).strand ⟨0, false⟩).wait = some .copies ∧
    (∀ off ∈ [0, 0xA_0000 - 17], (bench.core 0).task.isSome = true ∧ off + (List.replicate 17 (7 : Byte)).length ≤ 0xA_0000 ∧
      (bench.core 0).allEmpty off 17 = true ∧ ((granules true true).core 0).allFull 0x100 17 = true ∧
      ((granules true false).core 0).allEmpty 0x108 17 = false) ∧
    (0xA_0000 - 64) / 64 = (0xA_0000 - 64 + 64 - 1) / 64 ∧
    (∀ r ∈ [(⟨5, placedTask.key, 1, 0x200, none, none⟩ : GatherRow)], r.data = none ∧ bench.peerAt r.key r.owner = .core 1) ∧
    (∀ e ∈ [false, true], ((late1 e).core 0).deferred = plainFault .permWrite 5 :: [] ∧
      ((late1 e).core 0).task.map (·.ended) = some e ∧ ((late1 e).strand ⟨0, e⟩).mode = .user) ∧
    (∀ x ∈ [((2 : BitVec 8), some (0, 2)), (0x55, none)], ∀ s ∈ [spent x.1],
      (s.strand ⟨0, false⟩).lastFault = some (plainFault .permWrite 5) ∧ 256 ≤ (s.strand ⟨0, false⟩).retries ∧
      (s.core 0).task.map (fun r => (decidedBy r.policy false, s.launch r.key.launch)) = some (x.2, some launch0)) := by
  decide +kernel

def post : Post := ⟨⟨⟨placedTask.key, 1, 3⟩, 0x40, #v[1, 2, 3, 4]⟩, placedTask.key, 0⟩

theorem meets_ErrandEvents :
    (bench.gang post.key = some gang ∧ gang.state = .running ∧ bench.allEnded gang = false ∧
      bench.peerAt post.key post.peer = .core 0 ∧ (bench.core 0).task.isSome = true ∧
      (bench.core 0).mbox.length < min 16 bench.resident.depth ∧
      min 16 bench.resident.depth ≤ (List.replicate bench.resident.depth post.msg).length) ∧
    ((bench.gang ⟨9, 0⟩).isNone = true ∧ (bench.launch 9).isNone = true ∧
      (launched 0 bench).gang ⟨placedTask.key.launch, 1⟩ = none ∧ (launched 0 bench).launch placedTask.key.launch = some launch0 ∧
      launch0.placed ≤ 1 ∧ gang.peers.length ≤ 8 ∧
      (quiescent (pair true)).exited.allEnded exitGang = true ∧ (quiescent (pair true)).exited.gang exitGang.key = some exitGang) ∧
    bench.peerAt (⟨⟨placedTask.key, 0, 3⟩, .value, 55⟩ : Reply).caller.key 0 = .core 0 ∧
    (let s := (err bench).setHere { (err bench).here with run := some ⟨⟨placedTask.key, 1, 0⟩, false, 4096, false⟩ }
     s.runnable ⟨0, true⟩ = true ∧ (s.core 0).err.mode = .user ∧ 4096 ≤ (s.core 0).run.elim 0 (·.count) ∧
      s.atFend ⟨0, true⟩ = false) := by decide +kernel

/-- A freeze that cores 0 and 1 have to apply and to acknowledge. -/
def freezing (toApply : List CoreId) : FreezeOp := ⟨4, some ⟨0, false⟩, 0, none, [2], toApply, [0, 1], false⟩

/-- The link is up and expects sequence number 5. -/
def linked : State := { bench with link := { bench.link with state := .up, expect := 5 } }

theorem meets_SupervisorForms_areas :
    (∀ u ∈ [(quiescent (priv 0x4_0000 0)).drainStrand ⟨0, true⟩, quiescent (priv 0x4_0000 0), quiescent areaState],
      u.areaDenied u.resident.master 0x4_0000 areaSize .write = none ∧ u.areaDenied u.resident.master 0x4_0000 8 .read = none ∧
        u.areaDenied u.resident.master 0x4_0000 areaSize .read = none) := by
  intro u hu
  have h : u.resident.master = ⟨0, 1⟩ ∧ u.conf.access = grants := by
    revert u
    decide +kernel
  exact ⟨areaDenied_none h.1 h.2 (by decide), areaDenied_none h.1 h.2 (by decide), areaDenied_none h.1 h.2 (by decide)⟩

/-- A freeze event of the peer device that core 0 has applied and has still to acknowledge. -/
def foreignFreeze : FreezeOp := ⟨6, none, 0, some ⟨⟨⟨0, 1⟩, 7, 4, false⟩, 5⟩, [0x100_0000], [], [0], false⟩

theorem meets_FreezeEvents :
    (freezing [0, 1]).toApply.contains 0 = true ∧
    (freezing [1]).who = some ⟨0, false⟩ ∧
    { bench with frz := { bench.frz with ops := [freezing [1]] } }.mayAck 0 (freezing [1]) = true ∧
    (CacheId.core 0 ≠ .peer ∧ (⟨3, 2, [.core 0, .slice 1], [.core 0, .slice 1]⟩ : Sweep).toDrop.contains (.core 0) = true) ∧
    ((⟨3, 2, [], [.slice 1]⟩ : Sweep).toAck = [.slice 1] ∧ (⟨3, 2, [], [.slice 1]⟩ : Sweep).toDrop = []) ∧
    (linked.link.state = .up ∧ memType (0x100_0000 * 0x8000) = .peer ∧
      linked.mustKeep (incoming (.freeze ⟨⟨0, 1⟩, 7, 4, false⟩ 5 [0x100_0000])) = false ∧
      linked.mustKeep (incoming (.sweep ⟨⟨0, 1⟩, 7, 4, false⟩ 5 [0x100_0000, 0x100_0001])) = false) ∧
    ({ bench with frz := { bench.frz with ops := [foreignFreeze] } }.mayAck 0 foreignFreeze = true ∧ foreignFreeze.who = none ∧
      foreignFreeze.toAck = [0] ∧ foreignFreeze.peerWait = false ∧ bench.sched.outbox = []) ∧
    (sweepCache (.own (.slice 1)) = .slice 1 ∧ sweepCache (.peer ⟨⟨0, 1⟩, 7, 4, false⟩ 5) = .peer) := by decide +kernel

/-- Every core of the gang but core 0 has declared its halt. -/
def halted (g : Gang) : State :=
  ((g.cores.drop 1).foldl (fun (s : State) c => s.mapCore c (fun k => { k with
      halted := true, halting := true, task := some { placedTask with peer := c.val } }))
    { bench with sched := { bench.sched with gangs := [g] } }).mapCore 0 (fun k => { k with halting := true })

def haltingGang : Gang := { gang with state := .halting, save := 0x10_0000, peers := [.core 0, .core 1] }

/-- The gang in its save areas, those of tasks of context 1, placed again. -/
def savedGang : Gang :=
  { gang with state := .placed, save := 0x10_0000, quires := [2]
              peers := (List.range 2).map (fun p => Place.saved (0x10_0000 + p * 0x12_0000)) }

/-- Core 0 is hot, and core 8 is free and cold. -/
def warm : State :=
  { bench with
    sched := { bench.sched with launches := [launch0] }
    mgmt := { bench.mgmt with state := .running, thermal := bench.mgmt.thermal.set 0 1600 }
    conf := { bench.conf with relief := 50, quires := bench.conf.quires.set 0 3 } }

/-- A state without anything that holds a kill up; one whose task is in supervisor mode. -/
def killable (boss : Bool) : State :=
  (launched 0 { bench with sched := { bench.sched with gangs := [exitGang] } }).mapCore 1 (fun k =>
    { k with task := some { placedTask with peer := 1 }, main := { k.main with mode := if boss then .supervisor else .user } })

/-- Two areas that name context 1. -/
def withAreas (s : State) : State :=
  { s with mem := { s.mem with cells := s.mem.cells.writeParts [(0x10_0008, le8 1), (0x22_0008, le8 1)] } }

def placedAgain : State := withAreas { bench with sched := { bench.sched with gangs := [savedGang] } }

/-- Core 0 is to halt, for its task is to migrate to core 40; and its task has been saved. -/
def migratingGang (saved : Bool) : Gang :=
  { gang with moving := some (0, 40, 0x10_0000), peers := if saved then gang.peers.set 0 (.saved 0x10_0000) else gang.peers }

def migrating (saved : Bool) : State :=
  (withAreas { bench with sched := { bench.sched with gangs := [migratingGang saved] } }).mapCore 0 (fun k =>
    { k with halting := !saved })

def secondTask (s : State) : State := s.mapCore (peerCore [0] 1) (fun k => { k with task := some { placedTask with peer := 1 } })

theorem meets_GangEvents :
    (bench.gang gang.key = some gang ∧ gang.state = .running ∧
      (∀ save ∈ [0, 0x7F_FA00_0000 - 8 * 0x12_0000], save % 0x1_0000 = 0 ∧ save + gang.peers.length * 0x12_0000 ≤ 0x7F_FA00_0000)) ∧
    (let s := halted haltingGang
     let u := (s.drainStrand ⟨0, false⟩).drainStrand ⟨0, true⟩
     s.gang haltingGang.key = some haltingGang ∧ haltingGang.state = .halting ∧ (s.core 0).halted = false ∧
      (∀ d ∈ haltingGang.cores, d ≠ 0 → (s.core d).halted = true) ∧ u.quiet 0 = true ∧ haltingGang.cores.Nodup ∧
      u.conf.access = grants ∧
      haltingGang.cores.all (fun d => (u.core d).bad.isEmpty && (u.core d).task.isSome && (u.core d).task.all (fun q =>
        q.master == ⟨0, 1⟩ && decide (q.peer < 2) && u.areaOpen (haltingGang.save + q.peer * 0x12_0000))) = true) ∧
    (let s := placedAgain
     s.gang savedGang.key = some savedGang ∧ savedGang.state = .placed ∧ s.conf.access = grants ∧
      ((List.range 2).map (peerCore savedGang.quires)).Nodup ∧ savedGang.dead = [] ∧
      (List.range 2).all (fun p => savedGang.peers[p]?.any (fun x =>
        match x with
        | .saved pa => (s.savedTask savedGang p pa).master == ⟨0, 1⟩ && decide (pa ≤ 0x22_0000) && !(s.byteAt (pa + 0x38)).getLsbD 1
        | .core _ => false)) = true ∧ s.mem.ecc = [] ∧
      ((List.range 2).map (peerCore savedGang.quires)).all (fun c => !(s.core c).asleep) = true) ∧
    (warm.gang gang.key = some gang ∧ gang.moving = none ∧ gang.peers[0]? = some (.core 0) ∧
      warm.reliefWanted gang 0 0 8 = true ∧ 0x7F_F9EE_0000 % 0x1_0000 = 0 ∧ 0x7F_F9EE_0000 + 0x12_0000 ≤ 0x7F_FA00_0000) := by
  decide +kernel

theorem meets_GangEvents_kills :
    (∀ k ∈ [KillTarget.task exitGang.key 1, .gang exitGang.key, .launch 0, .queue 0, .context 1],
      (killable false).killable k = true ∧ (killable false).killsAtOnce k) ∧
    (∀ k ∈ [KillTarget.task exitGang.key 1, .gang exitGang.key, .launch 0, .queue 0],
      ∃ c ∈ (killable true).killedCores k, ((killable true).core c).main.mode = .supervisor) ∧
    ((killable false).gang exitGang.key = some exitGang ∧ (killable false).launch exitGang.key.launch = some launch0 ∧
      1 ∉ exitGang.dead ∧ exitGang.peers[1]? = some (.core 1) ∧ exitGang.cores.Nodup ∧ (0 : Nat) < exitGang.peers.length ∧
      (0 : Nat) ≠ 1 ∧ exitGang.peers[0]? = some (.core 0) ∧ 0 ∉ exitGang.dead ∧ (killable false).taskEnded (.core 0) = false) ∧
    (launch0.retired + (launch0.killed + 1) = launch0.gangs ∧
      { launch0 with gangs := 2 }.retired + ({ launch0 with gangs := 2 }.killed + 1) ≠ { launch0 with gangs := 2 }.gangs) ∧
    (killable false).queueAt 0 = Queue.reset := by
  unfold State.killsAtOnce
  decide +kernel

/-- A gang of one saved task that holds back the next generation; a second has passed. -/
def lateGang : Gang := { gang with peers := [.saved 0x10_0000] }
def late : State :=
  { bench with sched := { bench.sched with gangs := [lateGang], launches := [launch0] }, cg := 0x7FFF, cgHeld := some 5, clock := 1_000_000_005 }

theorem meets_GangEvents_migration :
    (let s := migrating false
     let u := (s.drainStrand ⟨0, false⟩).drainStrand ⟨0, true⟩
     (s.core 0).task = some placedTask ∧ s.gang placedTask.key = some (migratingGang false) ∧ (migratingGang false).state ≠ .halting ∧
      (migratingGang false).moving = some (placedTask.peer, 40, 0x10_0000) ∧ (s.core 0).halted = false ∧ u.quiet 0 = true ∧
      u.areaOpen 0x10_0000 = true ∧ (u.core 0).bad = [] ∧ placedTask.master = ⟨0, 1⟩ ∧ u.conf.access = grants) ∧
    (let s := secondTask (migrating true)
     s.gang (migratingGang true).key = some (migratingGang true) ∧ (migratingGang true).state = .running ∧
      (migratingGang true).moving = some (0, 40, 0x10_0000) ∧ (migratingGang true).peers[0]? = some (.saved 0x10_0000) ∧
      (s.core 40).asleep = false ∧ s.tooHot 40 = false ∧ s.mem.ecc = [] ∧ s.conf.access = grants ∧
      (s.savedTask (migratingGang true) 0 0x10_0000).master = ⟨0, 1⟩ ∧ Place.core 40 ∉ (migratingGang true).peers ∧
      1 < (migratingGang true).peers.length ∧ (migratingGang true).peers[1]? = some (.core (peerCore [0] 1)) ∧
      1 ∉ (migratingGang true).dead ∧ s.taskEnded (.core (peerCore [0] 1)) = false) := by decide +kernel

/-- No line is in error, and the tables let the master in. -/
theorem restoreFault_none {s : State} {r : Resident} {pa : Nat} (hm : r.master = ⟨0, 1⟩) (hc : s.conf.access = grants)
    (he : s.mem.ecc = []) (hp : pa ≤ 0x7000_0000) : s.restoreFault r pa = none := by
  have hb : s.badLine pa areaSize = none := by simp [State.badLine, he]
  simp only [State.restoreFault, hb, Option.isSome_none, Bool.false_eq_true, if_false]
  exact areaDenied_none hm hc (by unfold areaSize; omega)

theorem meets_CareEvents :
    (late.gang lateGang.key = some lateGang ∧ late.cgHeld = some 5 ∧ late.holdsBack lateGang = true ∧
      5 + 1_000_000_000 ≤ late.clock.toNat ∧ late.launch lateGang.key.launch = some launch0 ∧ lateGang.key.gang < 2 ^ 24) ∧
    ((bench.core 200).task = none ∧ bench.reservedCore 200 = false ∧ (bench.core 200).asleep = false ∧ (bench.core 200).writes = []) ∧
    ((bench.mapCore 200 (fun k => { k with asleep := true })).core 200).asleep = true ∧
    ((List.replicate 256 (0 : BitVec 16)).length = 256 ∧ warm.mgmt.state = .running) ∧
    (∀ line ∈ [0, 0xFFF_FFFF], memType (line * 128) = .device) ∧ memType (0x1000_0000_0000 * 128) = .host ∧
    assocGet bench.mem.masters 0x200 = none ∧
    ∀ line ∈ [0x200, 0x1000_0000_0000], assocGet { bench.mem with masters := [(line, none)] }.masters line = some none ∧
      assocGet { bench.mem with masters := [(line, some ⟨0, 1⟩)] }.masters line = some (some ⟨0, 1⟩) := by
  decide +kernel

/-- The tail, a record with doublewords 0, 1, 2 and 5, and a kernel header. -/
def recordBytesAt (tail : Nat) (d0 : Word) : List (Nat × List Byte) :=
  [(0x1_0000, natLe 4 tail), (0x1_0080, wordsLe [d0, 0x8200, 77, 0, 0, 0x8300]),
   (0x1_0200, wordsLe [0x40, 0x8000_0000_0000_0000, 0, 0])]

def queue5 : Queue :=
  { Queue.reset with enable := true, ctx := 1, tailAddr := 0x2000, ring := 0x201, tailSeen := 1, tailRead := true, log2n := 4 }

/-- Queue 5 with a record at 0x1_0080, whose kernel header is at virtual address 0x8200. -/
def queued (tail : Nat) (d0 : Word) : State :=
  { bench with
    sched := { bench.sched with gangs := [], queues := bench.sched.queues.set 5 queue5 }
    conf := { bench.conf with contexts := [⟨1, 0, 0x1000, false⟩] }
    mem := { bench.mem with cells := bench.mem.cells.writeParts (recordBytesAt tail d0) } }

def accepted : State := next (.arbitrate 0) (next (.acceptance 5) (queued 1 0x0700_0000_0100_0000))

/-- A placed gang, all of whose tasks can start. -/
def startable (s : State) (g : Gang) : Bool :=
  g.state == .placed && g.placedCores.length == g.peers.length && g.placedCores.all (fun p => !(s.core p.2).asleep) &&
    (s.launch g.key.launch).any (fun l => !s.hamperWaits g l && fine (fun es => fine (fun _ => true) (s.freshTasks g l es g.placedCores)) (s.hamperOf g l))

/-- A gang is placed next: the unit, its quires, its launch. -/
def placesNew (s : State) : Bool :=
  let v := s.noteUnits.releaseHolds
  (v.firstUnit ((v.units_ 0).filter (fun u => (v.fit 0 u).isSome))).any (fun u => (v.fit 0 u).isSome && !u.saved &&
    (v.gang u.key).isNone && (v.launch u.key.launch).any (fun l => v.stillValid l && (v.binding l.ctx).isSome))

/-- A saved gang is placed next. -/
def placesSaved (s : State) : Bool :=
  let v := s.noteUnits.releaseHolds
  (v.firstUnit ((v.units_ 0).filter (fun u => (v.fit 0 u).isSome))).any (fun u => (v.fit 0 u).isSome && u.saved &&
    (v.gang u.key).isSome)

/-- Nothing fits, and one unit finds victims. -/
def choosesVictims (s : State) : Bool :=
  let v := s.noteUnits.releaseHolds
  (v.units_ 0).all (fun w => (v.fit 0 w).isNone) && (v.unitU 0).any (fun u => !v.roomWith 0 u [] && (v.victimSet 0 u).isSome)

/-- Nothing fits, and what one unit has been given will do. -/
def victimsSuffice (s : State) : Bool :=
  let v := s.noteUnits.releaseHolds
  (v.units_ 0).all (fun w => (v.fit 0 w).isNone) && (v.unitU 0).any (fun u => v.roomWith 0 u [])

/-- The launch is accepted: free quires; a saved gang to place again; the only quire held by a gang of lower priority whose
minimum residency is over. -/
def accepting : State := next (.acceptance 5) (queued 1 0x0700_0000_0100_0000)

def launch9 : Launch := { launch0 with id := 9 }

/-- The gang is in its save areas and its partition has free quires. -/
def resuming : State :=
  { bench with
    sched := { bench.sched with
      gangs := [{ savedGang with key := ⟨9, 0⟩, state := .saved, peers := (List.range 8).map (fun p =>
        Place.saved (0x10_0000 + p * 0x12_0000)) }]
      launches := [launch9] }
    conf := { bench.conf with contexts := [⟨1, 0, 0x1000, false⟩] } }

/-- The record's queue has higher priority than the one gang that holds quires. -/
def crowded : State :=
  let s := accepting.setQueue 5 { accepting.queueAt 5 with prio := 3 }
  { s with clock := 100_000, sched := { s.sched with
      gangs := [{ gang with key := ⟨9, 0⟩, minresOver := true }], launches := s.sched.launches ++ [launch9] } }

/-- The context of queue 5 is bound nowhere. -/
def unbound (s : State) : State := { s with conf := { s.conf with contexts := [] } }

theorem meets_SchedulerEvents :
    (∀ x ∈ [(16, true), (17, false)], ∀ s ∈ [queued x.1 0], (s.queueAt 5).enable = true ∧ (s.queueAt 5).tailIgnored = false ∧
      s.granted ⟨(s.queueAt 5).part, (s.queueAt 5).ctx⟩ ((s.queueAt 5).tailAddr.toNat * 8) .read = true ∧
      decide ((BitVec.ofNat 32 (leNat (s.readPhys ((s.queueAt 5).tailAddr.toNat * 8) 4)) - (s.queueAt 5).head).toNat ≤
        2 ^ (s.queueAt 5).log2n.toNat) = x.2 ∧ s.writeSent ((s.queueAt 5).tailAddr.toNat * 8) 4 = false) ∧
    (∀ y ∈ [(⟨0x1_0100, 0x1_0108, 0x808, [], ⟨3, false⟩, 5⟩ : Unseen)], y.block / 4 ≠ queue5.recordAt 0 / 128) ∧
    (∀ x ∈ [(0x0700_0000_0100_0000, true), (0x0800_0000_0100_0000, false)], ∀ s ∈ [queued 1 (BitVec.ofNat 64 x.1)],
      (s.queueAt 5).pending ≠ 0 ∧ s.writeSent 0x1_0080 128 = false ∧
      s.headerWaits (s.queueAt 5) (s.readPhys 0x1_0080 128) = false ∧
      s.queueRecord (s.queueAt 5) (s.queueAt 5).head.toNat = s.readPhys 0x1_0080 128 ∧
      s.deniedLine ⟨(s.queueAt 5).part, (s.queueAt 5).ctx⟩ ((s.queueAt 5).recordAt (s.queueAt 5).head.toNat) 128 .read = none ∧
      s.mayAccept 5 ((recWord (s.readPhys 0x1_0080 128) 0).getLsbD 55) = true ∧
      fine (fun _ => true) ((s.advanceHead 5).checkRecord (s.queueAt 5) (s.readPhys 0x1_0080 128)) = x.2) ∧
    (∀ s ∈ [unbound (queued 1 0x0700_0000_0100_0000)], (s.queueAt 5).pending ≠ 0 ∧ s.writeSent 0x1_0080 128 = false ∧
      s.headerWaits (s.queueAt 5) (s.readPhys 0x1_0080 128) = false ∧
      s.deniedLine ⟨(s.queueAt 5).part, (s.queueAt 5).ctx⟩ ((s.queueAt 5).recordAt (s.queueAt 5).head.toNat) 128 .read = none ∧
      s.mayAccept 5 ((recWord (s.readPhys 0x1_0080 128) 0).getLsbD 55) = true ∧ recordForm (s.readPhys 0x1_0080 128) false = true ∧
      (s.bound (s.queueAt 5).ctx (s.queueAt 5).part).isNone = true) ∧
    (∀ s ∈ [launched 0 { bench with clock := 100_000 }], s.gang gang.key = some gang ∧ gang.state ≠ .saved ∧
      gang.placedAt + (s.queueAt gang.queue).minres.toNat * 1000 ≤ s.clock.toNat ∧ s.launch gang.key.launch = some launch0 ∧
      (0 : Fin 8).val = launch0.part.toNat) ∧
    (accepted.sched.gangs.length = 1 ∧ accepted.sched.gangs.all (startable accepted) = true) ∧
    (let s := { bench with sched := { bench.sched with chosen := [gang.key] } }
     gang ∈ s.sched.gangs ∧ gang.state = .running ∧ gang.key ∈ s.sched.chosen) ∧
    (∀ n ∈ [4, 12], (bench.queueAt 31).enable = false ∧ bitsOf (BitVec.ofNat 64 (n * 2 ^ 45)) 48 45 = n) := by decide +kernel

theorem meets_SchedulerEvents_places : placesNew accepting = true := by decide +kernel
theorem meets_SchedulerEvents_saved : placesSaved resuming = true := by decide +kernel
theorem meets_SchedulerEvents_victims : choosesVictims crowded = true ∧ victimsSuffice (next (.arbitrate 0) crowded) = true := by
  decide +kernel

/-- The completion record of a record that is not in order goes to 0x1_0300. -/
def rejected (s : State) : Bool :=
  let bs := s.readPhys 0x1_0080 128
  match (s.advanceHead 5).checkRecord (s.queueAt 5) bs with
  | .error r => r.read.isNone && recordForm bs (((s.bound (s.queueAt 5).ctx (s.queueAt 5).part).map (·.spanned)).getD false) == false &&
      (s.binding (s.queueAt 5).ctx).any (fun b =>
        let u := (s.advanceHead 5).setQueue 5 { (s.advanceHead 5).queueAt 5 with last := none }
        let v := u.ctxWrite b (recWord bs 5 + 8) (le8 (recWord bs 6) ++ le8 u.clock ++ le8 0 ++ wordsLe [0, 0, 0, 0]) false none
        recWord bs 5 != 0 && decide ((recWord bs 5).toNat % 64 = 0) && (v.attrAt 0x1_0300).fcount == 0 &&
          !(v.attrAt 0x1_0300).sweep && v.sched.outbox.isEmpty && !v.schedulerSent && v.mem.waiting.isEmpty && fine (fun l => l.map (fun p => (p.pa, p.len)) == [(0x1_0300, 8)])
            (v.ctxPieces b .write [(0, (recWord bs 5).toNat, 8)]))
  | .ok _ => false

theorem meets_SchedulerEvents_rejected :
    rejected (queued 1 0x0800_0000_0100_0000) = true ∧ memType 0x1_0300 ≠ .peer := by decide +kernel

/-! The host's windows, the link and the management processor. -/

/-- A host master of context 1 in partition 0, which is granted device memory, or in another; frame 2 frozen or not; lines
in error. -/
def hosted (part : Nat) (frozen : Nat) (bad : List Nat) : State :=
  { bench with
    conf := { bench.conf with hostMaster := BitVec.ofNat 64 (0x8001_0000_0000_0000 + part * 2 ^ 60) }
    mem := { bench.mem with ecc := bad, frames := [(2, { FrameAttr.zero with fcount := frozen })] } }

theorem meets_HostWindows :
    ((∀ q ∈ [(0 : QueueId), 31], (bench.queueAt q).enable = false) ∧
      (0x1002 : BitVec 24).toNat % (if false then 8 else 4) ≠ 0 ∧ (0x1004 : BitVec 24).toNat % (if true then 8 else 4) ≠ 0) ∧
    ((∀ p ∈ [(0x1004, 4), (0x1000, 8)], (p.2 = 4 ∨ p.2 = 8) ∧ p.1 % p.2 = 0 ∧ p.1 < 2 ^ 24) ∧
      ∀ p ∈ [(0x1000, 16), (0x1004, 8)], (p.2 ≠ 4 ∧ p.2 ≠ 8) ∨ p.1 % p.2 ≠ 0) ∧
    ((1 : Word).setWidth 16 = bench.cg + 1 ∧ bench.lagging (bench.cg + 1) = false) ∧
    (0x7F_FFFF_FFFF + 1 ≤ 0x80_0000_0000 ∧ bench.hostMaster = none ∧
      (hosted 5 0 []).hostMaster = some ⟨5, 1⟩ ∧ (hosted 5 0 []).deniedLine ⟨5, 1⟩ 0x1_0004 8 .read = some 0x1_0004 ∧
      (hosted 5 0 []).deniedLine ⟨5, 1⟩ 0x1_0004 2 .write = some 0x1_0004 ∧
      (hosted 0 0 [0x200]).deniedLine ⟨0, 1⟩ 0x1_0000 4 .read = none ∧ (hosted 0 0 [0x200]).badLine 0x1_0000 4 ≠ none) ∧
    (∀ n ∈ [0, 1], (hosted 0 n []).hostMaster = some ⟨0, 1⟩ ∧ (hosted 0 n []).deniedLine ⟨0, 1⟩ 0x1_0000 4 .read = none ∧
      (hosted 0 n []).badLine 0x1_0000 4 = none ∧ 0x1_0000 / 0x8000 = (0x1_0000 + [(7 : Byte), 8].length - 1) / 0x8000 ∧
      (hosted 0 n []).deniedLine ⟨0, 1⟩ 0x1_0000 2 .write = none ∧ ((hosted 0 n []).attrAt 0x1_0000).fcount = n ∧
      ((hosted 0 n []).attrAt 0x1_0000).sweep = false) ∧
    ∀ a ∈ [0x8_0000_0000_003E, 0xF_FFFF_FFFF_FFFE], memType a = .host ∧ a + [(7 : Byte), 8].length ≤ 2 ^ 52 ∧
      a / 64 = (a + [(7 : Byte), 8].length - 1) / 64 := by decide +kernel

/-- The link in a state, expecting sequence number 5; frame 2 frozen by tickets or in a sweep, or neither. -/
def linkIn (st : LinkState) (frozen : Nat) (sweep : Bool) : State :=
  { bench with
    link := { bench.link with state := st, expect := 5 }
    mem := { bench.mem with frames := [(2, { FrameAttr.zero with fcount := frozen, sweep := sweep })] } }

/-- Frame 2 is as it is after reset. -/
def openLink : State := { linkIn .up 0 false with mem := bench.mem }

/-- A header: its sequence number, KIND and CREDIT, acknowledging 4. -/
def header (seq kind credit : Nat) : BitVec 96 := BitVec.ofNat 96 (seq * 2 ^ 84 + 4 * 2 ^ 72 + kind * 2 ^ 68 + credit * 2 ^ 56)

/-- A write of core 0 waits for its acknowledgement; one of the scheduler does, with its vector; another is still to be
sent. -/
def sentOne : Sent :=
  { tag := 3, who := some ⟨0, false⟩, write := 7, va := 0x8000, pa := 0x80_0000_0000, bytes := [9], notify := none }

def sentNotice : Sent := { tag := 4, who := none, write := 0, va := 0, pa := 0x80_0000_0080, bytes := [9], notify := some 7 }

def unsentWrite (pa : Nat) : HomeWrite := ⟨pa, [1, 2], .copy .copy, some ⟨0, 1⟩, some ⟨.system, none, false⟩, none, some 7⟩

/-- Engine 4 of core 7 of the peer device, for a master of context 1; another engine of that core. -/
def away : Origin := ⟨⟨0, 1⟩, 7, 4, false⟩

def otherEngine : Origin := { away with engine := 5 }

/-- A write of that engine at 0x1_0000 was lost with its slot and is awaited; a transaction is kept that nothing holds. -/
def awaiting : State := { openLink with link := { openLink.link with awaited := [⟨⟨away, 3, some (.home 0x1_0000), 8⟩, false⟩] } }

def keeping (x : LinkTransaction) : State := { openLink with link := { openLink.link with kept := [x] } }

theorem meets_LinkEvents_state :
    ((linkIn .down 0 false).link.state ≠ .training ∧ ({ linkIn .training 0 false with mem := bench.mem }).frozenFrames = [] ∧
      (linkIn .training 1 false).frozenFrames ≠ [] ∧ (linkIn .training 1 false).link.state = .training) ∧
    (∀ us ∈ [[], [sentOne], [sentNotice]], ({ openLink with link := { openLink.link with unacked := us } } : State).link.state = .up) ∧
    ((linkIn .down 0 false).link.state = .down ∧ (keeping (.read away 0 8 5)).link.kept ≠ []) ∧
    (∀ k ∈ [1, 2], openLink.inSequence (header 5 k 0) k ∧ openLink.inSequence (header 5 k 0xFFF) k) ∧
    (List.replicate 228 (3 : Byte)).length = 228 ∧
    (3 < flitKind (header 5 4 0) ∧ (header 5 1 0 ||| 1).toNat % 2 ^ 56 ≠ 0) ∧
    (∀ seq ∈ [4, 6], ∀ k ∈ [1, 2], flitSeq (header seq k 0) ≠ openLink.link.expect ∧ openLink.carries (header seq k 0) k) ∧
    (∀ b ∈ [false, true], ({ openLink with link := { openLink.link with nakSent := b } } : State).link.nakSent = b) ∧
    (openLink.carries (header 0 0 1) 0 ∧ openLink.carries (header 0 3 0xFFF) 3) := by
  unfold State.inSequence State.carries
  decide +kernel

/-- A move of the link is the first of the agenda. -/
theorem meets_LinkEvents_moves :
    ({ linkIn .down 0 false with agenda := [.linkTraining] } : State).pass.agenda = [.linkTraining] ∧
    ({ linkIn .down 0 false with agenda := [.linkTraining] } : State).pass.link.state = .down ∧
    ({ keeping (.read away 0 8 5) with agenda := [.linkKept] } : State).pass.agenda = [.linkKept] := by decide +kernel

theorem meets_LinkEvents_held :
    (openLink.link.awaited = [] ∧ (incoming (.read away 0x1_0000 8 5)).target = some (.home 0x1_0000, 8)) ∧
    (incoming (.copyWrite away (.store placedTask.key 1 64) [7] 5)).target = some (.store placedTask.key 1 64, 1) ∧
    (awaiting.mustKeep (incoming (.read away 0x1_0078 8 5)) = true ∧ awaiting.mustKeep (incoming (.read away 0x1_0080 8 5)) = false ∧
      awaiting.mustKeep (incoming (.read otherEngine 0x1_0000 8 5)) = false ∧
      awaiting.mustKeep (incoming (.read away 0x1_0000 8 3)) = false ∧
      awaiting.mustKeep (incoming (.write away 0x1_0080 [some 1] (some .device) 5)) = true) ∧
    (awaiting.linkReady = true ∧ inLine 0x1_0000 8 = true ∧ 0x1_0000 % size3Bytes .d = 0) ∧
    (∀ x ∈ [LinkTransaction.read away 0x1_0000 8 5, .write away 0x1_0000 (List.replicate 8 none) none 5,
        .atomic away .add .d 0x1_0000 1 0 none 5, .copyWrite away (.home 0x1_0000) (List.replicate 8 7) 5,
        .arrival ⟨away, 5, 9, 0⟩ 8, .freeze away 5 [0x100_0000],
        .sweep away 5 [0x100_0000, 0x100_0001]],
      awaiting.mustKeep (incoming x) = true ∧ (keeping x).linkReady = true ∧ (keeping x).nextKept = some x) := by decide +kernel

/-- The launch of context 1 with PAIR 9, whose gang is on core 0; cell 8 of its core expects arrivals or does not. -/
def paired (expect : Nat) : State :=
  ({ openLink with sched := { openLink.sched with launches := [launch0] } }).mapCore 0 (fun k =>
    { k with cells := k.cells.set 8 ⟨expect, 1, 7⟩ })

def pairKey : PairedGang := ⟨away, 5, 9, placedTask.key.gang⟩

/-- The second gang of the launch has retired or not, and the link is up. -/
def upGangs (ended : Bool) : State := { twoGangs ended with link := { (twoGangs ended).link with state := .up } }

/-- A FREEZE of frame 2 that the peer device has still to acknowledge. -/
def owedFreeze : State :=
  { linkIn .up 1 false with frz := { (linkIn .up 1 false).frz with ops := [{ freezing [] with peerWait := true }] } }

theorem meets_LinkEvents :
    (∀ pa ∈ [0x1_0000, 0x1_0078], openLink.homeGrants ⟨0, 1⟩ pa 8 .read ∧ openLink.homeGrants ⟨0, 1⟩ pa 8 .write ∧
      openLink.badLine pa 8 = none ∧ openLink.homePasses pa ∧ pa % size3Bytes .d = 0) ∧
    (openLink.linkReady = true ∧ inLine 0x1_0000 8 = true ∧ openLink.granted ⟨5, 1⟩ 0x1_0000 .read = false) ∧
    ((linkIn .up 1 false).homeGrants ⟨0, 1⟩ 0x1_0000 8 .write ∧ (linkIn .up 1 false).peerOwed 0x1_0000 < ((linkIn .up 1 false).attrAt 0x1_0000).fcount ∧
      (owedFreeze.homeGrants ⟨0, 1⟩ 0x1_0000 8 .write ∧ owedFreeze.homePasses 0x1_0000 ∧ 0 < (owedFreeze.attrAt 0x1_0000).fcount) ∧
      some 3 ∈ [none, some (3 : Byte)] ∧ (linkIn .up 1 false).homeGrants ⟨0, 1⟩ 0x1_0000 8 .read ∧
      (linkIn .up 0 true).homeGrants ⟨0, 1⟩ 0x1_0000 8 .read ∧ (linkIn .up 0 true).granted ⟨0, 1⟩ 0x1_0000 .write = true ∧
      (linkIn .up 0 true).badLine 0x1_0000 8 = none ∧
      ((linkIn .up 0 true).attrAt 0x1_0000).fcount ≤ (linkIn .up 0 true).peerOwed 0x1_0000 ∧
      ((linkIn .up 0 true).attrAt 0x1_0000).sweep = true) ∧
    (∀ b ∈ [false, true], (List.replicate 256 (3 : Byte)).length ≤ 256 ∧ (upGangs b).linkReady = true ∧
      (upGangs b).link.awaited = [] ∧ (upGangs b).peerAt gang1.key 1 = .core (peerCore [5] 1) ∧ (upGangs b).retired gang1.key = b ∧
      (upGangs b).mustKeep (incoming (.copyWrite away (.store gang1.key 1 0x9_FF00) (List.replicate 256 3) 5)) = false ∧
      (upGangs b).mustKeep (incoming (.reduceWrite away (.store gang1.key 1 0x9_FFF8) false false [1, 2] 5)) = false ∧
      0x9_FF00 + 256 ≤ 0xA_0000 ∧ 0x9_FFF8 % 4 = 0 ∧ 0x9_FFF8 + 4 * [(1 : BitVec 32), 2].length ≤ 0xA_0000) ∧
    (memType 0x80_0000_0000 = .peer ∧ memType (0x80_0000_0000 + 128) = .peer ∧ memType (0x80_0000_0000 + size3Bytes .q) = .peer) ∧
    (∀ op ∈ [AOp.swap, .add, .and, .or, .xor, .min, .max, .minu, .maxu, .fadd], (linkAtomicValue 32 op 5 6 5).isSome = true) ∧
    (linkAtomicValue 32 .cas 5 6 5 = some 6 ∧ linkAtomicValue 32 .cas 5 6 4 = none) ∧
    (∀ bf16 ∈ [false, true], 0x1_0000 % (if bf16 then 2 else 4) = 0 ∧
      openLink.homeGrants ⟨0, 1⟩ 0x1_0000 ((if bf16 then 2 else 4) * [(1 : BitVec 32), 2].length) .write ∧
      openLink.granted ⟨0, 1⟩ 0x1_0000 .read = true ∧
      openLink.mustKeep (incoming (.reduceWrite away (.home 0x1_0000) bf16 false [1, 2] 5)) = false) := by
  unfold State.homeGrants State.homePasses
  exact ⟨by decide +kernel, by decide +kernel, by decide +kernel, by decide +kernel, by decide +kernel, by decide +kernel,
    by decide +kernel, by decide +kernel⟩

/-- A payload of 228 bytes waits to be sent, and one is in the buffer. -/
theorem meets_LinkEvents_payloads : ∀ p ∈ ({ bench.link with unsent := [List.replicate 228 1] } : Link).unsent, p.length = 228 := by
  decide +kernel

def sentAnd (u : Sent) (o : List HomeWrite) : State :=
  { openLink with link := { openLink.link with unacked := [u] }, sched := { openLink.sched with outbox := o } }

theorem meets_LinkEvents_outbox :
    (∀ u ∈ [sentOne, sentNotice], ∀ o ∈ [[], [unsentWrite 0x80_0000_0080], [unsentWrite 0x1_0000]],
      (sentAnd u o).sched.outbox = o ∧ (sentAnd u o).link.unacked = [u] ∧ (sentAnd u o).linkCarries = true ∧ (sentAnd u o).mem.waiting = []) ∧
    memType 0x80_0000_0080 = .peer ∧ memType 0x1_0000 ≠ .peer ∧ (openLink.attrAt 0x80_0000_0080).fcount = 0 ∧
    (openLink.attrAt 0x1_0000).fcount = 0 ∧ (openLink.attrAt 0x1_0000).sweep = false := by decide +kernel

theorem meets_LinkEvents_arrivals :
    (openLink.linkReady = true ∧ openLink.pairedGang pairKey = none ∧ openLink.mustKeep (incoming (.arrival pairKey 8)) = false) ∧
    (∀ n ∈ [0, 2], (paired n).linkReady = true ∧ (paired n).mustKeep (incoming (.arrival pairKey 8)) = false ∧
      (paired n).pairedGang pairKey = some gang ∧
      gang.peers[(8 : Fin 96).val % gang.peers.length]? = some (.core 0) ∧ (paired n).killPending gang.key = false ∧
      ((paired n).cellAt (.core 0) 8).expect = BitVec.ofNat 12 n) := by decide +kernel

/-- A command in the mailbox, its window holding these bytes. -/
def cmd (op : Nat) (st : BootState) (a0 a1 : Word) (window : List Byte) : State :=
  { bench with mgmt := { bench.mgmt with
      go := true, op := BitVec.ofNat 8 op, running := BitVec.ofNat 8 op, state := st, arg0 := a0, arg1 := a1
      window := Memory.write [] 0 window } }

/-- CONFIG with one entry. -/
def conf1 (e : List Word) : State := cmd 8 .running 0 0 (natLe 0x40 1 ++ wordsLe e)

/-- Queue 0, of partition 0, is enabled. -/
def busy (s : State) : State := s.setQueue 0 { s.queueAt 0 with enable := true }

/-- The entries pass, and none takes from a partition with an enabled queue. -/
def confOk (s : State) : Bool :=
  ((s.confCheck s.confEntries).firstFailing s.conf 0 s.confEntries).isNone && !(s.confCheck s.confEntries).takesAny s.conf s.confEntries

theorem meets_Management :
    (∀ s ∈ [cmd 1 .awaitBundle 0 65280 [], cmd 1 .bootFail (0x300_0000 - 65280) 65280 []], s.commanded 1 ∧
      s.mgmt.state ≠ .running ∧ s.mgmt.arg1.toNat ≤ 65280 ∧ s.mgmt.arg0.toNat + s.mgmt.arg1.toNat ≤ 0x300_0000) ∧
    (∀ s ∈ [cmd 1 .awaitBundle 0 65281 [], cmd 1 .awaitBundle 0x300_0000 1 []], s.commanded 1 ∧ s.mgmt.state ≠ .running ∧
      (65280 < s.mgmt.arg1.toNat ∨ 0x300_0000 < s.mgmt.arg0.toNat + s.mgmt.arg1.toNat)) ∧
    ((cmd 2 .awaitBundle 0 0 []).commanded 2 ∧ (cmd 2 .awaitBundle 0 0 []).mgmt.state ≠ .running) ∧
    (∀ n ∈ [3, 4, 5, 6, 7, 8], (cmd n .running 0 0 []).commanded n ∧ (cmd n .running 0 0 []).mgmt.state = .running) ∧
    ((cmd 4 .running 0 0 []).mgmt.lifecycle ≠ 2 ∧ { (cmd 4 .running 0 0 []).mgmt with deployed := true }.lifecycle = 2 ∧
      { (cmd 4 .running 0 0 []).mgmt with returned := true }.lifecycle = 4) ∧
    ((cmd 5 .running 0xFFFF_FFFF 0 []).mgmt.arg0 = 0xFFFF_FFFF ∧ (cmd 5 .running 0 0 []).mgmt.arg0 ≠ 0xFFFF_FFFF) ∧
    (400 ≤ (cmd 7 .running 400 0 []).mgmt.arg0.toNat ∧ (cmd 7 .running 950 0 []).mgmt.arg0.toNat ≤ 950 ∧
      (cmd 7 .running 399 0 []).mgmt.arg0.toNat < 400 ∧ 950 < (cmd 7 .running 951 0 []).mgmt.arg0.toNat) := by
  unfold State.commanded
  decide +kernel

/-- What a token names is whatever it names; unlocking waits for a strand in supervisor mode, and then goes on. -/
theorem meets_Management_unlock :
    (∃ ids code nonces key sig, Config.tokenFields ((cmd 4 .running 0 0 []).mgmt.window.read 0 65280) = (ids, code, nonces, key, sig)) ∧
    (cmd 4 .running 0 0 []).mgmt.unlocking = none ∧
    (cmd 4 .running 0 0 []).unlockReady = true ∧ (sup (cmd 4 .running 0 0 [])).unlockReady = false ∧
    ∀ s ∈ [cmd 4 .running 0 0 [], sup (cmd 4 .running 0 0 [])],
      ({ s with mgmt := { s.mgmt with unlocking := some (1, 2) } } : State).mgmt.unlocking = some (1, 2) :=
  ⟨⟨_, _, _, _, _, rfl⟩, by decide +kernel, by decide +kernel, by decide +kernel, by decide +kernel⟩

/-- CONFIG: a bad header; no entry; an entry that fails; a quire taken from a busy partition; entries that pass. -/
theorem meets_Management_config :
    (cmd 8 .running 0 0 [0, 0, 1]).mgmt.confHeader = false ∧
    (∀ s ∈ [cmd 8 .running 0 0 [], conf1 [0, 0, 0, 0, 0, 0, 0, 0]], s.commanded 8 ∧ s.mgmt.confHeader = true) ∧
    confOk (cmd 8 .running 0 0 []) = true ∧
    ((conf1 [0, 0, 0, 0, 0, 0, 0, 0]).confCheck (conf1 [0, 0, 0, 0, 0, 0, 0, 0]).confEntries).firstFailing
      (conf1 [0, 0, 0, 0, 0, 0, 0, 0]).conf 0 (conf1 [0, 0, 0, 0, 0, 0, 0, 0]).confEntries = some 0 ∧
    (∀ s ∈ [busy (conf1 [0x0100_0000_0000_0000, 0, 0, 0, 0, 0, 0, 0])],
      (s.confCheck s.confEntries).firstFailing s.conf 0 s.confEntries = none ∧
        (s.confCheck s.confEntries).takesAny s.conf s.confEntries = true) ∧
    (∀ e ∈ [[0x0100_0000_0000_0000, 3, 0, 0, 0, 0, 0, 0], [0x0200_0000_0000_0001, 0x100, 0x1FF, 0, 0, 0, 0, 0],
        [0x0300_0000_0000_0105, 0, 0, 0, 0, 0, 0, 0], [0x0400_0000_0000_0000, 0x8001_0000_0000_0000, 0, 0, 0, 0, 0, 0],
        [0x0600_0000_0001_0000, 1, 2, 3, 4, 0, 0, 0], [0x0700_0000_0001_0000, 0x8000, 0x8000, 0, 0, 0, 0, 0],
        [0x0900_0000_0000_0000, 100, 0, 0, 0, 0, 0, 0]], confOk (conf1 e) = true) := by
  unfold State.commanded
  decide +kernel

/-- Every kind of entry, and both forms of CONTEXT and of DEMAND_AREA. -/
theorem meets_Management_entries :
    (∀ k ∈ [1, 2, 3, 4, 5, 6, 7, 8, 9], (#v[BitVec.ofNat 64 (k * 2 ^ 56), 0, 0, 0, 0, 0, 0, 0] : ConfEntry)[0].toNat / 2 ^ 56 = k) ∧
    (∀ b ∈ [false, true], (#v[0x0500_0000_0000_0000 + (if b then 0x2_0000_0000 else 0), 0, 0, 0, 0, 0, 0, 0] : ConfEntry)[0].getLsbD 33 = b) ∧
    (bench.mgmt.lifecycle ≠ 4 ∧ { bench.mgmt with returned := true }.lifecycle = 4) := by decide +kernel

/-- A store of 8 bytes into a line in error is raised at the next boundary, and the line stays in error (R322, R324). -/
theorem test_drain_error :
    (let s := { stored bench with mem := { (stored bench).mem with ecc := [0x200] } }
     match exec (.drain 0 0) s with
     | .next t => t.here.deferred == [{ plainFault .dataUncorrectable 0 with kind := 1 }] && t.mem.ecc == [0x200]
     | _ => false) = true := by decide +kernel

end Sys2Proof.Tests
end

section
/-! PROOF. The uses of a barrier cell that raise BARRIER_CELL (R42, R44, R226), and an arrival made twice in a phase. The
rules of the operations on cells come first: naming a cell, finding it, arriving at it and waiting on it. -/

namespace Sys2Proof.Machine

/-! What the shared operations answer. -/

/-- An instruction that may issue and whose own effect is a fault takes that fault. -/
theorem raises_of_issue {i : Instr} {s : State} {body : State → Effect} {f : FaultInfo} (hx : exec i s = issue i s body)
    (hi : s.issueFault i = none) (hb : body s = .raise f) : Raises i s f := by
  unfold Raises
  rw [hx, issue_admitted hi, hb]
  rfl

theorem afterDrain_of_drainsTo {s u : State} {wide : Bool} (h : s.drainsTo u wide) (body : State → Effect) :
    afterDrain s wide body = body u := by
  obtain ⟨rfl, hd, ha⟩ := h
  have hl : (wide && !(s.drainStrand s.cur).acknowledged s.cur) = false := by simpa using ha
  simp [afterDrain, hd, hl]

/-- A number above 95 in the low seven bits names no cell, of the own gang or of another (R42). -/
theorem cellName_eq_none {v : Word} (h : 95 < v.toNat % 128) (foreign : Bool) : cellName v foreign = none := by
  have hn : 95 < bitsOf v 6 0 := by simpa [bitsOf] using h
  simp [cellName, hn]

theorem State.ownCell_unnamed {s : State} {v : Word} (h : cellName v false = none)
    (body : Nat → Place → BarCell → Effect) : s.ownCell v body = cellFault := by
  simp only [State.ownCell, h]

theorem State.ownCell_found {s : State} {v : Word} {n : CellName} {p : Place}
    (h : s.cellFound v false s.resident.key n p) (body : Nat → Place → BarCell → Effect) :
    s.ownCell v body = body n.cell p (s.cellAt p n.cell) := by
  obtain ⟨hn, hp⟩ := h
  simp only [State.ownCell, hn, hp]

/-- An arrival at a cell that is not initialised when the earlier writes are performed is a fault, whether or not the kill
of its gang has been requested. -/
theorem State.arriveAt_uninitialised {s u : State} {k : GangKey} {p : Place} {cell : Nat} {wide : Bool}
    (hd : s.drainsTo u wide) (he : (u.cellAt p cell).expect = 0) (body : State → BitVec 8 → Effect) :
    s.arriveAt k p cell wide body = cellFault := by
  have hn : u.takeArrival k p cell = none := by simp [State.takeArrival, he]
  simp only [State.arriveAt, afterDrain_of_drainsTo hd, hn]

theorem State.syncWait_lost {s : State} {c : BarCell} (h : c.expect = 0 ∨ s.here.barLost = true) (gd : GReg) (n : Nat)
    (ph : BitVec 8) : s.syncWait gd n c ph = cellFault := by
  simp only [State.syncWait, if_pos h]

/-- An arrival that is not the last one of its phase counts up ARRIVED (R41). -/
theorem BarCell.arrive_before_last {c : BarCell} (h : c.arrived.toNat + 1 < c.expect.toNat) :
    c.arrive.2 = { c with arrived := c.arrived + 1 } := by
  have hne : c.arrived + 1 ≠ c.expect := by bv_omega
  simp only [BarCell.arrive, if_neg hne]

/-! What `exec` of each barrier instruction is. -/

theorem exec_barinit (gc gs : GReg) (s : State) : exec (.barinit gc gs) s = execBarinit gc gs s := rfl

theorem exec_bararr (gd gc : GReg) (sc : Scope) (s : State) : exec (.bararr gd gc sc) s = execBararr gd gc sc s := rfl

theorem exec_barwait (gd gc gs : GReg) (sc : Scope) (s : State) :
    exec (.barwait gd gc gs sc) s = execBarwait gd gc gs sc s := rfl

theorem exec_barsync (gd gc : GReg) (sc : Scope) (s : State) : exec (.barsync gd gc sc) s = execBarsync gd gc sc s := rfl

/-! The misuses of each instruction. -/

theorem barinit_raises_of_unnamed {s : State} {gc gs : GReg} (hi : s.issueFault (.barinit gc gs) = none)
    (hn : cellName (s.g gc) false = none) : Raises (.barinit gc gs) s (plainFault .barrierCell 0) :=
  raises_of_issue (exec_barinit _ _ _) hi (State.ownCell_unnamed hn _)

theorem bararr_raises_of_unnamed {s : State} {gd gc : GReg} {sc : Scope} (hi : s.issueFault (.bararr gd gc sc) = none)
    (hn : cellName (s.g gc) true = none) : Raises (.bararr gd gc sc) s (plainFault .barrierCell 0) :=
  raises_of_issue (exec_bararr _ _ _ _) hi (by simp only [hn]; rfl)

theorem barwait_raises_of_unnamed {s : State} {gd gc gs : GReg} {sc : Scope}
    (hi : s.issueFault (.barwait gd gc gs sc) = none) (hn : cellName (s.g gc) false = none) :
    Raises (.barwait gd gc gs sc) s (plainFault .barrierCell 0) :=
  raises_of_issue (exec_barwait _ _ _ _ _) hi (State.ownCell_unnamed hn _)

theorem barsync_raises_of_unnamed {s : State} {gd gc : GReg} {sc : Scope} (hi : s.issueFault (.barsync gd gc sc) = none)
    (hn : cellName (s.g gc) false = none) : Raises (.barsync gd gc sc) s (plainFault .barrierCell 0) :=
  raises_of_issue (exec_barsync _ _ _ _) hi (State.ownCell_unnamed hn _)

theorem bararr_raises_of_uninitialised {s u : State} {gd gc : GReg} {sc : Scope} {n : CellName} {k : GangKey} {p : Place}
    (hi : s.issueFault (.bararr gd gc sc) = none) (hf : s.cellFound (s.g gc) true k n p) (hp : n.pdev = false)
    (hk : s.arrivalGang n = some k) (hd : s.drainsTo u (wideScope sc)) (he : (u.cellAt p n.cell).expect = 0) :
    Raises (.bararr gd gc sc) s (plainFault .barrierCell 0) := by
  obtain ⟨hn, hc⟩ := hf
  refine raises_of_issue (exec_bararr _ _ _ _) hi ?_
  simp only [hn, hp, hk, hc, Bool.false_eq_true, if_false]
  exact State.arriveAt_uninitialised hd he _

theorem barsync_raises_of_uninitialised {s u : State} {gd gc : GReg} {sc : Scope} {n : CellName} {p : Place}
    (hi : s.issueFault (.barsync gd gc sc) = none) (hf : s.cellFound (s.g gc) false s.resident.key n p)
    (hb : s.here.barPhase = none) (hd : s.drainsTo u (wideScope sc)) (he : (u.cellAt p n.cell).expect = 0) :
    Raises (.barsync gd gc sc) s (plainFault .barrierCell 0) := by
  refine raises_of_issue (exec_barsync _ _ _ _) hi ?_
  simp only [State.ownCell_found hf, hb]
  exact State.arriveAt_uninitialised hd he _

theorem barwait_raises_of_lost {s : State} {gd gc gs : GReg} {sc : Scope} {n : CellName} {p : Place}
    (hi : s.issueFault (.barwait gd gc gs sc) = none) (hf : s.cellFound (s.g gc) false s.resident.key n p)
    (hl : (s.cellAt p n.cell).expect = 0 ∨ s.here.barLost = true) :
    Raises (.barwait gd gc gs sc) s (plainFault .barrierCell 0) := by
  refine raises_of_issue (exec_barwait _ _ _ _ _) hi ?_
  simp only [State.ownCell_found hf, if_pos hl]
  rfl

theorem barsync_raises_of_lost {s : State} {gd gc : GReg} {sc : Scope} {n : CellName} {p : Place} {ph : BitVec 8}
    (hi : s.issueFault (.barsync gd gc sc) = none) (hf : s.cellFound (s.g gc) false s.resident.key n p)
    (hb : s.here.barPhase = some ph) (hl : (s.cellAt p n.cell).expect = 0 ∨ s.here.barLost = true) :
    Raises (.barsync gd gc sc) s (plainFault .barrierCell 0) := by
  refine raises_of_issue (exec_barsync _ _ _ _) hi ?_
  simp only [State.ownCell_found hf, hb]
  exact State.syncWait_lost hl _ _ _

theorem barinit_raises_of_misuse {s : State} {gc gs : GReg} {n : CellName} {p : Place}
    (hi : s.issueFault (.barinit gc gs) = none) (hf : s.cellFound (s.g gc) false s.resident.key n p)
    (hm : s.g gs = 0 ∨ (s.cellAt p n.cell).arrived ≠ 0) : Raises (.barinit gc gs) s (plainFault .barrierCell 0) := by
  have hc : (s.g gs).toNat = 0 ∨ 4095 < (s.g gs).toNat ∨ (s.cellAt p n.cell).arrived ≠ 0 :=
    hm.imp (fun h => by simp [h]) .inr
  refine raises_of_issue (exec_barinit _ _ _) hi ?_
  simp only [State.ownCell_found hf, if_pos hc]
  rfl

theorem BarCell.arrived_after_two {c : BarCell} (h : c.arrived.toNat + 2 < c.expect.toNat) :
    c.arrive.2.arrive.2.arrived = c.arrived + 2 := by
  rw [BarCell.arrive_before_last (c := c) (by omega), BarCell.arrive_before_last (by simp only; bv_omega)]
  bv_omega

/-- Settles O43, by the misuses of each instruction. -/
theorem barrierMisuse : Obligations.BarrierMisuse := by
  unfold Obligations.BarrierMisuse
  refine ⟨fun s gd gc gs sc i hm hi hc => ?_, fun _ _ _ _ _ _ _ _ => bararr_raises_of_uninitialised,
    fun _ _ _ _ _ _ _ => barsync_raises_of_uninitialised, fun _ _ _ _ _ _ _ => barwait_raises_of_lost,
    fun _ _ _ _ _ _ _ => barsync_raises_of_lost, fun _ _ _ _ _ => barinit_raises_of_misuse,
    fun _ => BarCell.arrived_after_two⟩
  simp only [List.mem_cons, List.not_mem_nil, or_false] at hm
  obtain rfl | rfl | rfl | rfl := hm
  · exact barinit_raises_of_unnamed hi (cellName_eq_none hc _)
  · exact bararr_raises_of_unnamed hi (cellName_eq_none hc _)
  · exact barwait_raises_of_unnamed hi (cellName_eq_none hc _)
  · exact barsync_raises_of_unnamed hi (cellName_eq_none hc _)

end Sys2Proof.Machine
end

section
/-! PROOF. The tile register forms (R64, R241). The mask of TZMASK comes first: which bits of a sum of chosen powers of two
are set. -/

namespace Sys2Proof.Machine

/-! The zero-row mask (R64). -/

theorem sum_map_two_mul {α : Type} (l : List α) (f : α → Nat) : (l.map (fun a => 2 * f a)).sum = 2 * (l.map f).sum := by
  induction l with
  | nil => rfl
  | cons a l ih => simp only [List.map_cons, List.sum_cons, ih, Nat.mul_add]

/-- The sum of the powers of two at chosen places. -/
def placesSum {n : Nat} (p : Fin n → Bool) : Nat := ((List.finRange n).map (fun i => if p i then 2 ^ i.val else 0)).sum

/-- The lowest place is the low bit; the others are the same sum, one place up. -/
theorem placesSum_succ {n : Nat} (p : Fin (n + 1) → Bool) :
    placesSum p = (p 0).toNat + 2 * placesSum (fun i => p i.succ) := by
  have hd : ∀ i : Fin n, (if p i.succ then 2 ^ i.succ.val else 0) = 2 * (if p i.succ then 2 ^ i.val else 0) := by
    intro i
    cases p i.succ
    · rfl
    · exact Nat.pow_succ'
  have h0 : (if p 0 then 2 ^ (0 : Fin (n + 1)).val else 0) = (p 0).toNat := by cases p 0 <;> rfl
  simp only [placesSum, List.finRange_succ, List.map_cons, List.map_map, List.sum_cons, Function.comp_def, hd,
    sum_map_two_mul, h0]

/-- The chosen places are the set bits, since no place is added twice. -/
theorem testBit_placesSum {n : Nat} (p : Fin n → Bool) (i : Fin n) : (placesSum p).testBit i.val = p i := by
  induction n with
  | zero => exact i.elim0
  | succ n ih =>
    have hlow : (p 0).toNat < 2 := Bool.toNat_lt _
    rw [placesSum_succ]
    cases i using Fin.cases with
    | zero =>
      rw [Fin.val_zero, Nat.testBit_zero, Nat.add_mul_mod_self_left]
      cases p 0 <;> rfl
    | succ j =>
      have hhalf : ((p 0).toNat + 2 * placesSum (fun i => p i.succ)) / 2 = placesSum (fun i => p i.succ) := by omega
      rw [Fin.val_succ, Nat.testBit_add_one, hhalf, ih]

theorem Tile.zeroRows_eq (t : Tile) : t.zeroRows = BitVec.ofNat 64 (placesSum (fun i : Fin 64 => decide (t.rows[i] = 0))) := by
  simp only [Tile.zeroRows, placesSum, decide_eq_true_eq]

/-- R64, of every tile: the sidecar has no part in the mask. -/
theorem Tile.getLsbD_zeroRows (t : Tile) (i : Fin 64) : t.zeroRows.getLsbD i.val = decide (t.rows[i] = 0) := by
  rw [Tile.zeroRows_eq, BitVec.getLsbD_ofNat, testBit_placesSum, decide_eq_true i.isLt, Bool.true_and]

theorem Tile.rows_zero (i : Fin 64) : Tile.zero.rows[i] = 0 := Vector.getElem_replicate i.isLt

theorem Tile.side_zero (i : Fin 64) : Tile.zero.side[i] = 0 := Vector.getElem_replicate i.isLt

/-! What `exec` of each tile register form is. -/

theorem exec_tzmask (gd : GReg) (ts : TReg) (s : State) : exec (.tzmask gd ts) s = execTzmask gd ts s := rfl

theorem exec_tmov (td ts : TReg) (s : State) : exec (.tmov td ts) s = execTmov td ts s := rfl

theorem exec_tzero (td : TReg) (s : State) : exec (.tzero td) s = execTzero td s := rfl

/-- An instruction that may issue and whose own effect is to retire answers the retired state. -/
theorem next_of_issue {i : Instr} {s t : State} {body : State → Effect} (hx : exec i s = issue i s body)
    (hi : s.issueFault i = none) (hb : body s = .retire t) : exec i s = .next t.retire := by
  rw [hx, issue_admitted hi, hb]
  rfl

/-- `completes_setTile` for a statement that says less than which tile is written. -/
theorem writesTile_of_setTile {i : Instr} {s : State} {td : TReg} {v : Tile} {P : State → Prop}
    (hx : exec i s = .next (s.setTile td v).retire) (hP : ∀ t : State, t.tile td = v → P t) : WritesTile i s td P := by
  obtain ⟨t, ht, hr, hk, hv⟩ := completes_setTile hx
  exact ⟨t, ht, hr, hk, hP t hv⟩

/-- Settles O37, by the bits of the zero-row mask and what a written tile holds. -/
theorem tileRegisters : Obligations.TileRegisters := by
  unfold Obligations.TileRegisters
  refine ⟨fun s gd ts hi => ?_, fun s td ts hi => ?_, fun s td hi => ?_⟩
  · exact ⟨_, (s.tile ts).getLsbD_zeroRows, completes_setG (next_of_issue (exec_tzmask _ _ _) hi rfl)⟩
  · exact completes_setTile (next_of_issue (exec_tmov _ _ _) hi rfl)
  · refine writesTile_of_setTile (next_of_issue (exec_tzero _ _) hi rfl) (fun t ht i => ?_)
    rw [ht]
    exact ⟨Tile.rows_zero i, Tile.side_zero i⟩

end Sys2Proof.Machine
end

section
/-! PROOF. TRAP: it retires and enters supervisor mode, and an errand may not run it (R36, R204, R286). That performing the
earlier writes of a strand leaves whose turn it is comes first. -/

namespace Sys2Proof.Machine

/-! Performing writes leaves whose turn it is. -/

/-- A change that leaves whose turn it is does so as often as it is made. -/
theorem State.cur_foldl {α : Type} (f : State → α → State) (hf : ∀ s a, (f s a).cur = s.cur) (l : List α) (s : State) :
    (l.foldl f s).cur = s.cur := by
  induction l generalizing s with
  | nil => rfl
  | cons a l ih => rw [List.foldl_cons, ih, hf]

theorem State.dropLines_cur (s : State) (ls : List Nat) (cs : List CoreId) : (s.dropLines ls cs).cur = s.cur :=
  State.cur_foldl _ (fun _ _ => State.mapCore_cur _ _ _) _ _

theorem State.noteWrite_cur (s : State) (pa n : Nat) (tag : Option ScopeTag) : (s.noteWrite pa n tag).cur = s.cur := by
  unfold State.noteWrite
  dsimp only
  split
  · rfl
  · exact State.dropLines_cur _ _ _

theorem State.writePhys_cur (s : State) (pa : Nat) (bs : List Byte) (m : Option Master) (tag : Option ScopeTag) :
    (s.writePhys pa bs m tag).cur = s.cur := by
  simp only [State.writePhys, apply_ite State.cur, State.noteMaster_cur, State.noteWrite_cur, ite_self]

theorem State.logDenied_cur (s : State) (m : Master) (pa : Nat) (r : Right) : (s.logDenied m pa r).cur = s.cur := by
  unfold State.logDenied State.logRefusal
  split
  · exact State.logDeniedAt_cur _ _ _ _
  · rfl

theorem State.drainPart_cur (s : State) (c : CoreId) (w : PendingWrite) (pa : Nat) (bs : List Byte) :
    (s.drainPart c w pa bs).cur = s.cur := by
  unfold State.drainPart
  dsimp only
  split
  · rw [State.mapCore_cur, State.logDenied_cur]
  · split
    · rw [apply_ite State.cur, State.sendWrite_cur, ite_self]
    · rw [State.setUnseen_cur, State.writePhys_cur]
      simp only [apply_ite State.cur, State.mapCore_cur, ite_self]

theorem State.dropKept_cur (s : State) (k : GangKey) (p off n : Nat) : (s.dropKept k p off n).cur = s.cur := by
  unfold State.dropKept State.mapKept
  split
  · exact State.setGang_cur _ _
  · rfl

theorem State.drainSeg_cur (s : State) (c : CoreId) (w : PendingWrite) (g : Seg) : (s.drainSeg c w g).cur = s.cur := by
  unfold State.drainSeg
  split
  · exact State.cur_foldl _ (fun _ _ => State.drainPart_cur _ _ _ _ _) _ _
  · split
    · dsimp only
      rw [State.mapCore_cur, apply_ite State.cur, State.mapCore_cur, ite_self]
    · rw [State.dropKept_cur, State.pokePhys_cur]
    · rfl

theorem State.reportLost_cur (s : State) (c : CoreId) (w : PendingWrite) (gs : List Seg) :
    (s.reportLost c w gs).cur = s.cur := by
  rw [State.reportLost, apply_ite State.cur, State.mapCore_cur, ite_self]

theorem State.performWrite_cur (s : State) (c : CoreId) (w : PendingWrite) : (s.performWrite c w).cur = s.cur := by
  rw [State.performWrite, State.reportLost_cur, State.cur_foldl _ (fun _ _ => State.drainSeg_cur _ _ _ _),
    State.mapCore_cur]

theorem State.drainList_cur (s : State) (c : CoreId) (ws : List PendingWrite) : (s.drainList c ws).cur = s.cur := by
  induction ws generalizing s with
  | nil => rfl
  | cons w ws ih =>
    unfold State.drainList
    split
    · exact ih s
    · rw [ih, State.performWrite_cur]

theorem State.drainStrand_cur (s : State) (w : Who) : (s.drainStrand w).cur = s.cur := State.drainList_cur _ _ _

/-! Which strand may run a TRAP (R36, R287). -/

/-- The main strand in user mode may, and no other. -/
theorem issueFault_trap (s : State) (r : GReg) (imm : BitVec 16) :
    s.issueFault (.trap r imm) = if s.me.mode = .supervisor ∨ s.cur.errand = true
      then some (plainFault .illegalInstruction s.me.pc) else none := by
  have hp : privileged (.trap r imm) = false := rfl
  have hs : supervisorBarred (.trap r imm) = true := rfl
  have hc : isCallat (.trap r imm) = false := rfl
  have ht : namesTile (.trap r imm) = false := rfl
  have he : errandBarred (.trap r imm) = true := rfl
  have hm : mainBarred (.trap r imm) = false := rfl
  cases hmode : s.me.mode <;> cases herr : s.cur.errand <;>
    simp [State.issueFault, hp, hs, hc, ht, he, hm, hmode, herr]

/-- A form that the strand may not run takes its fault. -/
theorem raises_of_issueFault {i : Instr} {s : State} {body : State → Effect} {f : FaultInfo}
    (hx : exec i s = issue i s body) (hf : s.issueFault i = some f) : Raises i s f := by
  unfold Raises
  rw [hx, issue_eq, hf]
  rfl

/-! What the entry of a TRAP writes (R286, R292). -/

/-- Bits 56 to 1 of an address, at their places. -/
theorem sepcWord_eq (a : Word) : BitVec.ofNat 64 (bitsOf a 56 1 * 2) = a &&& 0x01FF_FFFF_FFFF_FFFE := by
  have hb : BitVec.ofNat 64 (bitsOf a 56 1 * 2) = (a.extractLsb' 1 56).setWidth 64 <<< 1 := by
    apply BitVec.eq_of_toNat_eq
    simp [bitsOf, Nat.shiftLeft_eq, Nat.shiftRight_eq_div_pow]
  have hm : (0x01FF_FFFF_FFFF_FFFE : Word) = (BitVec.allOnes 56).setWidth 64 <<< 1 := by decide
  rw [hb, hm]
  apply BitVec.eq_of_getLsbD_eq
  intro i hi
  simp only [BitVec.getLsbD_shiftLeft, BitVec.getLsbD_setWidth, BitVec.getLsbD_and, BitVec.getLsbD_extractLsb',
    BitVec.getLsbD_allOnes]
  cases i with
  | zero => simp
  | succ i => rw [Nat.add_sub_cancel, Nat.add_comm 1 i]; ac_rfl

/-- PHYS of CR.SSTATUS, at its place. -/
theorem physWord_eq (w : Word) : BitVec.ofNat 64 (bitsOf w 10 10 * 2 ^ 10) = w &&& BitVec.twoPow 64 10 := by
  have hbit : w.getLsbD 10 = decide (bitsOf w 10 10 = 1) := Nat.testBit_eq_decide_div_mod_eq
  have hlt : bitsOf w 10 10 < 2 := Nat.mod_lt _ (by decide)
  rw [BitVec.and_twoPow, hbit]
  obtain h | h : bitsOf w 10 10 = 0 ∨ bitsOf w 10 10 = 1 := by omega
  · rw [h]; rfl
  · rw [h]; rfl

/-- Bit 10 is below TREG. -/
theorem phys_and_treg (w : Word) (n : Nat) : (w &&& BitVec.twoPow 64 10) &&& BitVec.ofNat 64 (n * 2048) = 0#64 := by
  have hs : BitVec.ofNat 64 (n * 2048) = BitVec.ofNat 64 n <<< 11 := by
    apply BitVec.eq_of_toNat_eq
    simp [Nat.shiftLeft_eq]
  apply BitVec.eq_of_getLsbD_eq
  intro i hi
  simp only [hs, BitVec.getLsbD_and, BitVec.getLsbD_shiftLeft, BitVec.getLsbD_twoPow, BitVec.getLsbD_zero]
  by_cases h : 10 = i
  · simp [← h]
  · simp [h]

/-- CR.SSTATUS after a TRAP of the main strand: PHYS stays, and the operand's number is in TREG. -/
theorem sstatusWord_trap (old : Word) (r : GReg) :
    sstatusWord old r.val 0 false = (old &&& 0x400) ||| BitVec.ofNat 64 (r.val * 2048) := by
  have hk : (0x400 : Word) = BitVec.twoPow 64 10 := by decide
  rw [hk, ← BitVec.add_eq_or_of_and_eq_zero _ _ (phys_and_treg old r.val), ← physWord_eq, ← BitVec.ofNat_add, sstatusWord]
  refine congrArg (BitVec.ofNat 64) ?_
  simp only [Bool.toNat_false, Nat.reducePow]
  omega

theorem State.me_count (s : State) : s.count.me = s.me.cleared := by
  rw [State.count, State.me_setHere, State.me_eq]
  cases s.cur.errand <;> rfl

theorem State.order_count (s : State) : s.count.here.order = s.here.order := by
  rw [State.count, State.here_setHere, Core.count_order]

/-- The strand that a TRAP leaves in supervisor mode. -/
def Strand.trapped (x : Strand) (r : GReg) (imm : BitVec 16) (order : Nat) : Strand :=
  { x.cleared with
    mode := .supervisor
    pc := x.svec
    npc := x.svec
    sstatus := (x.sstatus &&& 0x400) ||| BitVec.ofNat 64 (r.val * 2048)
    sepc := x.npc &&& 0x01FF_FFFF_FFFF_FFFE
    scause := imm.setWidth 64
    sfaddr := 0
    sfinfo := 0xFFFC
    sarg := x.readG r
    sret := []
    rfloor := order }

theorem Strand.cleared_wait (x : Strand) : x.cleared.wait = none := by
  unfold Strand.cleared
  split <;> rfl

theorem Strand.enter_trap (x : Strand) (r : GReg) (imm : BitVec 16) (order : Nat) :
    (x.cleared.enter false 0 imm.toNat x.cleared.npc 0 0xFFFC r).fenceReads order = x.trapped r imm order := by
  have hg : x.cleared.readG r = x.readG r := Strand.cleared_readG x r x.cleared.pc
  simp only [Strand.enter, Strand.fenceReads, Strand.trapped, sepcWord_eq, sstatusWord_trap, hg, Strand.cleared_npc,
    Strand.cleared_svec, Strand.cleared_sstatus, Strand.cleared_wait, BitVec.ofNat_toNat, if_true]

theorem exec_trap (r : GReg) (imm : BitVec 16) (s : State) : exec (.trap r imm) s = execTrap r imm s := rfl

/-- Settles O9, by the entry that a TRAP makes once the earlier writes are performed, and the check that bars it. -/
theorem trapEntry : Obligations.TrapEntry := by
  unfold Obligations.TrapEntry
  refine ⟨fun s u r imm hi hu hd ha => ?_, fun s r imm _ he => ?_⟩
  · have hc : u.cur.errand = false := by
      rw [hu, State.drainStrand_cur]
      cases he : s.cur.errand with
      | false => rfl
      | true =>
        rw [issueFault_trap, if_pos (.inr he)] at hi
        cases hi
    rw [exec_trap, execTrap, issue_admitted hi, afterDrain_of_drainsTo ⟨hu, hd, fun _ => ha⟩]
    simp only [State.count_cur, hc, State.me_count, State.order_count, Strand.enter_trap]
    rfl
  · exact raises_of_issueFault (exec_trap r imm s) (by rw [issueFault_trap, if_pos (.inr he)])

end Sys2Proof.Machine
end

section
/-! PROOF. The integer forms (R182 to R184). The integer function of each form, cut to n bits, is the bit-vector operation
that the manual's table names; the counts of bits and the reversal of bytes come first. -/

namespace Sys2Proof.Machine

/-! Counts of bits and bytes. -/

theorem countBits_succ (n : Nat) (p : Nat → Bool) : countBits (n + 1) p = countBits n p + (p n).toNat := by
  simp only [countBits, List.range_succ, List.filter_append, List.length_append, List.filter_cons, List.filter_nil]
  cases p n <;> rfl

theorem countBits_ge (n k : Nat) : countBits n (fun i => decide (k ≤ i)) = n - k := by
  induction n with
  | zero => simp [countBits]
  | succ n ih =>
    rw [countBits_succ, ih]
    by_cases h : k ≤ n <;> simp [h] <;> omega

theorem countBits_eq_sum (n : Nat) (p : Nat → Bool) : countBits n p = ((List.range n).map (fun i => (p i).toNat)).sum := by
  induction n with
  | zero => rfl
  | succ n ih => simp [countBits_succ, ih, List.range_succ]

/-- Where a number is kept if `p` holds up to it, those kept are the ones before the first at which `p` fails. -/
theorem takeWhile_range' {p q : Nat → Bool} (h : ∀ i, q i = true ↔ ∀ j ≤ i, p j = true) (n s : Nat)
    (hs : ∀ j < s, p j = true) : (List.range' s n).takeWhile p = (List.range' s n).filter q := by
  induction n generalizing s with
  | zero => rfl
  | succ n ih =>
    rw [List.range'_succ]
    cases hp : p s with
    | true =>
      have hup : ∀ j < s + 1, p j = true := fun j hj =>
        (Nat.lt_or_eq_of_le (Nat.le_of_lt_succ hj)).elim (hs j) (fun e => e ▸ hp)
      have hq : q s = true := (h s).2 (fun j hj => hup j (Nat.lt_succ_of_le hj))
      rw [List.takeWhile_cons_of_pos hp, List.filter_cons_of_pos hq, ih (s + 1) hup]
    | false =>
      have hq : ∀ i, s ≤ i → ¬ q i = true := fun i hi hqi => by
        rw [(h i).1 hqi s hi] at hp
        cases hp
      have hrest : (List.range' (s + 1) n).filter q = [] :=
        List.filter_eq_nil_iff.2 (fun i hi => hq i (by have := List.mem_range'_1.1 hi; omega))
      rw [List.takeWhile_cons_of_neg (by rw [hp]; decide), List.filter_cons_of_neg (hq s (Nat.le_refl s)), hrest]

theorem length_takeWhile_range (n : Nat) {p q : Nat → Bool} (h : ∀ i, q i = true ↔ ∀ j ≤ i, p j = true) :
    ((List.range n).takeWhile p).length = countBits n q := by
  rw [countBits, List.range_eq_range', takeWhile_range' h n 0 (fun j hj => absurd hj (Nat.not_lt_zero j))]

/-- The low bits are zeros where each of them is. -/
theorem mod_two_pow_eq_zero_iff (a i : Nat) : a % 2 ^ (i + 1) = 0 ↔ ∀ j ≤ i, a / 2 ^ j % 2 = 0 := by
  have hbit (j : Nat) : a / 2 ^ j % 2 = 0 ↔ a.testBit j = false := by
    rw [Nat.testBit_eq_decide_div_mod_eq, decide_eq_false_iff_not]
    omega
  simp only [hbit]
  constructor
  · intro h j hj
    have ht := congrArg (fun m => m.testBit j) h
    simpa [Nat.testBit_mod_two_pow, Nat.lt_succ_of_le hj] using ht
  · intro h
    refine Nat.eq_of_testBit_eq (fun j => ?_)
    rw [Nat.testBit_mod_two_pow, Nat.zero_testBit]
    by_cases hj : j < i + 1
    · simp [h j (Nat.le_of_lt_succ hj)]
    · simp [hj]

theorem length_natLe (n a : Nat) : (natLe n a).length = n := by
  induction n generalizing a with
  | zero => rfl
  | succ n ih => simp [natLe, ih]

theorem leNat_append (xs ys : List Byte) : leNat (xs ++ ys) = leNat xs + 256 ^ xs.length * leNat ys := by
  induction xs with
  | nil => simp [leNat]
  | cons x xs ih =>
    simp only [List.cons_append, leNat, ih, List.length_cons, Nat.pow_succ', Nat.mul_add, Nat.add_assoc,
      Nat.mul_assoc]

theorem leNat_reverse_natLe (m a : Nat) :
    leNat (natLe m a).reverse = ((List.range m).map (fun k => a / 2 ^ (8 * k) % 256 * 2 ^ (8 * (m - 1 - k)))).sum := by
  induction m generalizing a with
  | zero => rfl
  | succ m ih =>
    have hstep (k : Nat) : a / 256 / 2 ^ (8 * k) % 256 * 2 ^ (8 * (m - 1 - k)) =
        a / 2 ^ (8 * (k + 1)) % 256 * 2 ^ (8 * (m + 1 - 1 - (k + 1))) := by
      have hp : 256 * 2 ^ (8 * k) = 2 ^ (8 * (k + 1)) := by
        rw [Nat.mul_add, Nat.pow_add]
        exact Nat.mul_comm _ _
      have hm : m + 1 - 1 - (k + 1) = m - 1 - k := by omega
      rw [Nat.div_div_eq_div_mul, hp, hm]
    have h256 : 256 ^ m = 2 ^ (8 * m) := by rw [Nat.pow_mul]
    simp only [natLe, List.reverse_cons, leNat_append, List.length_reverse, length_natLe, ih, hstep, List.range_succ_eq_map,
      List.map_cons, List.map_map, List.sum_cons, Function.comp_def, leNat, h256]
    simp [Nat.mul_comm, Nat.add_comm]

/-! Signed values. -/

theorem signedOf_toNat {n : Nat} (x : BitVec n) : signedOf n x.toNat = x.toInt := by
  have hlt := x.isLt
  rw [BitVec.toInt_eq_msb_cond, BitVec.msb_eq_decide, signedOf]
  cases n with
  | zero => simp [BitVec.eq_nil x]
  | succ n =>
    have hdiv : x.toNat / 2 ^ n < 2 := Nat.div_lt_of_lt_mul (by rwa [Nat.pow_succ] at hlt)
    have hiff : x.toNat / 2 ^ n % 2 = 1 ↔ 2 ^ n ≤ x.toNat := by
      rw [Nat.mod_eq_of_lt hdiv, ← Nat.one_le_div_iff (Nat.two_pow_pos n)]
      omega
    simp [hiff]

theorem two_pow_nonneg (n : Nat) : (0 : Int) ≤ 2 ^ n := Int.le_of_lt (Int.pow_pos (by decide))

theorem two_pow_ne_zero (n : Nat) : (2 : Int) ^ n ≠ 0 := Int.ne_of_gt (Int.pow_pos (by decide))

theorem toInt_eq_zero_iff {n : Nat} (x : BitVec n) : x.toInt = 0 ↔ x = 0 := by
  rw [← BitVec.toInt_inj]
  simp

/-! Each form's integer function at a width of n bits (R183). -/

section
variable {n : Nat} (x y : BitVec n)

theorem ofInt_intAdd : BitVec.ofInt n (intAdd n x.toNat y.toNat) = x + y := by
  simp [intAdd, BitVec.ofInt_add]

theorem ofInt_intSub : BitVec.ofInt n (intSub n x.toNat y.toNat) = x - y := by
  simp [intSub, Int.sub_eq_add_neg, BitVec.ofInt_add, BitVec.ofInt_neg, BitVec.sub_eq_add_neg]

theorem ofInt_intMul : BitVec.ofInt n (intMul n x.toNat y.toNat) = x * y := by
  simp [intMul, BitVec.ofInt_mul]

theorem ofInt_intAnd : BitVec.ofInt n (intAnd n x.toNat y.toNat) = x &&& y := by
  rw [intAnd, BitVec.ofInt_natCast, ← BitVec.toNat_and, BitVec.ofNat_toNat, BitVec.setWidth_eq]

theorem ofInt_intOr : BitVec.ofInt n (intOr n x.toNat y.toNat) = x ||| y := by
  rw [intOr, BitVec.ofInt_natCast, ← BitVec.toNat_or, BitVec.ofNat_toNat, BitVec.setWidth_eq]

theorem ofInt_intXor : BitVec.ofInt n (intXor n x.toNat y.toNat) = x ^^^ y := by
  rw [intXor, BitVec.ofInt_natCast, ← BitVec.toNat_xor, BitVec.ofNat_toNat, BitVec.setWidth_eq]

theorem ofInt_intAndn : BitVec.ofInt n (intAndn n x.toNat y.toNat) = x &&& ~~~y := by
  rw [intAndn, ← BitVec.toNat_not]
  exact ofInt_intAnd x (~~~y)

/-! Shifts and rotations. -/

theorem ofNat_mul_two_pow (k : Nat) : BitVec.ofNat n (x.toNat * 2 ^ k) = x <<< k := by
  apply BitVec.eq_of_toNat_eq
  rw [BitVec.toNat_ofNat, BitVec.toNat_shiftLeft, Nat.shiftLeft_eq]

theorem ofNat_div_two_pow (k : Nat) : BitVec.ofNat n (x.toNat / 2 ^ k) = x >>> k := by
  rw [← Nat.shiftRight_eq_div_pow, ← BitVec.toNat_ushiftRight, BitVec.ofNat_toNat, BitVec.setWidth_eq]

theorem ofInt_intShl : BitVec.ofInt n (intShl n x.toNat y.toNat) = x <<< (y.toNat % n) := by
  rw [← ofNat_mul_two_pow, ← BitVec.ofInt_natCast]
  simp [intShl]

theorem ofInt_intShr : BitVec.ofInt n (intShr n x.toNat y.toNat) = x >>> (y.toNat % n) := by
  rw [intShr, BitVec.ofInt_natCast, ofNat_div_two_pow]

theorem ofInt_intSra : BitVec.ofInt n (intSra n x.toNat y.toNat) = x.sshiftRight (y.toNat % n) := by
  rw [intSra, signedOf_toNat, BitVec.sshiftRight_eq, Int.shiftRight_eq_div_pow, Int.natCast_pow,
    Int.fdiv_eq_ediv_of_nonneg _ (two_pow_nonneg _)]
  rfl

theorem ofNat_mod_two_pow (m : Nat) : BitVec.ofNat n (m % 2 ^ n) = BitVec.ofNat n m := by
  apply BitVec.eq_of_toNat_eq
  simp only [BitVec.toNat_ofNat, Nat.mod_mod]

/-- The two parts of a rotated pattern have no bit in common. -/
theorem shiftLeft_add_ushiftRight {i j : Nat} (h : n ≤ i + j) : x <<< i + x >>> j = x <<< i ||| x >>> j := by
  apply BitVec.add_eq_or_of_and_eq_zero
  apply BitVec.eq_of_getLsbD_eq
  intro b hb
  rw [BitVec.getLsbD_and, BitVec.getLsbD_shiftLeft, BitVec.getLsbD_ushiftRight, BitVec.getLsbD_zero]
  by_cases hi : b < i
  · simp [hi]
  · rw [BitVec.getLsbD_of_ge x (j + b) (by omega), Bool.and_false]

theorem ofInt_intRol : BitVec.ofInt n (intRol n x.toNat y.toNat) = x.rotateLeft (y.toNat % n) := by
  rw [intRol, BitVec.ofInt_natCast, BitVec.ofNat_add, ofNat_mod_two_pow, ofNat_mul_two_pow, ofNat_div_two_pow,
    shiftLeft_add_ushiftRight x (by omega), BitVec.rotateLeft_def, Nat.mod_mod]

theorem ofInt_intRor : BitVec.ofInt n (intRor n x.toNat y.toNat) = x.rotateRight (y.toNat % n) := by
  rw [intRor, BitVec.ofInt_natCast, Nat.add_comm, BitVec.ofNat_add, ofNat_mod_two_pow, ofNat_mul_two_pow,
    ofNat_div_two_pow, shiftLeft_add_ushiftRight x (by omega), BitVec.rotateRight_def, Nat.mod_mod, BitVec.or_comm]

/-! High halves of products. -/

theorem ofInt_intMulhu :
    BitVec.ofInt n (intMulhu n x.toNat y.toNat) = ((x.setWidth (2 * n) * y.setWidth (2 * n)) >>> n).setWidth n := by
  have hx (z : BitVec n) : z.toNat % 2 ^ (2 * n) = z.toNat :=
    Nat.mod_eq_of_lt (Nat.lt_of_lt_of_le z.isLt (Nat.pow_le_pow_right (by decide) (by omega)))
  have hxy : x.toNat * y.toNat < 2 ^ (2 * n) := by
    rw [Nat.two_mul, Nat.pow_add]
    exact Nat.mul_lt_mul'' x.isLt y.isLt
  apply BitVec.eq_of_toNat_eq
  rw [intMulhu, BitVec.ofInt_natCast]
  simp [Nat.shiftRight_eq_div_pow, hx, Nat.mod_eq_of_lt hxy]

/-- The high half of a number's low 2n bits is the low half of what is left when its low n bits are dropped. -/
theorem ofInt_fdiv_two_pow (z : Int) :
    BitVec.ofInt n (z.fdiv (2 ^ n)) = (BitVec.ofInt (2 * n) z >>> n).setWidth n := by
  have hq : 2 ^ (2 * n) = (2 ^ n * 2 ^ n : Int) := by rw [Nat.two_mul, Int.pow_add]
  have hdiv : z / 2 ^ n = z % 2 ^ (2 * n) / 2 ^ n + 2 ^ n * (z / 2 ^ (2 * n)) := by
    rw [← Int.add_mul_ediv_left _ _ (two_pow_ne_zero n), ← Int.mul_assoc, ← hq, Int.emod_add_mul_ediv]
  have h0 : 0 ≤ z % 2 ^ (2 * n) := Int.emod_nonneg _ (two_pow_ne_zero _)
  apply BitVec.eq_of_toNat_eq
  rw [Int.fdiv_eq_ediv_of_nonneg _ (two_pow_nonneg n), hdiv, BitVec.toNat_setWidth, BitVec.toNat_ushiftRight,
    BitVec.toNat_ofInt, BitVec.toNat_ofInt, Nat.shiftRight_eq_div_pow]
  have hn : 0 ≤ (z % 2 ^ (2 * n) / 2 ^ n + 2 ^ n * (z / 2 ^ (2 * n))) % 2 ^ n := Int.emod_nonneg _ (two_pow_ne_zero _)
  apply Int.ofNat_inj.1
  simp only [Int.natCast_emod, Int.natCast_ediv, Int.natCast_pow, Int.cast_ofNat_Int]
  rw [Int.toNat_of_nonneg h0, Int.toNat_of_nonneg hn, Int.add_mul_emod_self_left]

theorem ofInt_intMulhs : BitVec.ofInt n (intMulhs n x.toNat y.toNat) =
    ((x.signExtend (2 * n) * y.signExtend (2 * n)) >>> n).setWidth n := by
  rw [intMulhs, signedOf_toNat, signedOf_toNat, ofInt_fdiv_two_pow, BitVec.ofInt_mul]
  rfl

/-! Quotients and remainders, division by zero and overflow. -/

theorem ofInt_intDivu : BitVec.ofInt n (intDivu n x.toNat y.toNat) = if y = 0 then BitVec.allOnes n else x / y := by
  have hy : y.toNat = 0 ↔ y = 0 := BitVec.toNat_inj (y := 0)
  simp only [intDivu, hy]
  split
  · have h1 : (2 ^ n - 1 : Int) = (BitVec.allOnes n).toNat := by
      rw [BitVec.toNat_allOnes, Int.natCast_sub (Nat.two_pow_pos n), Int.natCast_pow]
      rfl
    rw [h1, BitVec.ofInt_natCast, BitVec.ofNat_toNat, BitVec.setWidth_eq]
  · rw [BitVec.ofInt_natCast, ← BitVec.toNat_udiv, BitVec.ofNat_toNat, BitVec.setWidth_eq]

theorem ofInt_intRemu : BitVec.ofInt n (intRemu n x.toNat y.toNat) = if y = 0 then x else x % y := by
  have hy : y.toNat = 0 ↔ y = 0 := BitVec.toNat_inj (y := 0)
  simp only [intRemu, hy]
  split
  · simp
  · rw [BitVec.ofInt_natCast, ← BitVec.toNat_umod, BitVec.ofNat_toNat, BitVec.setWidth_eq]

theorem ofInt_tdiv : BitVec.ofInt n (x.toInt.tdiv y.toInt) = x.sdiv y := by
  apply BitVec.eq_of_toInt_eq
  rw [BitVec.toInt_sdiv, BitVec.toInt_ofInt]

theorem ofInt_tmod : BitVec.ofInt n (x.toInt.tmod y.toInt) = x.srem y := by
  rw [← BitVec.toInt_srem, BitVec.ofInt_toInt]

/-- The quotient that overflows is the dividend again, cut to n bits. -/
theorem ofInt_overflow {a b : Int} (ha : a = -2 ^ (n - 1)) (hb : b = -1) :
    BitVec.ofInt n (a.tdiv b) = BitVec.ofInt n (-2 ^ (n - 1)) := by
  have hq : a.tdiv b = 2 ^ (n - 1) := by rw [ha, hb, Int.tdiv_neg, Int.neg_tdiv]; simp
  rw [hq]
  cases n with
  | zero => exact Subsingleton.elim _ _
  | succ n =>
    have hs : (-2 ^ n + (2 ^ (n + 1) : Nat) : Int) = 2 ^ n := by
      rw [Int.natCast_pow, Int.cast_ofNat_Int, Int.pow_succ]
      omega
    apply BitVec.eq_of_toNat_eq
    rw [BitVec.toNat_ofInt, BitVec.toNat_ofInt, Nat.add_sub_cancel, ← Int.add_emod_right (-2 ^ n), hs]

theorem ofInt_intDivs : BitVec.ofInt n (intDivs n x.toNat y.toNat) = if y = 0 then BitVec.allOnes n else x.sdiv y := by
  simp only [intDivs, signedOf_toNat, toInt_eq_zero_iff]
  split
  · rw [← BitVec.neg_one_eq_allOnes, BitVec.ofInt_neg]; rfl
  · split
    · rename_i h
      rw [← ofInt_tdiv, ofInt_overflow h.1 h.2]
    · exact ofInt_tdiv x y

theorem ofInt_intRems : BitVec.ofInt n (intRems n x.toNat y.toNat) = if y = 0 then x else x.srem y := by
  simp only [intRems, intDivs, signedOf_toNat, toInt_eq_zero_iff]
  split
  · exact BitVec.ofInt_toInt
  · split
    · rename_i h
      rw [← ofInt_tmod, h.1, h.2]
      simp
    · rw [← ofInt_tmod, Int.tmod_def]

/-! Extremes and comparisons. -/

theorem ofInt_intMin : BitVec.ofInt n (intMin n x.toNat y.toNat) = if x.slt y then x else y := by
  simp only [intMin, signedOf_toNat, BitVec.slt_iff_toInt_lt]
  split
  · rw [Int.min_eq_left (Int.le_of_lt ‹_›), BitVec.ofInt_toInt]
  · rw [Int.min_eq_right (Int.not_lt.1 ‹_›), BitVec.ofInt_toInt]

theorem ofInt_intMax : BitVec.ofInt n (intMax n x.toNat y.toNat) = if x.slt y then y else x := by
  simp only [intMax, signedOf_toNat, BitVec.slt_iff_toInt_lt]
  split
  · rw [Int.max_eq_right (Int.le_of_lt ‹_›), BitVec.ofInt_toInt]
  · rw [Int.max_eq_left (Int.not_lt.1 ‹_›), BitVec.ofInt_toInt]

theorem ofInt_intMinu : BitVec.ofInt n (intMinu n x.toNat y.toNat) = if x.ult y then x else y := by
  simp only [intMinu, BitVec.ult_iff_toNat_lt]
  split
  · rw [Nat.min_eq_left (Nat.le_of_lt ‹_›), BitVec.ofInt_natCast, BitVec.ofNat_toNat, BitVec.setWidth_eq]
  · rw [Nat.min_eq_right (Nat.not_lt.1 ‹_›), BitVec.ofInt_natCast, BitVec.ofNat_toNat, BitVec.setWidth_eq]

theorem ofInt_intMaxu : BitVec.ofInt n (intMaxu n x.toNat y.toNat) = if x.ult y then y else x := by
  simp only [intMaxu, BitVec.ult_iff_toNat_lt]
  split
  · rw [Nat.max_eq_right (Nat.le_of_lt ‹_›), BitVec.ofInt_natCast, BitVec.ofNat_toNat, BitVec.setWidth_eq]
  · rw [Nat.max_eq_left (Nat.not_lt.1 ‹_›), BitVec.ofInt_natCast, BitVec.ofNat_toNat, BitVec.setWidth_eq]

/-- A truth value as a result. -/
theorem ofInt_ite (c : Prop) [Decidable c] : BitVec.ofInt n (if c then 1 else 0) = if c then 1 else 0 := by
  split <;> simp

theorem ofInt_intSlt : BitVec.ofInt n (intSlt n x.toNat y.toNat) = if x.slt y then 1 else 0 := by
  simp only [intSlt, signedOf_toNat, ofInt_ite, BitVec.slt_iff_toInt_lt]

theorem ofInt_intSltu : BitVec.ofInt n (intSltu n x.toNat y.toNat) = if x.ult y then 1 else 0 := by
  simp only [intSltu, ofInt_ite, BitVec.ult_iff_toNat_lt]

theorem ofInt_intSeq : BitVec.ofInt n (intSeq n x.toNat y.toNat) = if x = y then 1 else 0 := by
  simp only [intSeq, ofInt_ite, BitVec.toNat_inj]

theorem ofInt_intSne : BitVec.ofInt n (intSne n x.toNat y.toNat) = if x = y then 0 else 1 := by
  simp only [intSne, ofInt_ite, ne_eq, BitVec.toNat_inj]
  exact ite_not _ _ _

/-! Counts of bits and the reversal of bytes. -/

theorem ofInt_intClz (b : Nat) :
    BitVec.ofInt n (intClz n x.toNat b) = BitVec.ofNat n (countBits n (fun i => decide (x.toNat < 2 ^ i))) := by
  have hlow (i : Nat) : x.toNat < 2 ^ i ↔ (if x.toNat = 0 then 0 else x.toNat.log2 + 1) ≤ i := by
    split
    · rw [‹x.toNat = 0›]
      exact iff_of_true (Nat.two_pow_pos i) (Nat.zero_le i)
    · rw [Nat.succ_le_iff, Nat.log2_lt ‹_›]
  simp only [hlow, countBits_ge, intClz]
  split
  · rw [BitVec.ofInt_natCast, Nat.sub_zero]
  · rw [BitVec.ofInt_natCast, Nat.sub_sub, Nat.add_comm 1]

theorem ofInt_intCtz (b : Nat) :
    BitVec.ofInt n (intCtz n x.toNat b) = BitVec.ofNat n (countBits n (fun i => decide (x.toNat % 2 ^ (i + 1) = 0))) := by
  rw [intCtz, BitVec.ofInt_natCast, length_takeWhile_range]
  simpa using fun i => mod_two_pow_eq_zero_iff x.toNat i

theorem ofInt_intPopc (b : Nat) :
    BitVec.ofInt n (intPopc n x.toNat b) = BitVec.ofNat n (countBits n (fun i => x.getLsbD i)) := by
  have hbit (i : Nat) : (x.getLsbD i).toNat = x.toNat / 2 ^ i % 2 := by
    rw [BitVec.getLsbD, Nat.toNat_testBit]
  simp only [intPopc, BitVec.ofInt_natCast, countBits_eq_sum, hbit]

theorem ofInt_intBswap (b : Nat) : BitVec.ofInt n (intBswap n x.toNat b) =
    BitVec.ofNat n (((List.range (n / 8)).map (fun k =>
      x.toNat / 2 ^ (8 * k) % 256 * 2 ^ (8 * (n / 8 - 1 - k)))).sum) := by
  rw [intBswap, BitVec.ofInt_natCast, leNat_reverse_natLe]

end

/-! Both widths, and the lists of forms. -/

/-- An operation of two operands, at every width. -/
abbrev WidthOp := (n : Nat) → BitVec n → BitVec n → BitVec n

/-- The integer function of a form, cut to a width, is an operation on bit vectors. -/
def Computes (f : Nat → Nat → Nat → Int) (op : WidthOp) : Prop :=
  ∀ (n : Nat) (x y : BitVec n), BitVec.ofInt n (f n x.toNat y.toNat) = op n x y

theorem intValue_eq_byWidth {f : Nat → Nat → Nat → Int} {op : WidthOp}
    (h : Computes f op) (wd : Width) (x y : Word) : intValue wd f x y = byWidth op wd x y := by
  cases wd with
  | x =>
    have hm (z : Word) : z.toNat % 2 ^ 64 = z.toNat := Nat.mod_eq_of_lt z.isLt
    simp only [intValue, byWidth, widthBits, hm, h 64 x y, BitVec.signExtend_eq]
  | w => simp only [intValue, byWidth, widthBits, ← BitVec.toNat_setWidth, h 32]

/-- A form that writes an integer function's value to a g register writes the operation's value, and nothing else. -/
theorem completes_intValue {i : Instr} {f : Nat → Nat → Nat → Int} {op : WidthOp} {gd : GReg} {wd : Width} {x y : Word}
    {s : State} {body : State → Effect} (hx : exec i s = issue i s body)
    (hb : body s = .retire (s.setG gd (intValue wd f x y))) (h : Computes f op) (hi : s.issueFault i = none) :
    Completes i s { g := [gd] } (fun t => t.holds gd (byWidth op wd x y)) := by
  rw [← intValue_eq_byWidth h]
  exact completes_setG (next_of_issue hx hi hb)

/-- A register form is executed by an integer function that computes an operation. -/
def RegForm (mk : GReg → GReg → GReg → Width → Instr) (op : WidthOp) : Prop :=
  ∃ f, (∀ gd ga gb wd s, exec (mk gd ga gb wd) s = intReg (mk gd ga gb wd) f gd ga gb wd s) ∧ Computes f op

/-- The same for a form of one operand, which the model runs with g0 as its second source. -/
def UnaryForm (mk : GReg → GReg → Width → Instr) (op : (n : Nat) → BitVec n → BitVec n) : Prop :=
  ∃ f, (∀ gd ga wd s, exec (mk gd ga wd) s = intReg (mk gd ga wd) f gd ga 0 wd s) ∧ Computes f (fun n x _ => op n x)

/-- The same for an immediate form. -/
def ImmForm (mk : GReg → GReg → BitVec 22 → Width → Instr) (op : WidthOp) : Prop :=
  ∃ f, (∀ gd ga imm wd s, exec (mk gd ga imm wd) s = intImm (mk gd ga imm wd) f gd ga imm wd s) ∧ Computes f op

theorem regForm_of_mem : ∀ p ∈ integerForms, RegForm p.1 p.2 := by
  simp only [integerForms, List.forall_mem_cons]
  exact ⟨⟨intAdd, fun _ _ _ _ _ => rfl, fun _ => ofInt_intAdd⟩,
    ⟨intSub, fun _ _ _ _ _ => rfl, fun _ => ofInt_intSub⟩,
    ⟨intAnd, fun _ _ _ _ _ => rfl, fun _ => ofInt_intAnd⟩,
    ⟨intOr, fun _ _ _ _ _ => rfl, fun _ => ofInt_intOr⟩,
    ⟨intXor, fun _ _ _ _ _ => rfl, fun _ => ofInt_intXor⟩,
    ⟨intAndn, fun _ _ _ _ _ => rfl, fun _ => ofInt_intAndn⟩,
    ⟨intShl, fun _ _ _ _ _ => rfl, fun _ => ofInt_intShl⟩,
    ⟨intShr, fun _ _ _ _ _ => rfl, fun _ => ofInt_intShr⟩,
    ⟨intSra, fun _ _ _ _ _ => rfl, fun _ => ofInt_intSra⟩,
    ⟨intRol, fun _ _ _ _ _ => rfl, fun _ => ofInt_intRol⟩,
    ⟨intRor, fun _ _ _ _ _ => rfl, fun _ => ofInt_intRor⟩,
    ⟨intMul, fun _ _ _ _ _ => rfl, fun _ => ofInt_intMul⟩,
    ⟨intMulhs, fun _ _ _ _ _ => rfl, fun _ => ofInt_intMulhs⟩,
    ⟨intMulhu, fun _ _ _ _ _ => rfl, fun _ => ofInt_intMulhu⟩,
    ⟨intDivs, fun _ _ _ _ _ => rfl, fun _ => ofInt_intDivs⟩,
    ⟨intDivu, fun _ _ _ _ _ => rfl, fun _ => ofInt_intDivu⟩,
    ⟨intRems, fun _ _ _ _ _ => rfl, fun _ => ofInt_intRems⟩,
    ⟨intRemu, fun _ _ _ _ _ => rfl, fun _ => ofInt_intRemu⟩,
    ⟨intMin, fun _ _ _ _ _ => rfl, fun _ => ofInt_intMin⟩,
    ⟨intMax, fun _ _ _ _ _ => rfl, fun _ => ofInt_intMax⟩,
    ⟨intMinu, fun _ _ _ _ _ => rfl, fun _ => ofInt_intMinu⟩,
    ⟨intMaxu, fun _ _ _ _ _ => rfl, fun _ => ofInt_intMaxu⟩,
    ⟨intSlt, fun _ _ _ _ _ => rfl, fun _ => ofInt_intSlt⟩,
    ⟨intSltu, fun _ _ _ _ _ => rfl, fun _ => ofInt_intSltu⟩,
    ⟨intSeq, fun _ _ _ _ _ => rfl, fun _ => ofInt_intSeq⟩,
    ⟨intSne, fun _ _ _ _ _ => rfl, fun _ => ofInt_intSne⟩,
    List.forall_mem_nil _⟩

theorem unaryForm_of_mem : ∀ p ∈ unaryForms, UnaryForm p.1 p.2 := by
  simp only [unaryForms, List.forall_mem_cons]
  exact ⟨⟨intClz, fun _ _ _ _ => rfl, fun _ x y => ofInt_intClz x y.toNat⟩,
    ⟨intCtz, fun _ _ _ _ => rfl, fun _ x y => ofInt_intCtz x y.toNat⟩,
    ⟨intPopc, fun _ _ _ _ => rfl, fun _ x y => ofInt_intPopc x y.toNat⟩,
    ⟨intBswap, fun _ _ _ _ => rfl, fun _ x y => ofInt_intBswap x y.toNat⟩,
    List.forall_mem_nil _⟩

theorem immForm_of_mem : ∀ p ∈ immediateForms, ImmForm p.1 p.2 := by
  simp only [immediateForms, List.forall_mem_cons]
  exact ⟨⟨intAdd, fun _ _ _ _ _ => rfl, fun _ => ofInt_intAdd⟩,
    ⟨intAnd, fun _ _ _ _ _ => rfl, fun _ => ofInt_intAnd⟩,
    ⟨intOr, fun _ _ _ _ _ => rfl, fun _ => ofInt_intOr⟩,
    ⟨intXor, fun _ _ _ _ _ => rfl, fun _ => ofInt_intXor⟩,
    ⟨intShl, fun _ _ _ _ _ => rfl, fun _ => ofInt_intShl⟩,
    ⟨intShr, fun _ _ _ _ _ => rfl, fun _ => ofInt_intShr⟩,
    ⟨intSra, fun _ _ _ _ _ => rfl, fun _ => ofInt_intSra⟩,
    ⟨intRor, fun _ _ _ _ _ => rfl, fun _ => ofInt_intRor⟩,
    ⟨intMul, fun _ _ _ _ _ => rfl, fun _ => ofInt_intMul⟩,
    ⟨intSlt, fun _ _ _ _ _ => rfl, fun _ => ofInt_intSlt⟩,
    ⟨intSltu, fun _ _ _ _ _ => rfl, fun _ => ofInt_intSltu⟩,
    ⟨intSeq, fun _ _ _ _ _ => rfl, fun _ => ofInt_intSeq⟩,
    ⟨intMin, fun _ _ _ _ _ => rfl, fun _ => ofInt_intMin⟩,
    ⟨intMax, fun _ _ _ _ _ => rfl, fun _ => ofInt_intMax⟩,
    List.forall_mem_nil _⟩

/-- Settles O11, by the operation that each form's integer function computes. -/
theorem integerResults : Obligations.IntegerResults := by
  unfold Obligations.IntegerResults
  refine ⟨fun p hp s gd ga gb wd hi => ?_, fun p hp s gd ga wd hi => ?_, fun p hp s gd ga imm wd hi => ?_⟩
  · obtain ⟨f, hx, hf⟩ := regForm_of_mem p hp
    exact completes_intValue (hx _ _ _ _ _) rfl hf hi
  · obtain ⟨f, hx, hf⟩ := unaryForm_of_mem p hp
    exact completes_intValue (hx _ _ _ _) rfl hf hi
  · obtain ⟨f, hx, hf⟩ := immForm_of_mem p hp
    exact completes_intValue (hx _ _ _ _ _) rfl hf hi

end Sys2Proof.Machine
end
